-- ==== Sys2Proof/Word.lean ====
section
/-! DEFINITION. The word types of the YN1920: 64-bit registers (R6), bytes, and the fixed widths the
formats of the spec use. -/

namespace Sys2Proof

/-- A control-space register, a Conductor register, a summary (R6). -/
abbrev Word := BitVec 64

/-- One byte of memory (R5). -/
abbrev Byte := BitVec 8

/-- An array word (R86). -/
abbrev AWord := BitVec 128

/-- A wide register of a bank core, or a descriptor (R231, R89). -/
abbrev Wide := BitVec 256

/-- The code part of a conductor or bank instruction below its six opcode bits (R62, R232). -/
abbrev Body := BitVec 26

end Sys2Proof
end

