-- ==== Sys2Proof/Events.lean ====
section
/-! DEFINITION. The operands of the commands: what an event brings with it from outside the module
(a measured beat edge, a received frame, a telemetry sample), and the fields of an array word. -/

namespace Sys2Proof

/-- The fields of an array word below its opcode (R86): SEC [119:118], WAITB [117:104], FLG [103:96],
A [95:64], B [63:32], C [31:0]. The opcode [127:120] is the command's constructor. -/
structure ArrayArgs where
  sec   : BitVec 2
  waitb : BitVec 14
  flg   : BitVec 8
  a     : BitVec 32
  b     : BitVec 32
  c     : BitVec 32
  deriving DecidableEq, Repr

/-- The blocks that own a function register (R49). -/
inductive FnBlock where
  | cnd | ary | tmv | mdv | lnk | fol | twn | pwr
  deriving DecidableEq, Repr

/-- What the beat receiver measures of one edge (R25, R27): its distance from the predicted edge and the
phase of the internal edge against the source, both in signed ns, and, from a link source, the stamped count
and hop count. From a link source both are measured at the arrival of the stamp's slot on the stamp port, and `edgePs`
is its EDGE_PS (R293). -/
structure EdgeMeas where
  offset : BitVec 32
  phase  : BitVec 32
  stamp  : Option Word
  hops   : BitVec 4
  edgePs : BitVec 32
  deriving DecidableEq, Repr

/-- An error that the module corrects without any command of its own, as one of the beat's events: a single-bit error in
a tile store or a G-buffer, by core (R82), or in a lane program store (R136), a retried read, or write or command, of a
memory device (R211), a foil slot that passes its second read (R311). -/
inductive Corrected where
  | tileStore (core : BitVec 10) | gbuffer (core : BitVec 10) | program | readRetry | writeRetry | foilRetry
  deriving DecidableEq, Repr

/-- The classes of foreign work that a bank serves at a boundary, in the order of R223. -/
inductive ServiceClass where
  | refreshAtLimit | hubRead | hostRead | hubWrite | hostWrite | refresh
  deriving DecidableEq, Repr

/-- Who met an uncorrectable error: the SRC numbers 0 to 6 of MDV_ERR_LOC (R227, R230), where SRC 6 tells a collective
(`link`) from a read served to a remote requester (`remote`, R228); port L on a foil (R311); and a store of the array
itself: a tile store or G-buffer of a core at a byte offset (R82), the lane program store of a core at an operation
(R136), the instruction store of a bank core (R239). -/
inductive ErrSource where
  | sheet | conductor | tier | bankCore | host | scrub | link | foil | remote
  | tileStore (core : BitVec 10) (offset : BitVec 20)
  | gbuffer (core : BitVec 10) (offset : BitVec 20)
  | program (core : BitVec 10) (op : BitVec 12)
  | bankStore
  deriving DecidableEq, Repr

/-- An uncorrectable error as it is detected (R227): who met it, whether it is of kind interface, the bank
(device × 640 + die × 32 + bank), row and column word, the syndrome, and the U-address of the access if it had one. -/
structure UncorrInfo where
  source : ErrSource
  iface  : Bool
  bank   : Nat
  row    : BitVec 16
  col    : BitVec 6
  synd   : BitVec 10
  uaddr  : Option (BitVec 48)
  deriving DecidableEq, Repr

/-- The header of a Fiosko frame (R285) beside its TYPE, which the command names, and its CRC. -/
structure FrameHdr where
  vch  : Bool
  seq  : BitVec 11
  ack  : BitVec 11
  dst  : BitVec 18
  src  : BitVec 18
  tag  : BitVec 13
  off  : BitVec 7
  len  : BitVec 4
  hops : BitVec 5
  last : Bool
  deriving DecidableEq, Repr

/-- A received control slot (R287): the stamp (BEAT, EDGE_PS, SHOPS) if FLAGS.STAMP is set, NAK_SEQ if FLAGS.NAK is
set, whether the GTAG verifies, the credits, the sender's NEIGH and SPARE, and the symbols that the codewords since
the last control slot had corrected (R284). -/
structure CtrlFrame where
  stamp   : Option (Word × BitVec 32 × BitVec 8)
  nak     : Option (BitVec 11)
  gtagOk  : Bool
  credits : List (BitVec 32)
  neigh   : BitVec 18
  spare   : Bool
  fecsym  : Nat
  deriving DecidableEq, Repr

/-- Why a received data frame is discarded (R284, R286, R288). -/
inductive FrameReject where
  | outOfSequence | crc | reservedType | codeword
  deriving DecidableEq, Repr

/-- A mirror image (R332, R333): the head's bank number, base row and commit word, and the nine rows of 2,048 bytes. -/
structure MirrorImage where
  bank   : BitVec 16
  row    : BitVec 16
  commit : Word
  rows   : List (List Byte)
  deriving DecidableEq, Repr

/-- One telemetry sample (R348): input power in W, voltage in 10 mV, current in 10 mA; rail groups in W; energy of
the 10 µs in mJ; junction temperatures of the quarters and the hub, inlet and outlet in °C. -/
structure Telemetry where
  power  : BitVec 16
  vin    : BitVec 16
  iin    : BitVec 16
  quart  : BitVec 16
  hub    : BitVec 16
  mem    : BitVec 16
  link   : BitVec 16
  energy : BitVec 32
  q0     : BitVec 8
  q1     : BitVec 8
  q2     : BitVec 8
  q3     : BitVec 8
  hubT   : BitVec 8
  inlet  : BitVec 8
  outlet : BitVec 8
  deriving DecidableEq, Repr

/-- What a clock anneal finds of one core (R362): its highest step passed, in 25 MHz steps, and whether its margin
has fallen below the factory margin. -/
structure CoreAnneal where
  core   : Nat
  passed : BitVec 8
  margin : Bool
  deriving DecidableEq, Repr

/-- One failing unit word of a self-test (R398), as BST_LOGn shows it. -/
structure FailEntry where
  area   : BitVec 4
  core   : BitVec 10
  dev    : BitVec 5
  die    : BitVec 5
  bank   : BitVec 5
  row    : BitVec 16
  col    : BitVec 6
  bit    : BitVec 9
  bits   : BitVec 4
  offset : BitVec 48
  deriving DecidableEq, Repr

/-- What the phases of a power-up or warm sequence meet (R393, R394): the phase that does not end within its limit,
if one hangs; the lanes of P7 that train, with its neighbour's NEIGH and SPARE and its one-way delay (R290); whether the
torus pairs and each memory device train; and what the self-tests find. -/
structure PowerUp where
  hang    : Option (BitVec 4)
  p7Lanes : BitVec 5
  p7Neigh : BitVec 18
  p7Spare : Bool
  p7Delay : BitVec 32
  trained : BitVec 24
  loops   : BitVec 3
  fails   : List FailEntry
  deriving DecidableEq, Repr

end Sys2Proof
end

