-- ==== Sys2Proof/Syntax.lean ====
section
/-! DEFINITION. The commands of the YN1920, one constructor per row of spec/opcode_table.json, each with the
row's mnemonic and its rule. A conductor or bank instruction carries the 26 bits below its opcode (R62, R232);
an array word carries its fields (R86); a command that completes or releases a word names it by its enqueue
number. The commands with operands stand before those without, each part in the table's order. -/

namespace Sys2Proof

/-- A command: a write or a read of a register, an instruction or word reaching execution, a frame, a pin. -/
inductive Instr where
  /-- BEAT_EDGE (R29). An accepted or generated beat edge advances the beat count; every unit acts on it and
  edge-timed effects take hold. -/
  | beatEdge (edge : Option EdgeMeas) (corrected : List Corrected)
  /-- SOURCE_RECOVERY (R26). A lost source returns and is taken back by slewing the phase by at most 5 ns per beat. -/
  | sourceRecovery (fallback : Bool) (phase : BitVec 32)
  /-- BEA_LOAD_WRITE (R30). A host write to BEA_LOAD is checked, and if accepted is loaded into the count at the next
  edge, or otherwise sets BEA_CAUSE.EPOCH. -/
  | beaLoadWrite (v : Word)
  /-- BEA_ALARM_WRITE (R31). A write of BEA_ALARM arms the alarm, and fires at once if BEAT equals the beat in
  progress. -/
  | beaAlarmWrite (v : Word)
  /-- CND_CAST_BASE_WRITE (R81). A write of the cast base is taken, or is ignored with CND_CAUSE.EPOCH while a cast is
  admitting, admitted, running or held. -/
  | cndCastBaseWrite (v : Word)
  /-- CND_RUN_WRITE (R39). A write of a start beat runs checks 1 and 2, and on passing them stores the start beat and
  starts admission. -/
  | cndRunWrite (v : Word)
  /-- FN_EPOCH_WRITE (R50). A write of a new EPOCH to a block's function register advances, returns or recovers the
  units' setting sets, or is refused with EPOCH. -/
  | fnEpochWrite (blk : FnBlock) (epoch : BitVec 16) (unitFails : Bool)
  /-- FN_GO (R51). GO written to a function register enters RUN if the function is STOPPED, not MIXED and APPLIED
  equals EPOCH. -/
  | fnGo (blk : FnBlock)
  /-- FN_STOP (R51). STOP written to a function register requests STOPPING. -/
  | fnStop (blk : FnBlock)
  /-- ALU (R63). The Conductor applies the FN function to two general registers. -/
  | alu (body : Body)
  /-- ADDI (R63). The Conductor adds a sign-extended immediate. -/
  | addi (body : Body)
  /-- ANDI (R63). The Conductor ANDs a register with an immediate. -/
  | andi (body : Body)
  /-- ORI (R63). The Conductor ORs a register with an immediate. -/
  | ori (body : Body)
  /-- XORI (R63). The Conductor XORs a register with an immediate. -/
  | xori (body : Body)
  /-- SHI (R63). The Conductor shifts a register by an immediate, SLL, SRL or SRA. -/
  | shi (body : Body)
  /-- SLTI (R63). The Conductor sets a register if another is less than an immediate, signed. -/
  | slti (body : Body)
  /-- MOVZ (R63). The Conductor loads a shifted 16-bit immediate with zeroes elsewhere. -/
  | movz (body : Body)
  /-- MOVK (R63). The Conductor inserts a 16-bit immediate and keeps the other bits. -/
  | movk (body : Body)
  /-- LD (R64). The Conductor issues a 64-bit load from a U-address through the tier map. -/
  | ld (body : Body)
  /-- ST (R64). The Conductor posts a 64-bit store to a U-address. -/
  | st (body : Body)
  /-- RDSM (R63). The Conductor reads a summary register once its pending count is zero. -/
  | rdsm (body : Body)
  /-- RDSP (R59). The Conductor reads a special register. -/
  | rdsp (body : Body)
  /-- SMW (R63). The Conductor writes a summary register. -/
  | smw (body : Body)
  /-- SMCLR (R63). The Conductor zeroes the summary registers named by an immediate mask. -/
  | smclr (body : Body)
  /-- BRF (R66). The Conductor compares two registers and may branch forward, with a check against the loop body. -/
  | brf (body : Body)
  /-- LOOP (R65). The Conductor opens a counted loop over the following LEN instructions. -/
  | loop (body : Body)
  /-- WAITB (R70). The Conductor holds for BEATS beats. -/
  | waitb (body : Body)
  /-- WAITA (R70). The Conductor holds until the start beat plus a register, and sets LATE if that beat has passed. -/
  | waita (body : Body)
  /-- WAITQ (R70). The Conductor holds until the named queues fall to LEVEL, and with DONE until their words complete.
  -/
  | waitq (body : Body)
  /-- AWI (R67). The Conductor checks one AWORDS entry and enqueues it. -/
  | awi (body : Body)
  /-- AWIP (R67). The Conductor enqueues one AWORDS entry with field C replaced from a register. -/
  | awip (body : Body)
  /-- AWN (R67). The Conductor enqueues a run of AWORDS entries. -/
  | awn (body : Body)
  /-- AWR (R67). The Conductor enqueues a word composed from two registers. -/
  | awr (body : Body)
  /-- MJMP (R71). The Conductor transfers to a mould, computing its entry beat and any lateness. -/
  | mjmp (body : Body)
  /-- MBR (R72). The Conductor transfers to a mould if a summary meets the condition. -/
  | mbr (body : Body)
  /-- MSEL (R71). The Conductor transfers to a mould indexed by a register. -/
  | msel (body : Body)
  /-- MEND (R75). The Conductor ends the cast and stops fetching. -/
  | mend (body : Body)
  /-- HALT (R75). The Conductor ends the cast with a code in CND_HALT. -/
  | halt (body : Body)
  /-- SUMMARY_DELIVERY (R60). A producing word's summary is applied to its sm register in enqueue order and the
  pending count falls. -/
  | summaryDelivery (sm : BitVec 4)
  /-- WORD_COMPLETE (R87). An issued word finishes its work and write-out, frees its buffer entry and lets later words
  start. -/
  | wordComplete (seq : Nat)
  /-- WAITABS (R44). The word issues no earlier than an absolute beat from the start beat, setting LATE if that beat
  has passed. -/
  | waitabs (a : ArrayArgs)
  /-- SBAR (R44). The word holds the masked sections until all of them reach it. -/
  | sbar (a : ArrayArgs)
  /-- SBAR_RELEASE (R44). Every masked section has reached the SBAR and all of them resume. -/
  | sbarRelease (seq : Nat)
  /-- FBAR (R45). The module arrives at a fabric barrier and contributes its arrival beat to the group max-reduction. -/
  | fbar (a : ArrayArgs)
  /-- FBAR_RELEASE (R45). The release beat is reached with the group result held, and the sections resume, counting
  lateness under R46. -/
  | fbarRelease (seq : Nat)
  /-- FBAR_HELD_WARNING (R47). A barrier still held WARN beats after its planned beat sets BEA_CAUSE.HELD once. -/
  | fbarHeldWarning (seq : Nat)
  /-- PART (R48). A partition switch begins: queues close, the Sheet stops and the new epoch is staged. -/
  | part (a : ArrayArgs)
  /-- NOP (R14). The word waits its WAITB beats and does nothing else. -/
  | nop (a : ArrayArgs)
  /-- MMUL (R95). The unit computes G := X · Y into the G-buffer, with an optional write-out. -/
  | mmul (a : ArrayArgs)
  /-- MMUL_TX (R95). The unit computes G := Xᵀ · Y. -/
  | mmulTx (a : ArrayArgs)
  /-- MMUL_TY (R95). The unit computes G := X · Yᵀ. -/
  | mmulTy (a : ArrayArgs)
  /-- MMUL_TXY (R95). The unit computes G := Xᵀ · Yᵀ. -/
  | mmulTxy (a : ArrayArgs)
  /-- MMAC (R95). The unit accumulates X · Y into G. -/
  | mmac (a : ArrayArgs)
  /-- MMAC_TX (R95). The unit accumulates Xᵀ · Y into G. -/
  | mmacTx (a : ArrayArgs)
  /-- MMAC_TY (R95). The unit accumulates X · Yᵀ into G. -/
  | mmacTy (a : ArrayArgs)
  /-- MMAC_TXY (R95). The unit accumulates Xᵀ · Yᵀ into G. -/
  | mmacTxy (a : ArrayArgs)
  /-- MTACC (R95). The unit loads G from Z, accumulates X · Y and stores G to Z. -/
  | mtacc (a : ArrayArgs)
  /-- MTACC_TX (R95). As MTACC, with X transposed. -/
  | mtaccTx (a : ArrayArgs)
  /-- MTACC_TY (R95). As MTACC, with Y transposed. -/
  | mtaccTy (a : ArrayArgs)
  /-- MTACC_TXY (R95). As MTACC, with both operands transposed. -/
  | mtaccTxy (a : ArrayArgs)
  /-- GLOAD (R95). The unit loads G-buffer tiles and headers from Z. -/
  | gload (a : ArrayArgs)
  /-- GSTORE (R95). The unit converts G-buffer tiles and writes them to Z. -/
  | gstore (a : ArrayArgs)
  /-- GCLR (R95). The unit empties G-buffer tiles and sets their anchor from Z. -/
  | gclr (a : ArrayArgs)
  /-- ASCORE (R103). The unit computes scaled attention scores X · Yᵀ with an optional causal mask and writes Z. -/
  | ascore (a : ArrayArgs)
  /-- AROWS (R104). The unit writes each G row multiplied by its factor to Z. -/
  | arows (a : ArrayArgs)
  /-- AGSCALE (R104). The unit scales each G row by its factor at the tile's anchor. -/
  | agscale (a : ArrayArgs)
  /-- ARY_CFG_WRITE (R108). A write of ARY_CFG is staged for the next epoch if the Sheet is STOPPED with no cast, and
  is otherwise refused with EPOCH. -/
  | aryCfgWrite (v : Word)
  /-- CRW_SEL_WRITE (R109). A write selects a core and store, or leaves CRW_SEL unchanged with ADDR if CORE is out of
  range. -/
  | crwSelWrite (v : Word)
  /-- CRW_DATA_WRITE (R109). A write stores 64 bits in the selected store and advances OFFSET, or is ignored with
  ACTIVE unless the Sheet is STOPPED. -/
  | crwDataWrite (v : Word)
  /-- EMAP (R137). The lanes run an element program over the iteration space and write the element outputs. -/
  | emap (a : ArrayArgs)
  /-- ERED (R145). The lanes run an element program with one or two reductions and write the group results. -/
  | ered (a : ArrayArgs)
  /-- VDW (R154). The lanes compute a depth-wise or narrow-group convolution in exact A128 sums. -/
  | vdw (a : ArrayArgs)
  /-- CONV (R167). The matrix unit computes a dense convolution into the G-buffer. -/
  | conv (a : ArrayArgs)
  /-- CONVA (R167). The matrix unit accumulates a dense convolution into G. -/
  | conva (a : ArrayArgs)
  /-- CONVWG (R169). The matrix unit computes a convolution weight gradient. -/
  | convwg (a : ArrayArgs)
  /-- CONVWGA (R169). The matrix unit accumulates a convolution weight gradient. -/
  | convwga (a : ArrayArgs)
  /-- POOL (R173). The lanes compute max or average pooling. -/
  | pool (a : ArrayArgs)
  /-- RESAMPLE (R174). The lanes resample by nearest or linear interpolation. -/
  | resample (a : ArrayArgs)
  /-- TCOPY (R197). The word copies or converts tiles from X to Z. -/
  | tcopy (a : ArrayArgs)
  /-- MIGRATE (R196). The tier manager queues the page moves of MIGR entries. -/
  | migrate (a : ArrayArgs)
  /-- PAGE_MOVE_COMPLETE (R188). A page copy completes atomically, LIVE is rewritten and waiting accesses proceed. -/
  | pageMoveComplete (upage : Nat)
  /-- STEPADM (R203). The hub reads slot headers and admits or rejects the step's inputs. -/
  | stepadm (a : ArrayArgs)
  /-- TMV_CFG_WRITE (R206). A write of TMV_CFG is staged for the next epoch, or refused with EPOCH. -/
  | tmvCfgWrite (v : Word)
  /-- REFRESH (R213). A refresh interval falls due and a bank receives a refresh command, or postpones it within its
  limit. -/
  | refresh (bank : Nat) (postpone : Bool)
  /-- INTERFACE_TRACKING (R210). Every 100 ms a controller pauses one channel for 0.5 µs to track interface timing. -/
  | interfaceTracking (dev : Nat) (channel : Nat)
  /-- MDV_CTRL_RETRAIN (R210). A write retrains every channel while MDV_FN is STOPPED. -/
  | mdvCtrlRetrain (trained : BitVec 24)
  /-- SCRUB_READ (R219). Scrub reads the next sealed row and rewrites corrected words. -/
  | scrubRead (row : Nat)
  /-- BANK_BOUNDARY_SERVICE (R223). At an instruction boundary a bank serves one row cycle of foreign work in class
  order while its program pauses. -/
  | bankBoundaryService (bank : Nat) (classes : List ServiceClass)
  /-- UNCORRECTABLE_ERROR (R227). An uncorrectable read is detected and recorded; bank starts and commit writes are
  held from that clock. -/
  | uncorrectableError (err : UncorrInfo)
  /-- MDV_REPAIR_GO (R229). A write with GO starts a soft or hard row repair, or refuses it with REPAIR. -/
  | mdvRepairGo (v : Word)
  /-- MDV_CFG_WRITE (R230). A write of MDV_CFG is staged while MDV_FN is STOPPED, or refused with EPOCH. -/
  | mdvCfgWrite (v : Word)
  /-- BLAUNCH (R242). The hub checks a launch and loads the program range and queues bank programs. -/
  | blaunch (a : ArrayArgs)
  /-- BWAIT (R242). The word completes when the latest launch on its tag completes, delivering the combined summary. -/
  | bwait (a : ArrayArgs)
  /-- BANK_PROGRAM_START (R244). A pending bank program starts when its die and device have room and its load is
  complete. -/
  | bankProgramStart (bank : Nat)
  /-- LAUNCH_COMPLETE (R245). Every program of a launch has ended and the tag's results are formed. -/
  | launchComplete (tag : BitVec 4)
  /-- BANK_ADD (R233). A bank core adds two scalar registers. -/
  | bankAdd (bank : Nat) (body : Body)
  /-- BANK_SUB (R233). A bank core subtracts two scalar registers. -/
  | bankSub (bank : Nat) (body : Body)
  /-- BANK_AND (R233). A bank core performs a scalar AND. -/
  | bankAnd (bank : Nat) (body : Body)
  /-- BANK_OR (R233). A bank core performs a scalar OR. -/
  | bankOr (bank : Nat) (body : Body)
  /-- BANK_XOR (R233). A bank core performs a scalar XOR. -/
  | bankXor (bank : Nat) (body : Body)
  /-- BANK_ADDI (R233). A bank core adds an immediate. -/
  | bankAddi (bank : Nat) (body : Body)
  /-- BANK_SHLI (R233). A bank core shifts left by an immediate. -/
  | bankShli (bank : Nat) (body : Body)
  /-- BANK_SHRI (R233). A bank core shifts right by an immediate. -/
  | bankShri (bank : Nat) (body : Body)
  /-- BANK_BEQ (R233). A bank core branches if equal. -/
  | bankBeq (bank : Nat) (body : Body)
  /-- BANK_BNE (R233). A bank core branches if not equal. -/
  | bankBne (bank : Nat) (body : Body)
  /-- BANK_BLTU (R233). A bank core branches if less, unsigned. -/
  | bankBltu (bank : Nat) (body : Body)
  /-- BANK_WBC (R233). A bank core broadcasts 32 bits to the FP32 lanes of a wide register. -/
  | bankWbc (bank : Nat) (body : Body)
  /-- BANK_WINS (R233). A bank core inserts a 64-bit lane. -/
  | bankWins (bank : Nat) (body : Body)
  /-- BANK_WEXT (R233). A bank core extracts a 64-bit lane. -/
  | bankWext (bank : Nat) (body : Body)
  /-- BANK_WCRC (R233). A bank core extends a CRC-64 over a wide register. -/
  | bankWcrc (bank : Nat) (body : Body)
  /-- BANK_LDW (R236). A bank core loads a column or half word of its bank. -/
  | bankLdw (bank : Nat) (body : Body)
  /-- BANK_STW (R236). A bank core stores a column or half word within its window. -/
  | bankStw (bank : Nat) (body : Body)
  /-- BANK_STC (R236). A bank core writes a commit word, held while an uncorrectable error stands. -/
  | bankStc (bank : Nat) (body : Body)
  /-- BANK_ROWOP (R220). A bank core performs a row operation, ZERO, COPY, NOT, AND, OR, XOR or RESEAL, in one
  subarray. -/
  | bankRowop (bank : Nat) (body : Body)
  /-- BANK_CHPUT (R247). A bank core sends a wide word up the chain. -/
  | bankChput (bank : Nat) (body : Body)
  /-- BANK_CHGET (R247). A bank core takes the oldest word of its inbox, waiting while it is empty. -/
  | bankChget (bank : Nat) (body : Body)
  /-- CHAIN_WORD_ARRIVAL (R247). A chain word reaches the next bank's inbox and releases a waiting CHGET. -/
  | chainWordArrival (bank : Nat)
  /-- BANK_FADD (R233). A bank core adds FP32 lanes. -/
  | bankFadd (bank : Nat) (body : Body)
  /-- BANK_FSUB (R233). A bank core subtracts FP32 lanes. -/
  | bankFsub (bank : Nat) (body : Body)
  /-- BANK_FMUL (R233). A bank core multiplies FP32 lanes. -/
  | bankFmul (bank : Nat) (body : Body)
  /-- BANK_FFMA (R233). A bank core fused-multiply-adds FP32 lanes. -/
  | bankFfma (bank : Nat) (body : Body)
  /-- BANK_FDIV (R233). A bank core divides FP32 lanes. -/
  | bankFdiv (bank : Nat) (body : Body)
  /-- BANK_FSQRT (R233). A bank core takes the square roots of FP32 lanes. -/
  | bankFsqrt (bank : Nat) (body : Body)
  /-- BANK_FMIN (R233). A bank core takes the minima of FP32 lanes. -/
  | bankFmin (bank : Nat) (body : Body)
  /-- BANK_FMAX (R233). A bank core takes the maxima of FP32 lanes. -/
  | bankFmax (bank : Nat) (body : Body)
  /-- BANK_IADD (R233). A bank core adds int32 lanes. -/
  | bankIadd (bank : Nat) (body : Body)
  /-- BANK_ISUB (R233). A bank core subtracts int32 lanes. -/
  | bankIsub (bank : Nat) (body : Body)
  /-- BANK_WAND (R233). A bank core performs a 256-bit AND. -/
  | bankWand (bank : Nat) (body : Body)
  /-- BANK_WOR (R233). A bank core performs a 256-bit OR. -/
  | bankWor (bank : Nat) (body : Body)
  /-- BANK_WXOR (R233). A bank core performs a 256-bit XOR. -/
  | bankWxor (bank : Nat) (body : Body)
  /-- BANK_WMOV (R233). A bank core copies a wide register. -/
  | bankWmov (bank : Nat) (body : Body)
  /-- BANK_WCAT (R233). A bank core joins high and low halves into FP32 masters. -/
  | bankWcat (bank : Nat) (body : Body)
  /-- BANK_WHI (R233). A bank core extracts the high halves of FP32 lanes. -/
  | bankWhi (bank : Nat) (body : Body)
  /-- BANK_WLO (R233). A bank core extracts the low halves of FP32 lanes. -/
  | bankWlo (bank : Nat) (body : Body)
  /-- BANK_KADD (R235). A bank core performs a compensated add with int8 error terms. -/
  | bankKadd (bank : Nat) (body : Body)
  /-- BANK_END (R233). A bank program ends with its result. -/
  | bankEnd (bank : Nat) (body : Body)
  /-- GFLUSH (R265). The cores quantise G-buffer tiles to G8 with error feedback, write scale proposals and clear the
  tiles. -/
  | gflush (a : ArrayArgs)
  /-- GDEPOSIT (R274). The hub writes the scaled shard sum into row 8 of each ingot. -/
  | gdeposit (a : ArrayArgs)
  /-- GHARV (R274). The hub copies each ingot's high halves into the tile-layout weights. -/
  | gharv (a : ArrayArgs)
  /-- STEPABORT (R278). The hub restores every ingot of the range to the committed state of the previous step. -/
  | stepabort (a : ArrayArgs)
  /-- CTRL_FRAME (R287). A control slot is received carrying a beat stamp, NAK, GTAG, credits and NEIGH. -/
  | ctrlFrame (port : Nat) (f : CtrlFrame)
  /-- FRAME_CRC_FAIL (R288). A data frame out of sequence, failing CRC or of a reserved TYPE is discarded and a NAK
  requested. -/
  | frameCrcFail (port : Nat) (why : FrameReject)
  /-- PORT_RETRAIN_TIMEOUT (R288). A port retraining after 8 failures is not up within 10 ms and goes down with
  LNK_CAUSE.DOWN. -/
  | portRetrainTimeout (port : Nat)
  /-- RREQ (R301). A read request arrives and is forwarded, served within an exposure window or answered with NACK. -/
  | rreq (port : Nat) (h : FrameHdr) (addr : Nat) (len : Nat)
  /-- RDATA (R302). Read data arrives for a pending transaction, or is discarded if abandoned. -/
  | rdata (port : Nat) (h : FrameHdr) (payload : List Byte)
  /-- WREQ (R301). A write request arrives and is forwarded, accepted or refused with NACK. -/
  | wreq (port : Nat) (h : FrameHdr) (addr : Nat) (len : Nat)
  /-- WDATA (R302). Write data arrives and is written, with WACK sent once visible. -/
  | wdata (port : Nat) (h : FrameHdr) (payload : List Byte)
  /-- WACK (R302). A write-complete arrives and completes the requester's write. -/
  | wack (port : Nat) (h : FrameHdr)
  /-- NACK (R301). A refusal arrives, sets REFUSED, and the requesting word faults with ADDR. -/
  | nack (port : Nat) (h : FrameHdr)
  /-- RED_FRAME (R323). A reduction block or CSCAL value arrives and is added in the port, or held or discarded. -/
  | redFrame (port : Nat) (h : FrameHdr) (payload : List Byte)
  /-- GATH_FRAME (R323). A gather or broadcast block arrives and is written or passed on. -/
  | gathFrame (port : Nat) (h : FrameHdr) (payload : List Byte)
  /-- BAR_FRAME (R324). A barrier arrival value arrives and is combined, or refused with CHECK on a sequence mismatch.
  -/
  | barFrame (port : Nat) (h : FrameHdr) (payload : List Byte)
  /-- LOOP_TRAINING_DONE (R290). Phase 1 loop training of the torus pairs through the bypass ends, or fails with
  TRAIN. -/
  | loopTrainingDone (pair : Nat) (lanes : BitVec 8)
  /-- NEIGHBOUR_TRAINING_DONE (R290). Phase 3 training with the neighbour ends with a width and NEIGH, possibly a
  neighbour change. -/
  | neighbourTrainingDone (port : Nat) (lanes : BitVec 16) (neigh : BitVec 18) (spare : Bool) (r : List Byte)
  /-- DELAY_MEASURED (R290). Phase 4 measures the one-way delay and the port is up. -/
  | delayMeasured (port : Nat) (delay : BitVec 32)
  /-- LNK_CTRL_RETRAIN (R291). A write retrains the named ports from phase 3. -/
  | lnkCtrlRetrain (ports : BitVec 8)
  /-- LINK_ANNEAL (R292). A port's anneal falls due and runs in an idle window, or regardless after the period. -/
  | linkAnneal (port : Nat)
  /-- LINK_ANNEAL_END (R292). Anneal finishes re-adjusting and the port returns to carrying data. -/
  | linkAnnealEnd (port : Nat) (delay : BitVec 32)
  /-- TRANSACTION_STALL (R303). A transaction pends beyond WARN beats and sets LNK_CAUSE.STALL once. -/
  | transactionStall (tag : Nat)
  /-- LNK_CONFIG_WRITE (R306). A write of LNK_ID, LNK_CFG or the tables is staged while LNK_FN is STOPPED, or refused
  with EPOCH. -/
  | lnkConfigWrite (offset : BitVec 24) (v : Word)
  /-- LNK_AP_WRITE (R299). A write of an aperture entry is accepted if the aperture is closed or being closed with the
  load map, and otherwise refused. -/
  | lnkApWrite (aperture : BitVec 8) (v : Word)
  /-- CSCAL (R318). The group combines one 64-bit value per member under OP and delivers it to every member. -/
  | cscal (a : ArrayArgs)
  /-- CRSC (R317). The group reduce-scatters G8 tiles into exact G32 shard sums. -/
  | crsc (a : ArrayArgs)
  /-- CAGR (R317). The group gathers every member's tiles into every member. -/
  | cagr (a : ArrayArgs)
  /-- CAR (R317). The group combines tiles element-wise into every member. -/
  | car (a : ArrayArgs)
  /-- CBCAST (R317). The group copies ROOT's tiles into every member. -/
  | cbcast (a : ArrayArgs)
  /-- CWAIT (R319). The word completes when every earlier instance of its group completes. -/
  | cwait (a : ArrayArgs)
  /-- COLLECTIVE_START (R315). A collective instance held by the instance limits starts once within them. -/
  | collectiveStart (seq : Nat)
  /-- COLLECTIVE_COMPLETE (R319). A member has sent all its blocks and written all its Z tiles. -/
  | collectiveComplete (seq : Nat)
  /-- COLLECTIVE_STALL (R325). A collective in flight beyond BEA_BAR.WARN sets FOL_CAUSE.STALL once. -/
  | collectiveStall (seq : Nat)
  /-- FOL_GROUP_WRITE (R328). A write of a group register is staged while FOL_FN is STOPPED, or refused with EPOCH. -/
  | folGroupWrite (offset : BitVec 24) (v : Word)
  /-- TWN_CTRL_RESUME (R338). A write of RESUME completes a waiting THOLD with DECISION. -/
  | twnCtrlResume (decision : BitVec 32)
  /-- MIRROR_IMAGE (R333). A mirror image of 37 frames is received and applied in order, or refused whole, then
  acknowledged. -/
  | mirrorImage (tag : BitVec 13) (image : MirrorImage)
  /-- MIRROR_ACK (R334). An acknowledgement of an image arrives at the sender. -/
  | mirrorAck (tag : BitVec 13) (status : BitVec 16)
  /-- DIGEST_TRANSFER (R338). The twin's digest pair arrives and the waiting TDCMP compares. -/
  | digestTransfer (own mirror : Word)
  /-- VERIFY_TRANSFER (R338). The twin's ingot digests arrive and TVERIFY compares them. -/
  | verifyTransfer (pairs : List (Word × Word))
  /-- TMIRROR (R332). The hub sends each ingot of the range to the twin as a mirror image. -/
  | tmirror (a : ArrayArgs)
  /-- TPULL (R338). The hub copies mirror ingots from a source module through peer apertures. -/
  | tpull (a : ArrayArgs)
  /-- TDIGEST (R338). The hub delivers the shard digest of own or mirror ingots. -/
  | tdigest (a : ArrayArgs)
  /-- TDCMP (R338). The hub exchanges digest pairs with the twin and delivers the mismatch bits. -/
  | tdcmp (a : ArrayArgs)
  /-- TVERIFY (R338). The hub exchanges ingot digests with the twin and records mismatches. -/
  | tverify (a : ArrayArgs)
  /-- TRDIG (R338). The hub delivers the range digest of a tensor. -/
  | trdig (a : ArrayArgs)
  /-- THOLD (R338). The word holds until the host writes RESUME, setting HELD and HOLD. -/
  | thold (a : ArrayArgs)
  /-- TSNAP (R344). The hub writes a past step's high halves from the ring to DEST. -/
  | tsnap (a : ArrayArgs)
  /-- TMARK (R345). The word opens or closes the FWD or SPLIT phase count. -/
  | tmark (a : ArrayArgs)
  /-- TRECOV (R338). The word delivers TWN_RECOV.CODE. -/
  | trecov (a : ArrayArgs)
  /-- TWN_CFG_WRITE (R346). A write of TWN_CFG is staged while TWN_FN is STOPPED, or refused with EPOCH. -/
  | twnCfgWrite (v : Word)
  /-- TWN_RDCTL_GO (R346). A write of GO starts the range-digest engine while no cast runs, or is refused with EPOCH. -/
  | twnRdctlGo (v : Word)
  /-- TEMPER_SAMPLE (R348). Every 10 µs the Temper unit takes a telemetry sample and the cap loop computes the cap
  rate. -/
  | temperSample (t : Telemetry)
  /-- THERMAL_SHUTDOWN (R355). A junction at 110 °C quenches the array, releases the ring, logs the event and turns
  off the main rails. -/
  | thermalShutdown (sensor : BitVec 8)
  /-- DROOP_DETECT (R356). A quarter rail droops beyond MV, so its droop rate falls to DRATE. -/
  | droopDetect (quarter : BitVec 2)
  /-- DROOP_HOLD_EXPIRE (R356). DHOLD clocks pass after the last detection and the droop rate begins to rise. -/
  | droopHoldExpire (quarter : BitVec 2)
  /-- DROOP_RATE_STEP (R356). Every UP clocks the droop rate rises by 1 toward 64. -/
  | droopRateStep (quarter : BitVec 2)
  /-- SWARF_HOLD_EXPIRE (R358). HOLD beats of swarf at a waiting barrier pass and decay begins. -/
  | swarfHoldExpire (sec : BitVec 2)
  /-- SWARF_DECAY_STEP (R358). Every DOWN clocks the swarf rate falls by 1. -/
  | swarfDecayStep (sec : BitVec 2)
  /-- RAMP_STEP (R358). Every UP clocks after a release the ramp rate rises by 1. -/
  | rampStep (sec : BitVec 2)
  /-- PWR_FREQ_WRITE (R361). A write of FSTEP requests a core clock, pending until a quiet beat. -/
  | pwrFreqWrite (v : Word)
  /-- CLOCK_ANNEAL_COMPLETE (R362). The anneal finishes all quarters and writes the patina. -/
  | clockAnnealComplete (results : List CoreAnneal)
  /-- PWR_CONFIG_WRITE (R365). A write of an epoch-bound PWR register is staged while PWR_FN is STOPPED, or refused
  with EPOCH. -/
  | pwrConfigWrite (offset : BitVec 24) (v : Word)
  /-- CRD (R367). The host reads a control-space register. -/
  | crd (offset : BitVec 24)
  /-- CWR (R369). The host writes a control-space register, subject to privilege. -/
  | cwr (offset : BitVec 24) (v : Word)
  /-- MRD (R367). The host reads memory by U-address or P-address. -/
  | mrd (pspace : Bool) (addr : Word) (len : BitVec 16)
  /-- MWR (R367). The host writes memory by U-address or P-address. -/
  | mwr (pspace : Bool) (addr : Word) (data : List Byte)
  /-- SOPEN (R371). The host opens the session handshake and the module answers SCHAL with a nonce, or LOCKED. -/
  | sopen (slot : Word) (nonce : List Byte)
  /-- SPROOF (R371). The host's proof is checked and the session opens with SOK, or AUTH is answered. -/
  | sproof (slot : Word) (proof : List Byte)
  /-- SKEY (R370). The owner installs or empties a key slot. -/
  | skey (slot : Word) (priv : BitVec 8) (key : List Byte)
  /-- FKEY (R375). The owner installs or erases the fabric key. -/
  | fkey (key : List Byte)
  /-- FWW (R377). The owner writes image bytes into the inactive bank. -/
  | fww (offset : Word) (data : List Byte)
  /-- FWEND (R377). The owner ends an image and starts its verification. -/
  | fwend (len : Word)
  /-- ATTEST (R379). The host requests a signed attestation report. -/
  | attest (nonce : List Byte)
  /-- SEC_CLAIM_WRITE (R370). An SMBus write stores 8 bytes of the claim key while UNCLAIMED. -/
  | secClaimWrite (n : BitVec 2) (v : Word)
  /-- COLD_RESET (R393). Power-on, a PWR_EN cycle or exit from PS4 resets the whole module and runs the power-up
  sequence. -/
  | coldReset (pu : PowerUp)
  /-- RST_IN_N (R384). RST_IN_N held low for at least 1 µs starts a warm reset, whose sequence begins at its rising
  edge. -/
  | rstInN (pu : PowerUp)
  /-- SYS_RESET_WARM (R384). An owner write of WARM starts a warm reset. -/
  | sysResetWarm (pu : PowerUp)
  /-- RST_CTRL_PORT (R387). A write resets the named ports, which retrain from phase 3. -/
  | rstCtrlPort (ports : BitVec 8)
  /-- SYS_PSTATE_WRITE (R388). A write requests a power state, which is entered or refused with PSTATE. -/
  | sysPstateWrite (v : Word)
  /-- RST_FENCE_SET (R399). A write of SET requests that a quarter be fenced from the next reset, or is refused with
  FENCE. -/
  | rstFenceSet (quarter : BitVec 2)
  /-- BST_CTRL_GO (R396). A write of GO starts a BIST of a quarter, T1 or a device, or refuses it. -/
  | bstCtrlGo (v : Word)
  /-- BIST_COMPLETE (R397). A BIST on command ends, zeroes its target and records the result. -/
  | bistComplete (fails : List FailEntry)
  /-- SMBUS_READ (R402). An SMBus read returns 8 bytes of a register reachable from SMBus, or zero. -/
  | smbusRead (offset : BitVec 24)
  /-- SMBUS_WRITE (R402). An SMBus write stores 8 bytes into a register reachable from SMBus. -/
  | smbusWrite (offset : BitVec 24) (v : Word)
  /-- CAUSE_W1C_WRITE (R10). A write of ones clears cause bits unless an event meets them in the same clock. -/
  | causeW1cWrite (offset : BitVec 24) (v : Word)
  /-- RC_REGISTER_READ (R8). A read of an RC register returns its value and clears it. -/
  | rcRegisterRead (offset : BitVec 24)
  /-- REGISTER_WRITE (R7). A write to a register with no row of its own updates its RW fields, subject to R7 and R11. -/
  | registerWrite (offset : BitVec 24) (v : Word)
  /-- PORT_LINK_LOSS (R291). An up port loses its link, for instance when a neighbouring bypass opens or closes or P7
  goes down, and retrains from phase 3, closing the session on P7 and unsoldering on P6 where that applies. -/
  | portLinkLoss (port : Nat)
  /-- MEMORY_DIE_TEMPERATURE_CROSSING (R222). The hottest die of an M80 device crosses 85 °C or 95 °C, which switches
  its refresh window or lowers or restores its bank activity budget and sets MDV_CAUSE.HOT. -/
  | memoryDieTemperatureCrossing (dev : Nat) (temp : BitVec 8)
  /-- BEAT_LOSS (R25). Three consecutive beats pass without an accepted edge, so the receiver sets BEA_CAUSE.LOSS and
  changes to the fallback source or enters holdover. -/
  | beatLoss
  /-- HOLDOVER_EXPIRY (R26). HOLD_MAX beats pass in holdover, so the receiver sets HOLDEXP and continues free-running.
  -/
  | holdoverExpiry
  /-- CAST_ADMISSION (R39). Admission runs checks 3 to 8, copies segments to staging, and ends complete or refused
  with its cause. -/
  | castAdmission
  /-- CAST_START (R41). At the start-beat edge the staged copies take effect as a new epoch, the tier map replaces the
  load map, and the Conductor enters RUN. -/
  | castStart
  /-- CND_FN_STOP (R78). CND_FN.STOP stops the Conductor at the next instruction boundary, or cancels an admission in
  progress. -/
  | cndFnStop
  /-- CND_FN_GO (R78). CND_FN.GO resumes a cast stopped by STOP at the stopped PC, and the Sheet function returns to
  RUN. -/
  | cndFnGo
  /-- CND_QUENCH (R79). A write of 1 to CND_QUENCH quenches the array at the next beat edge, discarding and stopping
  words and holding the cast. -/
  | cndQuench
  /-- CONDUCTOR_STOPPED (R75). After MEND, HALT, STOP or an exception, the queues drain and the Conductor function
  reaches STOPPED with its WHY code. -/
  | conductorStopped
  /-- LD_DATA_RETURN (R64). The load data returns and is written to the destination register, ending the stall. -/
  | ldDataReturn
  /-- WAITB_EXPIRE (R70). The wait of a WAITB runs out and the Conductor continues. -/
  | waitbExpire
  /-- WAITA_EXPIRE (R70). The beat named by a WAITA is reached and the Conductor continues. -/
  | waitaExpire
  /-- WAITQ_MET (R70). The condition of a WAITQ holds and the Conductor continues. -/
  | waitqMet
  /-- ENQUEUE_RESUME (R69). A queue entry frees or a pending count falls below 63, and a stalled enqueue proceeds. -/
  | enqueueResume
  /-- PART_APPLY_CHECK (R48). At beat 9 of the switch APPLIED is read, and the switch goes on to GO or holds with
  ARY_CAUSE.EPOCH. -/
  | partApplyCheck
  /-- CRW_DATA_READ (R109). A read returns 64 bits of the selected store and advances OFFSET, or returns zero with
  ACTIVE unless the Sheet is STOPPED. -/
  | crwDataRead
  /-- PAGE_MOVE_START (R193). A queued move begins when a move slot is free, choosing a place and evicting if needed,
  or fails with QUOTA. -/
  | pageMoveStart
  /-- TMV_CTRL_RELEASE (R200). A write of RELEASE starts moving every page of a held cast back to its home. -/
  | tmvCtrlRelease
  /-- RELEASE_COMPLETE (R200). Release ends: LIVE := HOME everywhere, the load map is restored and ADMIT becomes idle.
  -/
  | releaseComplete
  /-- UNCORR_PHASE_STOP (R227). At the next beat edge, words are discarded and stopped, bank cores stop and the
  Conductor reaches STOPPED with WHY 0x6. -/
  | uncorrPhaseStop
  /-- REPAIR_COMPLETE (R229). A row repair finishes copying to the spare and maps the row. -/
  | repairComplete
  /-- MDV_FN_STOP (R230). MDV_FN.STOP is accepted only with no cast and the load map, and otherwise sets EPOCH. -/
  | mdvFnStop
  /-- LNK_CTRL_TAKE (R291). A write of TAKE drives RING_TAKE_N low to open the bypass, or is refused with TRAIN. -/
  | lnkCtrlTake
  /-- LNK_CTRL_GIVE (R291). A write of GIVE releases RING_TAKE_N. -/
  | lnkCtrlGive
  /-- TWN_CTRL_SOLDER (R329). A write of SOLDER starts soldering and sends SOLDER on P6, or is refused. -/
  | twnCtrlSolder
  /-- TWN_CTRL_UNSOLDER (R330). A write of UNSOLDER closes apertures 0–29, sends UNSOLDER and returns to SINGLE. -/
  | twnCtrlUnsolder
  /-- SOLDER_TIMEOUT (R329). No SOLDER arrives within 100 ms and the state returns to SINGLE with TWN_CAUSE.SOLDER. -/
  | solderTimeout
  /-- SOLDER_TRANSFER (R329). A SOLDER control transfer arrives, and the pair becomes SOLDERED once both have been
  sent and received. -/
  | solderTransfer
  /-- UNSOLDER_TRANSFER (R330). An UNSOLDER arrives, so apertures 0–29 close and the state becomes SINGLE. -/
  | unsolderTransfer
  /-- RANGE_DIGEST_COMPLETE (R335). The range-digest engine finishes and writes TWN_RDRES, or ends early at an
  unmapped line. -/
  | rangeDigestComplete
  /-- TIM_CTRL_CLEAR (R347). A write of CLEAR zeroes the ring and CLOSED. -/
  | timCtrlClear
  /-- FREQ_CHANGE (R361). At a quiet beat the clock in force changes, or is deferred with FDEFER after a droop. -/
  | freqChange
  /-- PWR_CTRL_ANNEAL (R362). A write of ANNEAL starts a clock anneal, or refuses it with ANNEAL. -/
  | pwrCtrlAnneal
  /-- PWR_CTRL_CLRACC (R363). A write of CLRACC zeroes every ACC field. -/
  | pwrCtrlClracc
  /-- SCLOSE (R372). The host closes the session. -/
  | sclose
  /-- SESSION_LOCKOUT_EXPIRE (R372). The 10 s lockout after eight failed openings ends. -/
  | sessionLockoutExpire
  /-- FIRMWARE_VERIFY_COMPLETE (R376). Verification of a staged image ends with OK or FWFAIL. -/
  | firmwareVerifyComplete
  /-- ATTEST_COMPLETE (R379). The signed report is sent in 40 frames. -/
  | attestComplete
  /-- SEC_CTRL_CLOSE (R372). A write of CLOSE closes the session after the response. -/
  | secCtrlClose
  /-- SEC_CTRL_COMMIT_SVN (R378). The owner raises every anti-rollback counter to the running SVN. -/
  | secCtrlCommitSvn
  /-- SEC_CTRL_RELEASE (R370). The owner erases every slot and the fabric key and returns the module to UNCLAIMED. -/
  | secCtrlRelease
  /-- SEC_CLAIM_GO (R370). An SMBus write installs the claim key in slot 0 as OWNER and sets OWNED. -/
  | secClaimGo
  /-- ATTN_FRAME_SEND (R381). A changed unmasked summary is sent as an ATTN frame, at most once per 10 µs. -/
  | attnFrameSend
  /-- ATN_CTRL_RESEND (R381). A write of RESEND sends the present summary at once. -/
  | atnCtrlResend
  /-- POWER_UP_PHASE_TIMEOUT (R393). A phase exceeds its time limit and the sequence stops short of READY with its
  code. -/
  | powerUpPhaseTimeout
  /-- RST_CTRL_ARRAY (R386). A write starts an array reset, which quenches and re-initialises the array logic. -/
  | rstCtrlArray
  /-- ARRAY_RESET_COMPLETE (R386). The 20 µs re-initialisation ends with the functions STOPPED. -/
  | arrayResetComplete
  /-- MGT_CTRL_P7RST (R387). A write resets P7 and closes the session. -/
  | mgtCtrlP7rst
  /-- PSTATE_ENTRY_COMPLETE (R388). Entry to a low power state completes, and a waiting wake begins its exit. -/
  | pstateEntryComplete
  /-- PSTATE_EXIT_COMPLETE (R389). Exit to PS0 completes, retraining where needed and recording reverted groups. -/
  | pstateExitComplete (trained : BitVec 24)
  /-- MGT_CTRL_WAKE (R388). A write of WAKE exits to PS0, or from PS4 starts a cold reset. -/
  | mgtCtrlWake
  /-- PWR_EN_LOW (R414). PWR_EN low for at least 10 µs requests PS4, logging an abnormal power-down when unrequested. -/
  | pwrEnLow
  /-- MAIN_SUPPLY_LOSS (R413). The 54 V input leaves its limits, so the ring is released, the main rails turn off and
  the event is logged. -/
  | mainSupplyLoss
  /-- STANDBY_SUPPLY_LOSS (R413). STBY_12V is lost and is handled as a loss of the main supply, with nothing logged. -/
  | standbySupplyLoss
  /-- RST_FENCE_CLEAR (R399). A write of CLEAR requests that the fence be lifted. -/
  | rstFenceClear
  /-- MGT_FLASHDATA_READ (R406). A read returns 8 certificate bytes and advances OFFSET. -/
  | mgtFlashdataRead
  deriving DecidableEq, Repr

end Sys2Proof
end

