-- ==== Sys2Proof/Decode.lean ====
section
/-! DEFINITION. The commands of this block are events, not encoded words: spec/opcode_table.json gives no row any
bits, so no word spells a command (log entry 6). The conductor and bank instructions and the array words that some
commands carry are decoded by their own meanings, from the formats of R62, R86 and R232. -/

namespace Sys2Proof

/-- The command that a word of the table's bits spells: none, for no row has any. -/
def decodeTableWord (_nbits _w : Nat) : Option Instr := none

end Sys2Proof
end

