-- ==== Sys2Proof/Machine/Bits.lean ====
section
/-! DEFINITION. Bit fields, little-endian bytes and saturating counters (R5, R7, R8). -/

namespace Sys2Proof.Machine

/-- The field of width `w` at bit `lo`. -/
def fld {n : Nat} (v : BitVec n) (lo w : Nat) : BitVec w := v.extractLsb' lo w

/-- The field of width `w` at bit `lo`, as a number. -/
def fldN {n : Nat} (v : BitVec n) (lo w : Nat) : Nat := (v.extractLsb' lo w).toNat

/-- Bit `i`. -/
def bitAt {n : Nat} (v : BitVec n) (i : Nat) : Bool := v.getLsbD i

/-- A word with ones in the field of width `w` at bit `lo`. -/
def maskAt (lo w : Nat) : Word := (BitVec.ofNat 64 (2 ^ w - 1)) <<< lo

/-- The number `x` placed in the field of width `w` at bit `lo` of an otherwise zero word. -/
def putAt (lo w x : Nat) : Word := (BitVec.ofNat 64 (x % 2 ^ w)) <<< lo

/-- `v` with the field of width `w` at bit `lo` replaced by `x`. -/
def setFld (v : Word) (lo w x : Nat) : Word := (v &&& ~~~ (maskAt lo w)) ||| putAt lo w x

/-- One bit at position `lo`. -/
def putBit (lo : Nat) (b : Bool) : Word := putAt lo 1 b.toNat

/-- `v` with the bits of `m` taken from `x`. -/
def mergeMask (m v x : Word) : Word := (v &&& ~~~ m) ||| (x &&& m)

/-- The low `n` bytes of a number, least significant first (R5). -/
def leBytes : Nat → Nat → List Byte
  | 0, _ => []
  | n + 1, v => BitVec.ofNat 8 v :: leBytes n (v / 256)

/-- The number a list of bytes spells, least significant first (R5). -/
def leNat : List Byte → Nat
  | [] => 0
  | b :: t => b.toNat + 256 * leNat t

/-- Two 32-bit halves as one register. -/
def pair32 (hi lo : Nat) : Word := BitVec.ofNat 64 (2 ^ 32 * hi + lo)

/-- The high half of a pair of counters. -/
def hi32 (v : Word) : Nat := fldN v 32 32

/-- The low half of a pair of counters. -/
def lo32 (v : Word) : Nat := fldN v 0 32

/-- Saturation at 0xFFFF_FFFF. -/
def sat32 (n : Nat) : Nat := min n 0xFFFFFFFF

/-- Saturation at the largest 64-bit value. -/
def sat64 (n : Nat) : Word := BitVec.ofNat 64 (min n 0xFFFFFFFFFFFFFFFF)

/-- Add to the high counter, saturating. -/
def addHi (v : Word) (n : Nat) : Word := pair32 (sat32 (hi32 v + n)) (lo32 v)

/-- Add to the low counter, saturating. -/
def addLo (v : Word) (n : Nat) : Word := pair32 (hi32 v) (sat32 (lo32 v + n))

/-- Sign extension of a bit vector to an integer. -/
def toI {n : Nat} (v : BitVec n) : Int := v.toInt

/-- A list cut or padded with zero bytes to length `n`. -/
def padTo (n : Nat) (l : List Byte) : List Byte := (l ++ List.replicate (n - l.length) 0).take n

/-- The `i`-th chunk of `n` bytes. -/
def chunk (n i : Nat) (l : List Byte) : List Byte := (l.drop (i * n)).take n

end Sys2Proof.Machine
end

