-- ==== Sys2Proof/Machine/Crc.lean ====
section
/-! DEFINITION. The two check codes: the CRC-64 of the ECMA-182 polynomial (R34, R233, R249, R335) and the CRC-32C
(R285, R311). -/

namespace Sys2Proof.Machine

/-- One bit of the CRC-64, not reflected. The value of the ECMA-182 polynomial is taken from that standard (log
entry 28). -/
def crc64Bit (c : Word) : Word := if bitAt c 63 then (c <<< 1) ^^^ 0x42F0E1EBA9EA3693 else c <<< 1

/-- Repeat a step. -/
def times {α : Type} (f : α → α) : Nat → α → α
  | 0, a => a
  | n + 1, a => times f n (f a)

/-- One byte of the CRC-64, most significant bit first. -/
def crc64Byte (c : Word) (b : Byte) : Word := times crc64Bit 8 (c ^^^ (b.setWidth 64 <<< 56))

/-- The CRC-64 of bytes in ascending order, from `init`, with no final XOR (R233). -/
def crc64 (init : Word) (l : List Byte) : Word := l.foldl crc64Byte init

/-- One bit of the CRC-32C, reflected: 0x82F63B78 is 0x1EDC6F41 with its bits in reverse order (R311). -/
def crc32Bit (c : BitVec 32) : BitVec 32 := if bitAt c 0 then (c >>> 1) ^^^ 0x82F63B78 else c >>> 1

/-- One byte of the CRC-32C. -/
def crc32Byte (c : BitVec 32) (b : Byte) : BitVec 32 := times crc32Bit 8 (c ^^^ b.setWidth 32)

/-- The CRC-32C of bytes: initial value and final XOR 0xFFFF_FFFF (R311). -/
def crc32c (l : List Byte) : BitVec 32 := l.foldl crc32Byte 0xFFFFFFFF ^^^ 0xFFFFFFFF

end Sys2Proof.Machine
end

