-- ==== Sys2Proof/Config.lean ====
section
/-! DEFINITION. What the spec leaves open: free values, as constants with no body. Nothing can be proved of what
they answer, so a statement that mentions one holds whatever it is. Each is named in the assumption log. -/

namespace Sys2Proof.Config

/-- A value of the spec that is random or undefined, drawn with the state's counter (log entry 7): the nonces and
identifiers of R371, destinations left undefined (R79, R228, R325), a device cut short in a test (R397). -/
opaque freeWord : Nat → BitVec 64

/-- A random or undefined byte, drawn with the state's counter and its place (log entry 7). -/
opaque freeByte : Nat → Nat → BitVec 8

/-- Whether every unit of the Sheet applies the epoch of a partition switch (R48, R51), drawn with the state's counter
(log entry 23). -/
opaque unitsApply : Nat → Bool

/-- Whether the access with this number hits the tier-map cache (R187): its replacement is not stated (log entry 8). -/
opaque cacheHit : Nat → Nat → Bool

/-- The correctly rounded FP32 value of an elementary function where the model's own enclosure cannot decide it, by
operation number and operand (log entry 9). -/
opaque elementary : Nat → BitVec 32 → BitVec 32

/-- Whether a firmware image's two signatures verify (R376, log entry 10). -/
opaque imageSigned : List (BitVec 8) → Bool

/-- The RSA-3072 and SLH-DSA signatures of an attestation report, by report and counter (R379, log entry 10). -/
opaque attestSignature : List (BitVec 8) → Nat → List (BitVec 8)

/-- The SHA-384 values of the two identity public keys (R379, log entry 10). -/
opaque identityHash : Nat → List (BitVec 8)

/-- The SHA-384 value of the shipped image of a type, whose bytes the spec does not give (log entry 3). -/
opaque shippedHash : Nat → List (BitVec 8)

/-- The frames that each receive buffer of a port holds (R287, R295, log entry 116). -/
opaque rxBuffers : Nat

/-- The TAG that the host gave its request with this number (R367, log entry 47). -/
opaque hostTag : Nat → BitVec 13

/-- The ps from a beat edge to the start of the first control slot after it on a port, drawn with the state's counter
(R293, log entry 117). -/
opaque edgePs : Nat → Nat → BitVec 32

end Sys2Proof.Config
end

