-- ==== Sys2Proof/Machine/Secded.lean ====
section
/-! DEFINITION. The column code (R214): the check bits of 256 data bits, and what a syndrome says. -/

namespace Sys2Proof.Machine

/-- The positions 1 to 265 that hold data bits, in ascending order: those that are no power of two. -/
def dataPositions : List Nat := (List.range 266).filter (fun p => decide (0 < p) && p &&& (p - 1) != 0)

/-- The XOR of the positions of the data bits that are 1. -/
def posXor (w : Wide) : Nat :=
  ((List.range 256).zip dataPositions).foldl (fun a q => if bitAt w q.1 then a ^^^ q.2 else a) 0

/-- The parity of the bits of a word. -/
def parityOf {n : Nat} (w : BitVec n) : Bool := (List.range n).foldl (fun a i => a ^^ bitAt w i) false

/-- The check bits c0 to c9 of a column word's data. -/
def checkBits (w : Wide) : BitVec 10 :=
  let c : BitVec 9 := BitVec.ofNat 9 (posXor w)
  BitVec.ofBool (parityOf w ^^ parityOf c) ++ c

/-- The syndrome of a stored word, by the difference between its check bits and the code of its data: the code is
linear, so nothing else of the word counts. -/
def syndromeOf (diff : BitVec 10) : BitVec 10 := BitVec.ofBool (parityOf diff) ++ fld diff 0 9

/-- What a syndrome says. -/
inductive Syndrome where
  | clean
  | single (pos : Nat)
  | double
  deriving DecidableEq, Repr

/-- The reading of a syndrome; one that names no position of the code is no single-bit error. -/
def readSyndrome (s : BitVec 10) : Syndrome :=
  if s = 0 then .clean else if bitAt s 9 ∧ fldN s 0 9 ≤ 265 then .single (fldN s 0 9) else .double

/-- The data bit at a position, if the position holds one. -/
def dataBitAt (pos : Nat) : Option Nat := dataPositions.findIdx? (· == pos)

/-- The bit of byte `i` of a column word that a syndrome says to flip. -/
def flipOf (s : BitVec 10) (i : Nat) : Byte :=
  match readSyndrome s with
  | .single pos =>
    match dataBitAt pos with
    | some b => if b / 8 = i then 1 <<< (b % 8) else 0
    | none => 0
  | _ => 0

end Sys2Proof.Machine
end

