-- ==== Sys2Proof/Machine/Sparse.lean ====
section
/-! DEFINITION. Sparse maps in one canonical form: a list of (key, value) pairs with strictly rising keys in
which no value equals what an unlisted key reads as. Memory, tables and every large store of the module are
held this way, so that equal contents are equal data. -/

namespace Sys2Proof.Machine

/-- A sparse map from natural numbers; `Host.Cell` lists are the case of bytes. -/
abbrev SMap (α : Type) := List (Nat × α)

/-- The value at key `a`; an unlisted key reads as `d`. -/
def smGet {α : Type} (d : α) : SMap α → Nat → α
  | [], _ => d
  | (k, v) :: t, a => if a = k then v else smGet d t a

/-- Drop every entry of key `a`. -/
def smErase {α : Type} : SMap α → Nat → SMap α
  | [], _ => []
  | (k, v) :: t, a => if a = k then smErase t a else (k, v) :: smErase t a

/-- Insert an entry before the first key that is above it. -/
def smInsert {α : Type} : SMap α → Nat → α → SMap α
  | [], a, v => [(a, v)]
  | (k, w) :: t, a, v => if a < k then (a, v) :: (k, w) :: t else (k, w) :: smInsert t a v

/-- Put `v` at key `a`, keeping the keys rising; the default itself is not listed. -/
def smPut {α : Type} [DecidableEq α] (d : α) (m : SMap α) (a : Nat) (v : α) : SMap α :=
  if v = d then smErase m a else smInsert (smErase m a) a v

/-- Every key of the list is above `b`. -/
def smAbove {α : Type} (b : Nat) : SMap α → Bool
  | [] => true
  | (k, _) :: t => decide (b < k) && smAbove b t

/-- The canonical form: keys strictly rising, no listed value equal to the default. -/
def smWf {α : Type} [DecidableEq α] (d : α) : SMap α → Bool
  | [] => true
  | (k, v) :: t => decide (v ≠ d) && smAbove k t && smWf d t

/-- Put consecutive values from key `a` upward. -/
def smPutRun {α : Type} [DecidableEq α] (d : α) (m : SMap α) (a : Nat) : List α → SMap α
  | [] => m
  | v :: t => smPutRun d (smPut d m a v) (a + 1) t

/-- Read `n` consecutive values from key `a` upward. -/
def smGetRun {α : Type} (d : α) (m : SMap α) (a : Nat) : Nat → List α
  | 0 => []
  | n + 1 => smGet d m a :: smGetRun d m (a + 1) n

/-- Change every listed value; what becomes the default is no longer listed. -/
def smMap {α : Type} [DecidableEq α] (d : α) (f : α → α) (m : SMap α) : SMap α :=
  (m.map (fun e => (e.1, f e.2))).filter (fun e => decide (e.2 ≠ d))

/-- Drop every entry whose key lies in `[lo, hi)`. -/
def smClear {α : Type} (lo hi : Nat) (m : SMap α) : SMap α :=
  m.filter (fun e => !(decide (lo ≤ e.1) && decide (e.1 < hi)))

end Sys2Proof.Machine
end

