-- ==== Sys2Proof/Machine/Blocks.lean ====
section
/-! DEFINITION. The state of the control blocks BEA, CND, ARY, CRW, FMT, VEC, TMV, TIR, MDV, BNK and UPD, of the
cast, of the section queues, and of the bank cores. Registers that the spec computes from other state
(CND_STATUS, ARY_STATUS, TMV_STATUS, ...) are computed by the read function and have no field. -/

namespace Sys2Proof.Machine

/-- The control-space blocks in the order of their block index, 0x00 to 0x16 (R407). -/
inductive Blk where
  | sys | siz | bea | cnd | ary | crw | fmt | vec | tmv | tir | mdv | bnk | upd | lnk | fol | twn | tim | pwr
  | sec | atn | rst | bst | mgt
  deriving DecidableEq, Repr

/-- The block index. -/
def Blk.idx : Blk → Fin 23
  | .sys => 0 | .siz => 1 | .bea => 2 | .cnd => 3 | .ary => 4 | .crw => 5 | .fmt => 6 | .vec => 7
  | .tmv => 8 | .tir => 9 | .mdv => 10 | .bnk => 11 | .upd => 12 | .lnk => 13 | .fol => 14 | .twn => 15
  | .tim => 16 | .pwr => 17 | .sec => 18 | .atn => 19 | .rst => 20 | .bst => 21 | .mgt => 22

/-- The state of a function (R49). -/
inductive FnState where
  | run | stopping | stopped
  deriving DecidableEq, Repr

/-- A function register BLOCK_FN (R49). -/
structure FnReg where
  state   : FnState
  epoch   : BitVec 16
  applied : BitVec 16
  mixed   : Bool
  deriving DecidableEq, Repr

/-- BLOCK_FN after a cold reset: STOPPED, every epoch zero. -/
def FnReg.atReset : FnReg := ⟨.stopped, 0, 0, false⟩

/-- The function registers of the eight blocks that own a function. -/
structure FnRegs where
  cnd : FnReg
  ary : FnReg
  tmv : FnReg
  mdv : FnReg
  lnk : FnReg
  fol : FnReg
  twn : FnReg
  pwr : FnReg
  deriving DecidableEq, Repr

/-- A set of epoch-bound settings: staged, current, and the one before (R50). -/
structure Epoched (α : Type) where
  staged  : α
  current : α
  before  : Option α
  deriving DecidableEq, Repr

/-- Settings at reset: staged and current alike, none before. -/
def Epoched.at {α : Type} (a : α) : Epoched α := ⟨a, a, none⟩

/-- The beat receiver (R25–R31). `srcCur` and `fallCur` are the SRC and FALLBACK in force; `missed` counts the
beats since the last accepted edge; `heldBeats` the beats in holdover; `slewing` says that a recovered source is
being taken back. -/
structure Bea where
  ctrl      : Word
  srcCur    : BitVec 2
  fallCur   : BitVec 2
  srcAct    : BitVec 2
  phaseErr  : BitVec 32
  hops      : BitVec 4
  holdExp   : Bool
  hold      : Bool
  lock      : Bool
  lost      : Bool
  slewing   : Bool
  started   : Bool
  missed    : Nat
  heldBeats : Nat
  count     : Word
  loadPend  : Option Word
  tai       : Word
  alarm     : Word
  bar       : Word
  late      : Word
  deriving DecidableEq, Repr

/-- CND_STATUS.ADMIT (R81). -/
inductive Admit where
  | idle | admitting | admitted | running | refused | held
  deriving DecidableEq, Repr

/-- What the Conductor is waiting for: nothing; a beat (WAITB, WAITA, R70); queues (WAITQ, R70); a load (R64);
a pending summary (R60); a stalled enqueue (R69), of one word or of a run of AWORDS entries. -/
inductive Wait where
  | none
  | waitB (till : Word)
  | waitA (till : Word)
  | waitQ (mask : BitVec 3) (done : Bool) (level : Nat)
  | load (rd : BitVec 5) (addr : Nat)
  | summary (mask : BitVec 16)
  | enqOne (w : AWord)
  | enqRun (index left : Nat)
  deriving DecidableEq, Repr

/-- An open loop (R65): its first instruction, the index after its body, the passes left. -/
structure LoopFrame where
  start : Nat
  stop  : Nat
  left  : Nat
  deriving DecidableEq, Repr

/-- How a delivery combines with its register: it replaces it, or is ORed into it. -/
inductive Combine where
  | replace | orInto
  deriving DecidableEq, Repr

/-- A summary that has been announced at enqueue (R60), in enqueue order; `value` once its word has formed it. -/
structure Delivery where
  sm      : BitVec 4
  seq     : Nat
  combine : Combine
  value   : Option Word
  deriving DecidableEq, Repr

/-- The Conductor (R57–R81). `ending` is the reason under which a STOPPING Conductor drains; `fresh` has a bit for
each section whose first word of the current mould has not been enqueued (R42). `past` says that the index of the next
instruction is 2^24, one past the largest CCODE, which 24 bits of PC do not hold; `prior` that the units of the Conductor
hold the settings of an epoch before (R50). -/
structure Cnd where
  castBase : BitVec 48
  run      : Word
  adm      : Admit
  why      : BitVec 4
  ending   : BitVec 4
  mould    : BitVec 12
  part     : BitVec 2
  pc       : BitVec 24
  past     : Bool
  step     : Word
  halt     : BitVec 16
  mentry   : Word
  late     : Word
  stall    : Word
  exc      : Word
  excInstr : BitVec 32
  excHi    : Word
  excLo    : Word
  quench   : Bool
  g        : Vector Word 32
  sm       : Vector Word 16
  deliv    : List Delivery
  loops    : List LoopFrame
  wait     : Wait
  fresh    : BitVec 3
  nextSeq  : Nat
  prior    : Bool
  deriving DecidableEq, Repr

/-- A segment of a cast (R35, R36): its U-address and its entry count. -/
structure Segment where
  addr  : Nat
  count : Nat
  deriving DecidableEq, Repr

/-- A mould entry (R38). -/
structure Mould where
  code    : Nat
  beats   : Nat
  abort   : Bool
  stepEnd : Bool
  deriving DecidableEq, Repr

/-- A slot entry with its buffer state (R201, R203): the entry's two words, whether a buffer is in use (`valid`) and
which (`inUse`: false A, true B). The other buffer is next; with none in use the next is A. -/
structure Slot where
  lo    : Word
  hi    : Word
  valid : Bool
  inUse : Bool
  deriving DecidableEq, Repr

/-- A cast: the header fields it runs by, its segments, and the copies of the segments that R36 copies. -/
structure CastImg where
  base       : Nat
  bytes      : Nat
  flags      : BitVec 32
  firstMould : Nat
  firstStep  : Word
  seed       : Word
  ccode      : Segment
  awords     : Segment
  tmap       : Segment
  migr       : Segment
  moulds     : List Mould
  desc       : List Wide
  eprog      : List (BitVec 32)
  bprog      : List (BitVec 32)
  quota      : SMap Nat
  slots      : List Slot
  fmtt       : List (List (BitVec 16))
  deriving DecidableEq, Repr

/-- A word in a section queue (R69): its bits, its step number (R74), its enqueue number, for the first word of its
section in a mould the entry beat that its wait counts from (R42), and, for a CSCAL or TDCMP, the summary registers it
reads with the value that the words enqueued before it leave, once no delivery of those is pending (R318, R338). -/
structure QEnt where
  word : AWord
  step : Word
  seq  : Nat
  base : Option Word
  srcs : List (BitVec 4 × Option Word)
  deriving DecidableEq, Repr

/-- What an issued word waits for before it may complete. -/
inductive Hold where
  | none
  | moves (seq : Nat)
  | launch (seq : Nat) (comb : BitVec 2)
  | group (grp : Nat) (below : Nat)
  | inst (seq : Nat)
  | banks
  | image
  | transfers (tags : List Nat)
  | digest
  | verify
  | resume
  deriving DecidableEq, Repr

/-- An issued word that has not completed (R87, R69): its sections (bit 0 F, bit 1 B, bit 2 H), what it waits for,
and the canonical addresses of its destinations as runs of bytes, which a stop leaves undefined (R79, R228).
G-buffer headers are counted from 2^48 upward. -/
structure Issued where
  seq   : Nat
  opc   : BitVec 8
  secs  : BitVec 3
  hold  : Hold
  dests : List (Nat × Nat)
  deriving DecidableEq, Repr

/-- An SBAR reached by some of its sections (R44). -/
structure SbarHeld where
  seq  : Nat
  need : BitVec 3
  got  : BitVec 3
  deriving DecidableEq, Repr

/-- An FBAR at which the module has arrived (R45–R47). `result` is the group maximum once it is held, with the beat in
which it came. -/
structure FbarHeld where
  seq     : Nat
  secs    : BitVec 3
  group   : Nat
  planned : Word
  fseq    : BitVec 32
  arrival : Word
  result  : Option (Word × Word)
  warned  : Bool
  deriving DecidableEq, Repr

/-- A partition switch in progress (R48): its target, whether that is the partition already in force, the beat 0 of the
table once it is known, whether beat 9 found the epoch not applied (the switch then waits on the host), whether the host
has abandoned it, and the epoch before. -/
structure PartSwitch where
  seq     : Nat
  target  : BitVec 2
  same    : Bool
  beat0   : Option Word
  stuck   : Bool
  dropped : Bool
  n       : BitVec 16
  deriving DecidableEq, Repr

/-- The epoch-bound settings of the Sheet: ARY_CFG and the partition (R48, R108). -/
structure ArySet where
  cfg  : Word
  part : BitVec 2
  deriving DecidableEq, Repr

/-- The Sheet: ARY registers, section queues, issued words and barriers. -/
structure Sheet where
  set       : Epoched ArySet
  words     : Word
  products  : Word
  slag      : Word
  ecc       : Word
  fault     : Word
  faultAddr : Word
  qF        : List QEnt
  qB        : List QEnt
  qH        : List QEnt
  issued    : List Issued
  lastF     : Word
  lastB     : Word
  lastH     : Word
  holdF     : Option Nat
  holdB     : Option Nat
  holdH     : Option Nat
  sbars     : List SbarHeld
  fbars     : List FbarHeld
  switch    : Option PartSwitch
  writers   : List (Nat × Nat × Nat)
  deriving DecidableEq, Repr

/-- CRW (R109); `ecc` holds CRW_ECC of each core that has counted an error. -/
structure Crw where
  store  : BitVec 2
  core   : BitVec 10
  offset : BitVec 16
  ecc    : SMap Word
  deriving DecidableEq, Repr

/-- FMT (R131): FP32ACC mode, the codebooks loaded and their entries, the conversion counters. -/
structure Fmt where
  fp32acc : Bool
  loaded  : BitVec 4
  books   : SMap (BitVec 16)
  conv    : Word
  deriving DecidableEq, Repr

/-- VEC (R157) and the lane program store (R136). -/
structure Vec where
  loaded    : Nat
  prog      : SMap (BitVec 32)
  flags     : Word
  stats     : Word
  fault     : Word
  faultAddr : Word
  ecc       : Word
  deriving DecidableEq, Repr

/-- The map in force (TMV_STATUS.MAP, R206). -/
inductive MapMode where
  | load | admitted | running | held
  deriving DecidableEq, Repr

/-- A page move queued by a MIGRATE word (R196). -/
structure MoveReq where
  upage : Nat
  tier  : Nat
  zero  : Bool
  seq   : Nat
  entry : Nat
  deriving DecidableEq, Repr

/-- A page move in progress (R193): from its live place to its destination. -/
structure Move where
  upage : Nat
  src   : Nat
  dst   : Nat
  zero  : Bool
  seq   : Nat
  deriving DecidableEq, Repr

/-- TMV (R206) and the tier manager. `touch` holds last-touch beats by U-page (R192). -/
structure Tmv where
  cfg       : Epoched Word
  map       : MapMode
  releasing : Bool
  probe     : BitVec 28
  tmc       : Word
  moves     : Word
  evict     : Word
  fault     : Word
  faultAddr : Word
  queue     : List MoveReq
  moving    : List Move
  touch     : SMap Word
  deriving DecidableEq, Repr

/-- TIR (R207): quotas by 4a + t, peak crucible use by tier, slots, the last step admission. -/
structure Tir where
  quota    : SMap Nat
  peak     : SMap Nat
  slots    : List Slot
  lastAdm  : Word
  lastLen  : Word
  lastTag  : Word
  slotSel  : BitVec 12
  loaded   : Bool
  deriving DecidableEq, Repr

/-- A row mapped to a spare (R229): bank number, row, hard or soft. -/
structure Repair where
  bank : Nat
  row  : Nat
  hard : Bool
  deriving DecidableEq, Repr

/-- MDV (R230). Rows are numbered bank × 65,536 + row over the 15,360 banks, column words row number × 64 + column.
`diff` holds, for each column word, its check bits XORed with the code of its data; `unsealed` the rows whose seal
bit is 0; `lost` the devices whose content and seal bits a reset has left undefined (R397), each with the number of its
free values, which are then XORed with what `mem` and `unsealed` list; `postponed` the refresh intervals postponed by
bank; `hostErr` the column words whose next read for the host completes with UNCORR (R228). -/
structure Mdv where
  cfg       : Epoched Word
  trained   : BitVec 24
  hot       : BitVec 24
  temp      : SMap (BitVec 8)
  ce        : Word
  ue        : Word
  ifcrc     : Word
  errLoc    : Word
  errPaddr  : Word
  errUaddr  : Word
  errBeat   : Word
  fault     : Word
  sealSel   : BitVec 25
  override  : Bool
  repair    : Word
  spares    : Nat
  result    : BitVec 2
  busy      : Bool
  repairs   : List Repair
  diff      : SMap (BitVec 10)
  unsealed  : SMap Bool
  lost      : List (Nat × Nat)
  postponed : SMap Nat
  refreshed : SMap Nat
  scrubNext : Nat
  uncorr    : Option Nat
  stopCores : List Nat
  hostErr   : List Nat
  deriving DecidableEq, Repr

/-- The five sticky flags of a bank core or of the lanes (R234): NV, DZ, OF, UF, NF. -/
structure FpFlags where
  nv : Bool := false
  dz : Bool := false
  of : Bool := false
  uf : Bool := false
  nf : Bool := false
  deriving DecidableEq, Repr

/-- The program a bank core runs (R231, R237, R247): its launch, its window, its range, its budget, the
instructions executed, the chain words sent. -/
structure BankRun where
  launch : Nat
  tag    : BitVec 4
  wrow   : Nat
  wlen   : Nat
  pstart : Nat
  plen   : Nat
  budget : Nat
  count  : Nat
  sent   : Nat
  deriving DecidableEq, Repr

/-- A bank core (R231): registers, PC, flags, open row (R238), the range held in its store (R239), the program it
runs, its inbox and the chain words still on their way to it, each with the launch it belongs to (R247), and whether
it has executed an instruction since it last paused and which class of reads or writes the row cycle of that pause
serves (R223). -/
structure BankCore where
  b      : Vector Word 16
  w      : Vector Wide 32
  pc     : Nat
  flags  : FpFlags
  row    : Option Nat
  held   : Option (Nat × Nat)
  run    : Option BankRun
  inbox  : List (Nat × Wide)
  flight : List (Nat × Wide)
  ran    : Bool
  serving : Option ServiceClass
  deriving DecidableEq, Repr

/-- A bank core that has run nothing: every register zero (log entry 1). -/
def BankCore.idle : BankCore :=
  ⟨Vector.replicate 16 0, Vector.replicate 32 0, 0, {}, none, none, none, [], [], false, none⟩

/-- Where a program of a launch stands: pending, running, or ended, by END with a result or otherwise, with its
flags (R245). `fault` says that it ended by a fault, an overrun or a chain fault. -/
inductive ProgState where
  | pending | running
  | ended (result : Option Word) (fault : Bool) (flags : FpFlags)
  deriving DecidableEq, Repr

/-- One program of a launch: a bank-list entry (R241) and its state. -/
structure Prog where
  bank  : Nat
  wrow  : Nat
  wlen  : Nat
  arg   : Word
  state : ProgState
  deriving DecidableEq, Repr

/-- A launch (R240–R245): its enqueue number, tag, record fields, parameter words, step, programs, and whether it
has completed. -/
structure Launch where
  seq    : Nat
  tag    : BitVec 4
  pstart : Nat
  plen   : Nat
  budget : Nat
  params : List Word
  step   : Word
  progs  : List Prog
  done   : Bool
  deriving DecidableEq, Repr

/-- What a hub word does to the ingots of its list on their banks (R278, R338), with the fields that it needs: the first
aperture, the row offset and the launch record of a TPULL; the row offset of a TDIGEST; that of a TVERIFY's mirrors; the
destination, step and record of a TSNAP. -/
inductive HubKind where
  | abort | mirror
  | pull (ap off launch : Nat)
  | digest (off : Nat)
  | verify (off : Nat)
  | snap (dest t record : Nat)
  deriving DecidableEq, Repr

/-- The work of a hub word on one bank (R278, R336): the entry's index in the list and its window, the ingots left, each
by its number in the range and its base row, and whether the work has started. -/
structure BankTask where
  bank    : Nat
  entry   : Nat
  wrow    : Nat
  wlen    : Nat
  left    : List (Nat × Nat)
  started : Bool
  deriving DecidableEq, Repr

/-- What a STEPABORT counts: ingots with no match, rolled back, repaired. -/
structure Tally where
  mismatch : Nat := 0
  rolled   : Nat := 0
  repaired : Nat := 0
  deriving DecidableEq, Repr

/-- A hub word at work on the banks of its list: the word as it was queued, what it does, the ingots of its range, the
work on each bank that has not ended, and what it has formed so far: counts, the XOR of digests, the ingots copied and
overrun, and by ingot number what waits to be sent, with how many have been. -/
structure HubWork where
  ent     : QEnt
  kind    : HubKind
  total   : Nat
  tasks   : List BankTask
  tally   : Tally := {}
  fold    : Word := 0
  copied  : Nat := 0
  overrun : Nat := 0
  ready   : List (Nat × List Byte) := []
  sent    : Nat := 0
  deriving DecidableEq, Repr

/-- BNK (R251), the launches since the start beat, the bank cores by bank number (device × 640 + die × 32 + bank), and
the hub word at work on banks; there is at most one, since each holds the H queue. -/
structure Bnk where
  loaded    : Nat
  done      : Word
  flags     : BitVec 6
  chain     : Word
  fault     : Word
  faultAddr : Word
  launches  : List Launch
  cores     : SMap BankCore
  work      : Option HubWork
  deriving DecidableEq, Repr

/-- UPD (R281). -/
structure Upd where
  stats     : Word
  flush     : Word
  moved     : Word
  restore   : Word
  last      : Word
  fault     : Word
  faultAddr : Word
  deriving DecidableEq, Repr

end Sys2Proof.Machine
end

