-- ==== Sys2Proof/Machine/BlocksIo.lean ====
section
/-! DEFINITION. The state of the blocks LNK, FOL, TWN, TIM, PWR, SEC, ATN, RST, BST, MGT and SYS, of the ports, the
transactions and the collective instances, and the record of what the module has sent. -/

namespace Sys2Proof.Machine

/-- What the module has sent: data frames (R286), HOST responses and ATTN frames on P7 among them (R367, R381), on port L
(number 8) those to the module itself (R294), NAKs (R288), the payloads of its control slots (R287), and answers on SMBus
(R402). Nothing in the model reads it (log entry 4). -/
inductive Emit where
  | frame (port : Nat) (type : BitVec 4) (h : FrameHdr) (payload : List Byte)
  | nak (port : Nat) (seq : BitVec 11)
  | ctrl (port : Nat) (payload : List Byte)
  | smbus (v : Word)
  deriving DecidableEq, Repr

/-- A data frame kept for replay (R288), with its 512 payload bytes as they were first sent (R374). -/
structure SentFrame where
  seq     : BitVec 11
  type    : BitVec 4
  h       : FrameHdr
  payload : List Byte
  sent    : List Byte
  deriving DecidableEq, Repr

/-- A data frame queued to a port. -/
structure OutFrame where
  type    : BitVec 4
  h       : FrameHdr
  payload : List Byte
  deriving DecidableEq, Repr

/-- A port (R282–R292): LNK_PORTn's fields, its sequence numbers, replay buffer, failures of one SEQ, the credits last
received, whether loop training passed, whether it has had a neighbour, and whether it is protected since its training
(R375). `out` holds the frames queued to it, `sentC` and `tookC` by CLASS and VCH the frames sent against credits and
those received and taken out of their buffers (R295); `busy` says that the beat in progress has carried a data frame,
`quiet` counts the beats before it that carried none, `annealed` is the beat of its last anneal or training (R292).
`key` is the sending key and IV, `group` the headers and payloads of the data slots since its last control slot, `ctrls`
the control slots sent under the key (R374). -/
structure Port where
  state    : BitVec 4
  width    : BitVec 5
  degraded : Bool
  delay    : BitVec 32
  neigh    : BitVec 18
  nspare   : Bool
  known    : Bool
  looped   : Bool
  txSeq    : BitVec 11
  rxSeq    : BitVec 11
  replay   : List SentFrame
  fails    : Nat
  credits  : List (BitVec 32)
  prot     : Bool
  err      : Word
  out      : List OutFrame
  sentC    : Vector (BitVec 32) 8
  tookC    : Vector (BitVec 32) 8
  busy     : Bool
  quiet    : Nat
  annealed : Word
  key      : Option (List Byte × List Byte)
  group    : List (List Byte × List Byte)
  ctrls    : Nat
  deriving DecidableEq, Repr

/-- A port that is off. -/
def Port.off : Port :=
  ⟨0, 0, false, 0, 0, false, false, false, 0, 0, [], 0, [], false, 0, [], Vector.replicate 8 0, Vector.replicate 8 0, false, 0,
   0, none, [], 0⟩

/-- The settings epoch-bound to LNK_FN (R297, R375). -/
structure LnkSet where
  id   : Word
  cfg  : Word
  dom  : SMap Word
  exp  : SMap Word
  rt   : SMap Word
  prot : BitVec 7
  deriving DecidableEq, Repr

/-- Who made a transaction: the Conductor; the host, with the operation, ADDR, the number of its access and the
addresses of all its bytes; a word or mover of a block; a word that reads operands before it issues; or a TPULL, with
the bank and row that its bytes go to. -/
inductive Requester where
  | conductor | host (op : BitVec 8) (addr : Word) (id : Nat) (ps : List Nat) | word (seq : Nat) (blk : Blk)
  | fetch (seq : Nat) | pull (seq bank row : Nat)
  deriving DecidableEq, Repr

/-- A transaction of this module (R302, R303): its TAG, direction, P-address in T3, length, bytes received, the beat it
was made in, whether it has warned, its requester, and its number in the order of making. -/
structure Transaction where
  tag    : Nat
  write  : Bool
  paddr  : Nat
  len    : Nat
  got    : Nat
  since  : Word
  warned : Bool
  who    : Requester
  id     : Nat
  deriving DecidableEq, Repr

/-- A write of a remote requester whose data is still arriving (R302); `drop` says that a working window refused it
whole (R225). -/
structure InWrite where
  port : Nat
  src  : BitVec 18
  tag  : BitVec 13
  addr : Nat
  len  : Nat
  got  : Nat
  drop : Bool
  deriving DecidableEq, Repr

/-- What a trial of a word meets (R188, R302): the 64-byte lines of T3 that it reads and that have not come for it, and
whether it touches a page in move. -/
structure Trial where
  lines : List Nat
  held  : Bool
  deriving DecidableEq, Repr

/-- LNK (R306), the ports, the apertures and the transactions. `stalled` holds the transactions that may not be sent yet
(R302, R303), `nextId` numbers them. `got` lists the lines of T3 that have been read for a word (enqueue number, line,
whether they came), `reading` is the word whose operands are being read; `trial` is set only while a word is tried, and
`wire` records the frame slots sent (the model's own fields, log entry 115). -/
structure Lnk where
  set       : Epoched LnkSet
  ports     : Vector Port 8
  take      : Bool
  taking    : Bool
  drop      : Word
  refused   : Word
  aps       : SMap Word
  trans     : List Transaction
  abandoned : List Nat
  nextTag   : Nat
  inWrites  : List InWrite
  stalled   : List Transaction
  nextId    : Nat
  got       : List (Nat × Nat × Bool)
  reading   : Nat
  trial     : Option Trial
  wire      : List (Nat × List Byte)
  deriving DecidableEq, Repr

/-- The scalar exchange of a CSCAL or an FBAR round its rings (R324): the dimension and step under way, whether the
minus half of the step is under way, the value combined so far, the values travelling each way, each with its DIFFER
bit, and the values received and not yet combined, by 2 × dimension + 1 for one from the plus side. -/
structure Ring where
  dim   : Nat
  step  : Nat
  half  : Bool
  acc   : Word × Bool
  vp    : Word × Bool
  vm    : Word × Bool
  inbox : List (Nat × Word × Bool)
  done  : Bool
  deriving DecidableEq, Repr

/-- What a collective instance does. -/
inductive InstKind where
  | scalar (op : Nat)
  | barrier (fseq : BitVec 32)
  | reduceScatter | gather | allReduce (op : Nat) | broadcast (root : Nat)
  deriving DecidableEq, Repr

/-- A collective instance of a group (R315): its number, its word, whether it has started and in which beat, or has
been abandoned. For a tile collective: the address, slot size and counts of its operands, whether their overlap leaves
Z undefined, this member's X tiles, the blocks received (by 4 × tile + phase, 3 for a gather), the blocks sent and
received of each channel, a block part of whose frames has come, the tiles written, and the places it writes. A
channel is 6 for a gather, plus 2 × dimension, plus 1 for the minus direction. -/
structure Inst where
  grp       : Nat
  num       : Nat
  seq       : Nat
  kind      : InstKind
  word      : AWord
  started   : Bool
  abandoned : Bool
  beat      : Word
  warned    : Bool
  zAddr     : Nat
  zSlot     : Nat
  nx        : Nat
  nz        : Nat
  clash     : Bool
  own       : SMap (List Int)
  rx        : SMap (List Int)
  sent      : SMap Nat
  recvd     : SMap Nat
  part      : SMap (List Byte)
  written   : SMap Bool
  dests     : List (Nat × Nat)
  ring      : Ring
  deriving DecidableEq, Repr

/-- A collective frame held until its instance starts (R323). -/
structure HeldFrame where
  port    : Nat
  type    : BitVec 4
  h       : FrameHdr
  payload : List Byte
  deriving DecidableEq, Repr

/-- FOL (R328): the group table (word 4g is HDR, 4g + 1 + d is Dd), counters, instances and held frames. -/
structure Fol where
  set       : Epoched (SMap Word)
  tiles     : Word
  crc       : Word
  coll      : Word
  nfrows    : Word
  fault     : Word
  faultAddr : Word
  insts     : List Inst
  counts    : SMap Nat
  held      : List HeldFrame
  deriving DecidableEq, Repr

/-- TWN_PAIR.STATE. -/
inductive Pair where
  | single | soldering | soldered
  deriving DecidableEq, Repr

/-- A TMIRROR under way: its word, the images not sent yet, the TAGs not acknowledged, the images refused. -/
structure MirrorJob where
  seq     : Nat
  unsent  : Nat
  tags    : List Nat
  refused : Nat
  deriving DecidableEq, Repr

/-- A TVERIFY under way (R338): the word and the digests (own, mirror) of its ingots; `got` counts the twin's pairs
received, `own` and `mir` the mismatches, `first` the lowest mismatching index and its kind. -/
structure VerifyJob where
  seq   : Nat
  pairs : List (Word × Word)
  got   : Nat
  own   : Nat
  mir   : Nat
  first : Option (Nat × Bool)
  deriving DecidableEq, Repr

/-- TWN (R346), the pair and the twin words under way. `digestIn` holds DIGEST transfers received before their TDCMP,
`verifyIn` VERIFY pairs received before their TVERIFY. -/
structure Twn where
  set       : Epoched Word
  pair      : Pair
  twin      : BitVec 18
  sentS     : Bool
  gotS      : Bool
  recov     : BitVec 16
  mirror    : Word
  refused   : Word
  dig       : Vector Word 4
  div       : Word
  divcnt    : Word
  snap      : Word
  rdAddr    : BitVec 48
  rdLen     : BitVec 48
  rdBusy    : Bool
  rdRes     : Word
  fault     : Word
  faultAddr : Word
  nextTag   : Nat
  jobs      : List MirrorJob
  digest    : Option (Nat × Word × Word)
  digestIn  : List (Word × Word)
  verify    : Option VerifyJob
  verifyIn  : List (Word × Word)
  hold      : Option Nat
  deriving DecidableEq, Repr

/-- TIM (R345, R347): the open record, the phases opened by TMARK, the ring of closed records, their count. -/
structure Tim where
  opened : Bool
  cur    : Vector Word 16
  fwd    : Bool
  split  : Bool
  ring   : SMap (List Word)
  closed : BitVec 32
  deriving DecidableEq, Repr

/-- The settings epoch-bound to PWR_FN (R365). -/
structure PwrSet where
  droop : Word
  swarf : Word
  loop  : Word
  curve : SMap Word
  deriving DecidableEq, Repr

/-- What the swarf of a section does (R358). -/
inductive Swarf where
  | off | holding | decaying | ramping
  deriving DecidableEq, Repr

/-- PWR (R365) and the Temper unit. Rates are 0 to 64; `capNext` is the cap rate computed by the latest sample and
not yet in force; `droopBeat` the beat of the last droop event; `clock` the core clock in force in MHz; `effVin` says
that 42 A × input voltage sets the effective cap. -/
structure Pwr where
  cap       : BitVec 8
  fstep     : BitVec 8
  pending   : Bool
  clock     : Nat
  set       : Epoched PwrSet
  power     : BitVec 16
  tel0      : Word
  tel1      : Word
  temp0     : Word
  energy    : Word
  effCap    : BitVec 8
  effVin    : Bool
  capRate   : Nat
  capNext   : Option Nat
  thermRate : Nat
  wasHot    : Bool
  inletOut  : Bool
  droopRate : Vector Nat 4
  droopHold : Vector Bool 4
  droopBeat : Option Word
  changed   : Option Word
  asked     : Word
  why       : BitVec 2
  seen      : BitVec 7
  rampRate  : Vector Nat 8
  swarfRate : Vector Nat 8
  swarf     : Vector Swarf 2
  dcount    : Word
  patSel    : BitVec 10
  annealing : Bool
  swarfCnt  : Word
  thrStep   : Vector Word 7
  thrAcc    : Vector Word 7
  deriving DecidableEq, Repr

/-- A key slot (R370): its privilege (0 empty) and its 32-byte key. -/
structure KeySlot where
  priv : BitVec 2
  key  : List Byte
  deriving DecidableEq, Repr

/-- A challenge outstanding (R371): the slot, Nh, Nd and the session identifier. -/
structure Challenge where
  slot : BitVec 4
  nh   : List Byte
  nd   : List Byte
  sid  : BitVec 32
  deriving DecidableEq, Repr

/-- The open session (R371–R373): slot, privilege, identifier, and the traffic keys and IVs in the order of R373. -/
structure Session where
  slot : BitVec 4
  priv : BitVec 2
  sid  : BitVec 32
  keys : List (List Byte)
  deriving DecidableEq, Repr

/-- A frame of an answer to the host: operation, status, ADDR, OFF, LAST, ARG, DATA (R367). -/
structure HostMsg where
  op     : Nat
  status : Nat
  addr   : Word
  off    : Nat
  last   : Bool
  arg    : List Byte
  data   : List Byte
  deriving DecidableEq, Repr

/-- What a request of the host that is not answered yet waits for: a transaction, an image, a report. -/
inductive Awaited where
  | access (id : Nat) | image | report
  deriving DecidableEq, Repr

/-- The answer to a request, by the number of the request: one still awaited, or one that is ready behind it (R368). -/
structure Answer where
  req   : Nat
  awaits : Option Awaited
  msgs  : List HostMsg
  deriving DecidableEq, Repr

/-- SEC (R382), the session and the Assay unit's work in progress. `reqs` counts the HOST requests that have arrived,
`answers` holds the answers that an earlier one keeps back (R368). -/
structure Sec where
  session   : Option Session
  challenge : Option Challenge
  fails     : Nat
  lockout   : Bool
  opens     : BitVec 32
  alt       : BitVec 5
  run       : Vector (BitVec 8) 5
  privlog   : Word
  authfail  : Word
  staged    : SMap Byte
  verifying : Option Nat
  attest    : Option (List Byte)
  reqs      : Nat
  answers   : List Answer
  deriving DecidableEq, Repr

/-- ATN (R383). `pin` says that ATTN_N is driven low; `last` is the unmasked summary; `owed` says that it has changed
since the last ATTN frame (R381). -/
structure Atn where
  mask  : BitVec 23
  frame : Bool
  count : Word
  pin   : Bool
  last  : BitVec 23
  owed  : Bool
  deriving DecidableEq, Repr

/-- RST (R404). -/
structure Rst where
  last     : BitVec 4
  warms    : BitVec 32
  fromPs   : BitVec 3
  reverted : BitVec 11
  quarter  : BitVec 2
  active   : BitVec 4
  arrayPend : Bool
  arrayBusy : Bool
  deriving DecidableEq, Repr

/-- BST (R405) and the self-test on command. -/
structure Bst where
  ctrl     : Word
  busy     : Bool
  result   : BitVec 2
  progress : BitVec 8
  lost     : BitVec 16
  log      : List (Word × Word)
  pu       : Word
  deriving DecidableEq, Repr

/-- MGT (R406) beside its flash. -/
structure Mgt where
  stop   : BitVec 8
  phase  : BitVec 8
  offset : BitVec 13
  deriving DecidableEq, Repr

/-- SYS (R403) and the power-state machine (R388): the state in force, the state being entered, whether the exit to
PS0 runs, whether a wake waits, whether the main rails stay off until PWR_EN is cycled (R355, R413), whether STBY_12V
is present, and whether the pin PWR_EN is low (R414, R417). -/
structure Sys where
  ready    : Bool
  fail     : Bool
  ps       : BitVec 3
  target   : BitVec 3
  entering : Option (BitVec 3)
  exiting  : Bool
  wake     : Bool
  shutdown : Bool
  standby  : Bool
  pwrLow   : Bool
  deriving DecidableEq, Repr

/-- What fuses, flash and the standby log hold: it survives every reset and power state (R390). Images are keyed by
bank × 8 + type; `bank` is the active bank and `switch` the types for which the other bank is active from the next
cold reset. `patina` holds the words of PWR_PATINA by physical core, `hours` the powered hours and `beats` the beats
of the hour in progress. -/
structure Flash where
  serial   : Vector Word 2
  keys     : SMap KeySlot
  fabric   : List Byte
  owned    : Bool
  claim    : Vector Word 4
  fuse     : Vector (BitVec 8) 5
  images   : SMap (List Byte)
  bank     : Bool
  switch   : BitVec 5
  fence    : BitVec 4
  pumem    : BitVec 2
  patina   : SMap Word
  annealed : BitVec 24
  hours    : BitVec 24
  droops   : Vector Nat 4
  beats    : Nat
  hard     : List Repair
  cert     : SMap Byte
  log      : Word
  logNew   : Bool
  tshut    : Bool
  deriving DecidableEq, Repr

end Sys2Proof.Machine
end

