-- ==== Sys2Proof/Machine/State.lean ====
section
/-! DEFINITION. The state of the module: every register, buffer, queue, store and pin of the spec, beside the queue
of waiting commands, and the state right after a cold reset (R9). -/

namespace Sys2Proof.Machine

/-- Data frames that have arrived in order and wait (R297, R374): their port, number and channel, whether the tag of their
group has been found good or is not needed, and the frames as the command that brought them. -/
structure HeldIn where
  port  : Nat
  count : Nat
  chan  : Nat
  good  : Bool
  cmd   : Instr
  deriving DecidableEq, Repr

/-- The state of the module. `held` are the data frames received and not yet acted on, in order. `cleared` says by
block index whether the block's causes have all been zero since its fault record was last filled. `pending` is the
queue of waiting commands; `fresh` counts the free values drawn (the model's own field, log entry 2); `sent` records
what the module has sent (the model's own field, log entry 4). `mem` holds every byte of T0 (tile stores and
G-buffers), T1, T2 (under its linear-view address) and the T3 bytes last exchanged; `headers` the G-buffer tile
headers by core × 32 + tile. `cause` and `mask` are the cause and mask registers by block index. `staged` is the cast
being admitted or awaiting its start beat, `cast` the one running or held. -/
structure State where
  pending : List Instr
  held    : List HeldIn
  fresh   : Nat
  sent    : List Emit
  cause   : Vector Word 23
  mask    : Vector Word 23
  cleared : BitVec 23
  fn      : FnRegs
  sys     : Sys
  flash   : Flash
  bea     : Bea
  cnd     : Cnd
  staged  : Option CastImg
  cast    : Option CastImg
  sheet   : Sheet
  crw     : Crw
  fmt     : Fmt
  vec     : Vec
  mem     : List Host.Cell
  headers : SMap Word
  tmv     : Tmv
  tir     : Tir
  mdv     : Mdv
  bnk     : Bnk
  upd     : Upd
  lnk     : Lnk
  fol     : Fol
  twn     : Twn
  tim     : Tim
  pwr     : Pwr
  sec     : Sec
  atn     : Atn
  rst     : Rst
  bst     : Bst
  mgt     : Mgt
  deriving DecidableEq, Repr

/-- The reasons a step can fault. The spec turns every error of the module into state (a cause bit, a record, a
response), so the model has no fault of its own and no command raises one. -/
inductive Fault where
  deriving DecidableEq, Repr

/-- The reasons a step can be refused. -/
inductive Refusal where
  /-- Raised by an arm of the dispatch whose command has no meaning yet; safe. -/
  | notModelled (mnemonic : String)
  deriving DecidableEq, Repr

/-- A fault record with CORE 0x3FF and nothing else: the reset value of ARY_FAULT and its like. -/
def noFault : Word := 0x000003FF00000000

/-- The beat receiver at reset (R31). -/
def Bea.atReset : Bea :=
  { ctrl := 0x27100001, srcCur := 1, fallCur := 0, srcAct := 1, phaseErr := 0, hops := 0, holdExp := false,
    hold := false, lock := false, lost := false, slewing := false, started := false, missed := 0, heldBeats := 0,
    count := 0, loadPend := none, tai := 0, alarm := 0, bar := 0x0F424008, late := 0 }

/-- The Conductor at reset (R81). -/
def Cnd.atReset : Cnd :=
  { castBase := 0, run := 0, adm := .idle, why := 0, ending := 0, mould := 0, part := 0, pc := 0, past := false, step := 0,
    halt := 0, mentry := 0, late := 0, stall := 0, exc := 0, excInstr := 0, excHi := 0, excLo := 0,
    quench := false, g := Vector.replicate 32 0, sm := Vector.replicate 16 0, deliv := [], loops := [],
    wait := .none, fresh := 0, nextSeq := 0, prior := false }

/-- The Sheet at reset (R108). -/
def Sheet.atReset : Sheet :=
  { set := Epoched.at ⟨0x81, 1⟩, words := 0, products := 0, slag := 0, ecc := 0, fault := noFault, faultAddr := 0,
    qF := [], qB := [], qH := [], issued := [], lastF := 0, lastB := 0, lastH := 0, holdF := none, holdB := none,
    holdH := none, sbars := [], fbars := [], switch := none, writers := [] }

/-- The lanes at reset (R157). -/
def Vec.atReset : Vec :=
  { loaded := 0, prog := [], flags := 0, stats := 0, fault := noFault, faultAddr := 0, ecc := 0 }

/-- The tier manager at reset (R206). -/
def Tmv.atReset : Tmv :=
  { cfg := Epoched.at 0x20, map := .load, releasing := false, probe := 0, tmc := 0, moves := 0, evict := 0,
    fault := noFault, faultAddr := 0, queue := [], moving := [], touch := [] }

/-- TIR at reset (R207). -/
def Tir.atReset : Tir :=
  { quota := [], peak := [], slots := [], lastAdm := 0, lastLen := 0, lastTag := 0, slotSel := 0, loaded := false }

/-- The memory controllers at reset (R230): every word zero and every row sealed (R390). -/
def Mdv.atReset : Mdv :=
  { cfg := Epoched.at 0x180013C0, trained := 0, hot := 0, temp := [], ce := 0, ue := 0, ifcrc := 0, errLoc := 0,
    errPaddr := 0, errUaddr := 0, errBeat := 0, fault := 0, sealSel := 0, override := false, repair := 0,
    spares := 4, result := 0, busy := false, repairs := [], diff := [], unsealed := [], lost := [], postponed := [],
    refreshed := [], scrubNext := 0, uncorr := none, stopCores := [], hostErr := [] }

/-- The bank cores and BNK at reset (R251). -/
def Bnk.atReset : Bnk :=
  { loaded := 0, done := 0, flags := 0, chain := 0, fault := 0, faultAddr := 0, launches := [], cores := [], work := none }

/-- UPD at reset (R281). -/
def Upd.atReset : Upd :=
  { stats := 0, flush := 0, moved := 0, restore := 0, last := 0, fault := noFault, faultAddr := 0 }

/-- The link block at reset (R306). -/
def Lnk.atReset : Lnk :=
  { set := Epoched.at { id := 0x0000800000000000, cfg := 0x025800000F42401F, dom := [], exp := [], rt := [],
                        prot := 0x7F },
    ports := Vector.replicate 8 Port.off, take := false, taking := false, drop := 0, refused := 0, aps := [],
    trans := [], abandoned := [], nextTag := 0, inWrites := [], stalled := [], nextId := 0, got := [], reading := 0,
    trial := none, wire := [] }

/-- The collective unit at reset (R328). -/
def Fol.atReset : Fol :=
  { set := Epoched.at [], tiles := 0, crc := 0, coll := 0, nfrows := 0, fault := noFault, faultAddr := 0,
    insts := [], counts := [], held := [] }

/-- The twin unit at reset (R346). -/
def Twn.atReset : Twn :=
  { set := Epoched.at 0x5A0, pair := .single, twin := 0, sentS := false, gotS := false, recov := 0, mirror := 0,
    refused := 0, dig := Vector.replicate 4 0, div := 0, divcnt := 0, snap := 0, rdAddr := 0, rdLen := 0,
    rdBusy := false, rdRes := 0, fault := 0, faultAddr := 0, nextTag := 0, jobs := [], digest := none,
    digestIn := [], verify := none, verifyIn := [], hold := none }

/-- The step timers at reset (R347). -/
def Tim.atReset : Tim :=
  { opened := false, cur := Vector.replicate 16 0, fwd := false, split := false, ring := [], closed := 0 }

/-- The Temper unit at reset (R365). -/
def Pwr.atReset : Pwr :=
  { cap := 0xC8, fstep := 0x60, pending := false, clock := 2400,
    set := Epoched.at { droop := 0x32200960, swarf := 0x8000000400F000F0, loop := 0x1404, curve := [] },
    power := 0, tel0 := 0, tel1 := 0, temp0 := 0, energy := 0, effCap := 0xC8, effVin := false, capRate := 64,
    capNext := none, thermRate := 64, wasHot := false, inletOut := false, droopRate := Vector.replicate 4 64,
    droopHold := Vector.replicate 4 false, droopBeat := none, changed := none,
    asked := 0, why := 0, seen := 0,
    rampRate := Vector.replicate 8 64, swarfRate := Vector.replicate 8 0, swarf := Vector.replicate 2 .off,
    dcount := 0, patSel := 0, annealing := false, swarfCnt := 0, thrStep := Vector.replicate 7 0,
    thrAcc := Vector.replicate 7 0 }

/-- SEC at reset (R382). -/
def Sec.atReset : Sec :=
  { session := none, challenge := none, fails := 0, lockout := false, opens := 0, alt := 0,
    run := Vector.replicate 5 0, privlog := 0, authfail := 0, staged := [], verifying := none, attest := none,
    reqs := 0, answers := [] }

/-- RST at reset (R404): the last event is a cold reset and every group has reverted. -/
def Rst.atReset : Rst :=
  { last := 1, warms := 0, fromPs := 0, reverted := 0x7FF, quarter := 0, active := 0, arrayPend := false,
    arrayBusy := false }

/-- BST at reset (R405). -/
def Bst.atReset : Bst :=
  { ctrl := 0, busy := false, result := 0, progress := 0, lost := 0, log := [], pu := 0 }

/-- SYS at reset (R403). -/
def Sys.atReset : Sys :=
  { ready := false, fail := false, ps := 0, target := 0, entering := none, exiting := false, wake := false,
    shutdown := false, standby := true, pwrLow := false }

/-- The stores as the model takes the module to be shipped (log entry 3): UNCLAIMED with no key (R370), BST_CFG.PUMEM
0b01 (R405), no fence, no hard repair, an empty standby log, everything else zero. -/
def Flash.shipped : Flash :=
  { serial := Vector.replicate 2 0, keys := [], fabric := [], owned := false, claim := Vector.replicate 4 0,
    fuse := Vector.replicate 5 0, images := [], bank := false, switch := 0, fence := 0, pumem := 1, patina := [],
    annealed := 0, hours := 0, droops := Vector.replicate 4 0, beats := 0, hard := [], cert := [], log := 0, logNew := false, tshut := false }

/-- The function registers at reset. -/
def FnRegs.atReset : FnRegs :=
  { cnd := FnReg.atReset, ary := FnReg.atReset, tmv := FnReg.atReset, mdv := FnReg.atReset, lnk := FnReg.atReset,
    fol := FnReg.atReset, twn := FnReg.atReset, pwr := FnReg.atReset }

/-- The cause registers at reset: every one zero but RST_CAUSE, which reads 0x2 (R391). -/
def resetCause : Vector Word 23 := (Vector.replicate 23 (0 : Word)).set 20 2

/-- The module right after a cold reset, before the first phase of the power-up sequence (R9, R393): every field at
its Reset value, memory zero, no command waiting. -/
def State.reset : State :=
  { pending := [], held := [], fresh := 0, sent := [], cause := resetCause, mask := Vector.replicate 23 0, cleared := 0,
    fn := FnRegs.atReset, sys := Sys.atReset, flash := Flash.shipped, bea := Bea.atReset, cnd := Cnd.atReset,
    staged := none, cast := none, sheet := Sheet.atReset, crw := ⟨0, 0, 0, []⟩, fmt := ⟨false, 0, [], 0⟩,
    vec := Vec.atReset, mem := [], headers := [], tmv := Tmv.atReset, tir := Tir.atReset, mdv := Mdv.atReset,
    bnk := Bnk.atReset, upd := Upd.atReset, lnk := Lnk.atReset, fol := Fol.atReset, twn := Twn.atReset,
    tim := Tim.atReset, pwr := Pwr.atReset, sec := Sec.atReset, atn := ⟨0, true, 0, true, 0x100000, true⟩, rst := Rst.atReset,
    bst := Bst.atReset, mgt := ⟨0, 0, 0⟩ }

end Sys2Proof.Machine
end

