-- ==== Sys2Proof/Machine/Aes.lean ====
section
/-! DEFINITION. AES-256-GCM (R374), as the standards FIPS 197 and NIST SP 800-38D define it (log entry 113). -/

namespace Sys2Proof.Machine

/-! ## The cipher -/

/-- Multiplication by x in the field of AES. -/
def xtime (b : Byte) : Byte := (b <<< 1) ^^^ (if bitAt b 7 then 0x1B else 0)

/-- The product of two field elements. -/
def gmul (a b : Byte) : Byte :=
  ((List.range 8).foldl (fun q i => (if bitAt b i then q.1 ^^^ q.2 else q.1, xtime q.2)) ((0 : Byte), a)).1

/-- A power of a field element. -/
def gpow (a : Byte) : Nat → Byte
  | 0 => 1
  | n + 1 => gmul a (gpow a n)

/-- The substitution of one byte: the inverse, then the affine map. -/
def subByte (b : Byte) : Byte :=
  let v := gpow b 254
  v ^^^ v.rotateLeft 1 ^^^ v.rotateLeft 2 ^^^ v.rotateLeft 3 ^^^ v.rotateLeft 4 ^^^ 0x63

/-- Bytes combined by exclusive or. -/
def xorBytes (a b : List Byte) : List Byte := List.zipWith (· ^^^ ·) a b

/-- A round constant. -/
def rcon : Nat → Byte
  | 0 => 1
  | n + 1 => xtime (rcon n)

/-- The next word of the key schedule from the words so far, newest first; `i` is its number. -/
def nextKeyWord (i : Nat) (ws : List (List Byte)) : List Byte :=
  let t := ws.headD []
  let t := if i % 8 = 0 then xorBytes ((t.drop 1 ++ t.take 1).map subByte) [rcon (i / 8 - 1), 0, 0, 0]
    else if i % 8 = 4 then t.map subByte else t
  xorBytes (ws.getD 7 []) t

/-- The 60 words of the key schedule, newest first. -/
def keyWords (key : List Byte) : List (List Byte) :=
  (List.range 52).foldl (fun ws i => nextKeyWord (8 + i) ws :: ws) ((List.range 8).map (fun i => chunk 4 i key)).reverse

/-- The 15 round keys of a 32-byte key. -/
def roundKeys (key : List Byte) : List (List Byte) :=
  let w := (keyWords key).reverse.flatten
  (List.range 15).map (fun r => chunk 16 r w)

/-- Rows shifted: byte r + 4c comes from column c + r. -/
def shiftRows (s : List Byte) : List Byte := (List.range 16).map (fun i => s.getD ((i + 4 * (i % 4)) % 16) 0)

/-- One column mixed. -/
def mixColumn (c : List Byte) : List Byte :=
  (List.range 4).map (fun i =>
    xtime (c.getD i 0) ^^^ (xtime (c.getD ((i + 1) % 4) 0) ^^^ c.getD ((i + 1) % 4) 0) ^^^ c.getD ((i + 2) % 4) 0
      ^^^ c.getD ((i + 3) % 4) 0)

/-- The columns mixed. -/
def mixColumns (s : List Byte) : List Byte := (List.range 4).flatMap (fun c => mixColumn (chunk 4 c s))

/-- One block under the round keys. -/
def aesBlock (ks : List (List Byte)) (b : List Byte) : List Byte :=
  let s := xorBytes b (ks.headD [])
  let s := ((ks.drop 1).take 13).foldl (fun s k => xorBytes (mixColumns (shiftRows (s.map subByte))) k) s
  xorBytes (shiftRows (s.map subByte)) (ks.getD 14 [])

/-! ## The mode -/

/-- The counter block of a 12-byte nonce. -/
def counterBlock (nonce : List Byte) (i : Nat) : List Byte := nonce ++ beBytes 4 i

/-- `n` blocks of the key stream from block `i` of a message on. -/
def keyStream (ks : List (List Byte)) (nonce : List Byte) (i n : Nat) : List Byte :=
  (List.range n).flatMap (fun k => aesBlock ks (counterBlock nonce (2 + i + k)))

/-- One step of the product of GHASH: the running product and the multiple of the hash key. -/
def ghashStep (x : BitVec 128) (q : BitVec 128 × BitVec 128) (i : Nat) : BitVec 128 × BitVec 128 :=
  (if bitAt x (127 - i) then q.1 ^^^ q.2 else q.1,
   (q.2 >>> 1) ^^^ (if bitAt q.2 0 then (0xE1 : BitVec 128) <<< 120 else 0))

/-- The product of two blocks in the field of GHASH. -/
def ghashMul (x h : BitVec 128) : BitVec 128 := ((List.range 128).foldl (ghashStep x) (0, h)).1

/-- GHASH of a list of bytes, cut into blocks and padded with zeros. -/
def ghashOver (h : BitVec 128) (y : BitVec 128) (l : List Byte) : BitVec 128 :=
  (List.range ((l.length + 15) / 16)).foldl
    (fun y i => ghashMul (y ^^^ BitVec.ofNat 128 (beNat (padTo 16 (chunk 16 i l)))) h) y

/-- The tag of a ciphertext with its additional data. -/
def gcmTag (ks : List (List Byte)) (nonce aad cipher : List Byte) : List Byte :=
  let h := BitVec.ofNat 128 (beNat (aesBlock ks (List.replicate 16 0)))
  let y := ghashOver h (ghashOver h 0 aad) cipher
  let y := ghashOver h y (beBytes 8 (8 * aad.length) ++ beBytes 8 (8 * cipher.length))
  xorBytes (beBytes 16 y.toNat) (aesBlock ks (counterBlock nonce 1))

end Sys2Proof.Machine
end

