-- ==== Sys2Proof/Machine/Wire.lean ====
section
/-! DEFINITION. A frame slot as it leaves a port (R283, R285, R287, R374): the header's bytes, the payload filled up to
512 bytes and enciphered where the port is protected, the CRC. -/

namespace Sys2Proof.Machine

/-- CLASS of a type (R286). -/
def classOf (type : BitVec 4) : Nat :=
  if type = 2 ∨ type = 4 ∨ type = 5 then 0 else if type = 3 ∨ type = 6 ∨ type = 7 then 1 else if type.toNat < 12 then 2 else 3

/-- The number of the buffers that a frame takes: CLASS and VCH, in the order of CREDITS (R287, R295). -/
def channelOf (type : BitVec 4) (vch : Bool) : Nat := 2 * classOf type + vch.toNat

/-- Header bits [127:32] as twelve bytes; the CLASS of IDLE and CTRL is sent as 0. -/
def headerBytes (type : BitVec 4) (h : FrameHdr) : List Byte :=
  let class_ := if type.toNat < 2 then 0 else classOf type
  leBytes 12 (2 ^ 92 * type.toNat + 2 ^ 90 * class_ + 2 ^ 89 * h.vch.toNat + 2 ^ 78 * h.seq.toNat + 2 ^ 67 * h.ack.toNat
    + 2 ^ 49 * h.dst.toNat + 2 ^ 31 * h.src.toNat + 2 ^ 18 * h.tag.toNat + 2 ^ 11 * h.off.toNat + 2 ^ 7 * h.len.toNat
    + 2 ^ 2 * h.hops.toNat + 2 * h.last.toNat)

/-- A frame slot: 528 bytes, the CRC-32C of the rest of the header and the payload as sent in its first four (R285). -/
def frameSlot (type : BitVec 4) (h : FrameHdr) (payload : List Byte) : List Byte :=
  let body := headerBytes type h ++ payload
  leBytes 4 (crc32c body).toNat ++ body

/-- The header of an IDLE slot. -/
def idleHdr : FrameHdr :=
  { vch := false, seq := 0, ack := 0, dst := 0, src := 0, tag := 0, off := 0, len := 0, hops := 0, last := false }

/-- The nonce of the group that the port is sending: its IV and the count of its control slots (R374). -/
def Port.nonce (q : Port) (iv : List Byte) : List Byte := iv ++ leBytes 8 q.ctrls

/-- The payload of the next data slot of the group as it is sent: 512 bytes, enciphered on a protected port. -/
def Port.sealPayload (q : Port) (payload : List Byte) : List Byte :=
  let p := padTo 512 payload
  match q.key with
  | some (k, iv) => xorBytes p (keyStream (roundKeys k) (q.nonce iv) (32 * q.group.length) 32)
  | none => p

/-- The port with one more data slot in its group. -/
def Port.inGroup (q : Port) (type : BitVec 4) (h : FrameHdr) (sent : List Byte) : Port :=
  { q with group := q.group ++ [(headerBytes type h, sent)] }

/-- The port with its group filled up with IDLE slots to `n` more. -/
def Port.idle (q : Port) : Nat → Port
  | 0 => q
  | n + 1 => (q.inGroup 0 idleHdr (q.sealPayload [])).idle n

/-- GTAG over the 39 data slots of the group; zero where the port is not protected (R287, R374). -/
def Port.gtag (q : Port) : List Byte :=
  match q.key with
  | some (k, iv) =>
    let g := (q.idle (39 - q.group.length)).group
    gcmTag (roundKeys k) (q.nonce iv) (g.flatMap (·.1)) (g.flatMap (·.2))
  | none => List.replicate 16 0

/-- The payload of a control slot (R287) without a NAK: the stamp, if there is one, GTAG, the credits and the sender's
identity. -/
def ctrlPayload (stamp : Option (Word × BitVec 32 × Nat)) (gtag : List Byte) (credits : List (BitVec 32)) (id : BitVec 18)
    (spare : Bool) : List Byte :=
  let head := match stamp with
    | some (b, e, n) => leBytes 8 b.toNat ++ leBytes 4 e.toNat ++ [BitVec.ofNat 8 n, 1]
    | none => List.replicate 14 0
  padTo 512 (head ++ [0, 0] ++ gtag ++ credits.flatMap (fun c => leBytes 4 c.toNat)
    ++ leBytes 3 (id.toNat + 2 ^ 23 * spare.toNat))

end Sys2Proof.Machine
end

