-- ==== Sys2Proof/Machine/Ops.lean ====
section
/-! DEFINITION. The named operations over the state: causes, function registers, the Size Table, the physical map,
translation, and reading and writing memory under the rules that every requester shares. -/

namespace Sys2Proof.Machine

/-! ## Outcomes, free values, the record of what is sent -/

/-- A command answers a next state. -/
abbrev Out := Host.Outcome State Fault Refusal

/-- `a` under the condition `b`, otherwise the state unchanged: an event that cannot occur in `s` changes nothing. -/
def whenB (b : Bool) (s a : State) : Out := .next (if b then a else s)

/-- The state with its counter of free values advanced. -/
def State.drawn (s : State) : State := { s with fresh := s.fresh + 1 }

/-- The state after sending `e`. -/
def State.emit (s : State) (e : Emit) : State := { s with sent := s.sent ++ [e] }

/-! ## Cause and mask registers (R8, R10) -/

/-- A block's cause register. -/
def State.causeOf (s : State) (b : Blk) : Word := s.cause.get b.idx

/-- A block's mask register. -/
def State.maskOf (s : State) (b : Blk) : Word := s.mask.get b.idx

/-- ATN_SUMMARY (R380): bit n while block n's CAUSE has a 1 whose bit in its MASK is 0. SIZ and ATN have no causes. -/
def State.summary (s : State) : BitVec 23 :=
  (List.range 23).foldl (fun v n =>
    if n != 1 && n != 19 && (s.cause.toList.getD n 0 &&& ~~~ (s.mask.toList.getD n 0)) != 0 then v ||| (1 <<< n) else v) 0

/-- The summary bits of the blocks that the power state keeps readable (R389, R417, log entry 45): in PS2 all but CND,
ARY, CRW, VEC, TMV, TIR, BNK, UPD, FOL, TWN and TIM; in PS3 and PS4 those that SMBus reaches, SYS, RST and MGT. -/
def readableBlocks (ps : BitVec 3) : BitVec 23 :=
  if ps.toNat < 2 then 0x7FFFFF else if ps = 2 then 0x7E2447 else 0x500001

/-- The unmasked summary, ATN_SUMMARY and not ATN_MASK (R380). -/
def State.attention (s : State) : BitVec 23 := s.summary &&& ~~~ s.atn.mask &&& readableBlocks s.sys.ps

/-- ATTN_N follows the unmasked summary (R380): an assertion is counted (R383), a change is owed a frame (R381). -/
def State.settleAttn (s : State) : State :=
  let v := s.attention
  let a := s.atn
  { s with atn := { a with pin := v != 0, last := v, owed := a.owed || v != a.last,
                           count := if v != 0 && !a.pin then addLo a.count 1 else a.count } }

/-- The bit of a block in a vector over the blocks. -/
def blkBit (b : Blk) : BitVec 23 := 1 <<< b.idx.val

/-- The state with a block's cause register replaced. A register that becomes zero opens the block's fault record for the
next event. -/
def State.putCause (s : State) (b : Blk) (v : Word) : State :=
  { s with cause := s.cause.set b.idx.val v,
           cleared := if v = 0 then s.cleared ||| blkBit b else s.cleared }.settleAttn

/-- The state with a block's mask register replaced. -/
def State.putMask (s : State) (b : Blk) (v : Word) : State :=
  { s with mask := s.mask.set b.idx.val v }.settleAttn

/-- Raise the cause with bit number `n` of a block. -/
def State.raise (s : State) (b : Blk) (n : Nat) : State := s.putCause b (s.causeOf b ||| ((1 : Word) <<< n))

/-- Raise a cause if the condition holds. -/
def State.raiseIf (s : State) (c : Bool) (b : Blk) (n : Nat) : State := if c then s.raise b n else s

/-! ## Function registers (R49–R52) -/

/-- The function register of a block. -/
def FnRegs.get (f : FnRegs) : FnBlock → FnReg
  | .cnd => f.cnd | .ary => f.ary | .tmv => f.tmv | .mdv => f.mdv | .lnk => f.lnk | .fol => f.fol
  | .twn => f.twn | .pwr => f.pwr

/-- The function registers with that of a block replaced. -/
def FnRegs.put (f : FnRegs) (b : FnBlock) (r : FnReg) : FnRegs :=
  match b with
  | .cnd => { f with cnd := r } | .ary => { f with ary := r } | .tmv => { f with tmv := r }
  | .mdv => { f with mdv := r } | .lnk => { f with lnk := r } | .fol => { f with fol := r }
  | .twn => { f with twn := r } | .pwr => { f with pwr := r }

/-- The block of a function. -/
def fnBlk : FnBlock → Blk
  | .cnd => .cnd | .ary => .ary | .tmv => .tmv | .mdv => .mdv | .lnk => .lnk | .fol => .fol | .twn => .twn
  | .pwr => .pwr

/-- The number of the EPOCH bit in a function block's cause register. -/
def fnEpochBit : FnBlock → Nat
  | .cnd => 2 | .ary => 5 | .tmv => 6 | .mdv => 7 | .lnk => 12 | .fol => 6 | .twn => 9 | .pwr => 8

/-- The state with a function register replaced. -/
def State.putFn (s : State) (b : FnBlock) (r : FnReg) : State := { s with fn := s.fn.put b r }

/-- The state of a function. -/
def State.fnState (s : State) (b : FnBlock) : FnState := (s.fn.get b).state

/-- The state with a function's STATE replaced. -/
def State.setFnState (s : State) (b : FnBlock) (f : FnState) : State :=
  s.putFn b { s.fn.get b with state := f }

/-- A function is STOPPED. -/
def State.stopped (s : State) (b : FnBlock) : Bool := s.fnState b == .stopped

/-- A function is in RUN. -/
def State.running (s : State) (b : FnBlock) : Bool := s.fnState b == .run

/-- GO enters RUN under R51: STOPPED, not MIXED, APPLIED equal to EPOCH. -/
def FnReg.mayGo (r : FnReg) : Bool := r.state == .stopped && !r.mixed && r.applied == r.epoch

/-- A function that the module itself puts into RUN under R51; where R51 does not allow it, it stays STOPPED and the
EPOCH cause of its block is set (R85, R206). -/
def State.autoGo (s : State) (b : FnBlock) : State :=
  if (s.fn.get b).mayGo then s.setFnState b .run else s.raise (fnBlk b) (fnEpochBit b)

/-! ## Admission state -/

/-- No cast is admitted, running or held: ADMIT is 0b000 or 0b100 (R81). -/
def State.noCast (s : State) : Bool := s.cnd.adm == .idle || s.cnd.adm == .refused

/-- The load map is in force (TMV_STATUS.MAP 0b00). -/
def State.loadMap (s : State) : Bool := s.tmv.map == .load

/-! ## The Size Table (R17, R3) -/

/-- A quarter is fenced. -/
def State.fenced (s : State) : Bool := s.rst.active != 0

/-- SIZ_CORES. -/
def State.sizCores (s : State) : Nat := if s.fenced then 648 else 864

/-- SIZ_ROWS. -/
def State.sizRows (s : State) : Nat := if s.fenced then 18 else 24

/-- SIZ_BSTART. -/
def State.sizBstart (s : State) : Nat := if s.fenced then 6 else 8

/-- The Size Table, entry k at offset 8k (R17). -/
def State.sizEntry (s : State) (k : Nat) : Word :=
  match k with
  | 0 => 0x594E192000010000 ||| (s.rst.active.setWidth 64)
  | 1 => BitVec.ofNat 64 s.sizRows
  | 2 => 36
  | 3 => BitVec.ofNat 64 s.sizBstart
  | 4 => BitVec.ofNat 64 s.sizCores
  | 5 => if s.fenced then 0x28800000 else 0x36000000
  | 6 => 0x0C000000
  | 7 => 0x01E000000000
  | 8 => 0x100000000000
  | 9 => 24
  | 10 => 15360
  | 11 => 160
  | 12 => 256
  | 13 => 65536
  | 14 => 6
  | 15 => 8
  | 16 => 16
  | 17 => 4
  | _ => 0

/-! ## The physical map (R181, R208, R298) -/

/-- The first P-address of T1. -/
def t1Base : Nat := 0x40000000
/-- The first P-address of the descriptor table (R181). -/
def descBase : Nat := 0x4BE00000
/-- The first P-address above T1. -/
def t1End : Nat := 0x4C000000
/-- The first P-address of the linear view of T2. -/
def t2Base : Nat := 0x010000000000
/-- The bytes of T2. -/
def t2Size : Nat := 0x01E000000000
/-- The bytes of one device. -/
def devSize : Nat := 0x1400000000
/-- The first P-address of the striped view of T2. -/
def stripeBase : Nat := 0x040000000000
/-- The first P-address of T3. -/
def t3Base : Nat := 0x100000000000
/-- The bytes of one aperture. -/
def apSize : Nat := 0x1000000000

/-- The linear-view address of offset `a` in the striped view (R208). -/
def unstripe (a : Nat) : Nat :=
  let st := a / 4096
  t2Base + devSize * (st % 24) + 4096 * (st / 24) + a % 4096

/-- A T2 linear-view address. -/
def isT2 (p : Nat) : Bool := decide (t2Base ≤ p) && decide (p < t2Base + t2Size)

/-- A T3 address. -/
def isT3 (p : Nat) : Bool := decide (t3Base ≤ p) && decide (p < t3Base + 256 * apSize)

/-- An aperture's register (LNK_APa). -/
def State.aperture (s : State) (a : Nat) : Word := smGet 0 s.lnk.aps a

/-- An aperture is open. -/
def State.apOpen (s : State) (a : Nat) : Bool := bitAt (s.aperture a) 63

/-- The one address under which the byte at P-address `p` is kept, if that byte exists: T0 of a core of the Size
Table, T1, T2 by its linear view, T3 through an open aperture. -/
def State.canon (s : State) (p : Nat) : Option Nat :=
  if p < t1Base then (if p / 0x100000 < s.sizCores then some p else none)
  else if p < t1End then some p
  else if isT2 p then some p
  else if stripeBase ≤ p ∧ p < stripeBase + t2Size then some (unstripe (p - stripeBase))
  else if isT3 p then (if s.apOpen ((p - t3Base) / apSize) then some p else none)
  else none

/-- The bank number, row and byte of a linear-view T2 address (R208). -/
def t2Place (p : Nat) : Nat × Nat × Nat :=
  let d := (p - t2Base) / devSize
  let o := (p - t2Base) % devSize
  let page := o / 0x10000
  let bidx := page % 640
  (640 * d + 32 * (bidx % 20) + bidx / 20, 32 * (page / 640) + (o / 2048) % 32, o % 2048)

/-- The linear-view address of a byte of a row of a bank (R208, read backwards). -/
def bankAddr (bank row byte : Nat) : Nat :=
  let d := bank / 640
  let die := (bank % 640) / 32
  let bidx := (bank % 32) * 20 + die
  t2Base + devSize * d + 0x10000 * (640 * (row / 32) + bidx) + 2048 * (row % 32) + byte

/-- The number of a row over all banks. -/
def rowKey (bank row : Nat) : Nat := 65536 * bank + row

/-- The number of the row that holds a linear-view T2 address. -/
def rowOf (p : Nat) : Nat := let q := t2Place p; rowKey q.1 q.2.1

/-- The number of the column word that holds a linear-view T2 address. -/
def colOf (p : Nat) : Nat := let q := t2Place p; rowKey q.1 q.2.1 * 64 + q.2.2 / 32

/-! ## Bytes at canonical addresses -/

/-- Memory is in its one canonical form: addresses strictly rising, no byte listed that reads as an unlisted one. -/
def Memory.wf (m : List Host.Cell) : Bool := smWf 0 m

/-- The number of the free values of a device, if a reset has left its content undefined (R397). -/
def State.lostAt (s : State) (dev : Nat) : Option Nat := (s.mdv.lost.find? (fun e => e.1 == dev)).map (·.2)

/-- What a byte of a lost device is XORed with: a free value (log entry 46); zero everywhere else. -/
def State.hidden (s : State) (p : Nat) : Byte :=
  if s.mdv.lost.isEmpty || !isT2 p then 0
  else match s.lostAt ((p - t2Base) / devSize) with
    | some n => Config.freeByte n p
    | none => 0

/-- What the seal bit of a row of a lost device is XORed with: a free value (log entry 46); false everywhere else. -/
def State.hiddenSeal (s : State) (key : Nat) : Bool :=
  if s.mdv.lost.isEmpty then false
  else match s.lostAt (key / 65536 / 640) with
    | some n => bitAt (Config.freeByte n (2 ^ 48 + key)) 0
    | none => false

/-- The row with this number is unsealed. -/
def State.rowUnsealed (s : State) (key : Nat) : Bool := smGet false s.mdv.unsealed key ^^ s.hiddenSeal key

/-- The seal bit of a row is set: true makes it unsealed. -/
def State.putUnsealed (s : State) (key : Nat) (b : Bool) : State :=
  { s with mdv := { s.mdv with unsealed := smPut false s.mdv.unsealed key (b ^^ s.hiddenSeal key) } }

/-- The row of a canonical address is unsealed. -/
def State.unsealedAt (s : State) (p : Nat) : Bool := isT2 p && s.rowUnsealed (rowOf p)

/-- One byte of memory; an unlisted byte reads zero (R390). -/
def State.byte (s : State) (p : Nat) : Byte := smGet 0 s.mem p ^^^ s.hidden p

/-- Store one byte. A byte of T2 passes through the encoder, so its column word's check bits agree with its data
again (R214). -/
def State.putByte (s : State) (p : Nat) (b : Byte) : State :=
  let m := smPut 0 s.mem p (b ^^^ s.hidden p)
  if isT2 p then { s with mem := m, mdv := { s.mdv with diff := smPut 0 s.mdv.diff (colOf p) 0 } }
  else { s with mem := m }

/-- Store bytes at listed addresses, in order. -/
def State.putBytes (s : State) : List (Nat × Byte) → State
  | [] => s
  | (p, b) :: t => (s.putByte p b).putBytes t

/-- Store bytes at consecutive canonical addresses. -/
def State.putRun (s : State) (p : Nat) : List Byte → State
  | [] => s
  | b :: t => (s.putByte p b).putRun (p + 1) t

/-- Read `n` bytes at consecutive canonical addresses. -/
def State.bytes (s : State) (p n : Nat) : List Byte := (List.range n).map (fun i => s.byte (p + i))

/-- The syndrome of the column word of a sealed row at an address (R214); zero at any other. -/
def State.syndAt (s : State) (p : Nat) : BitVec 10 :=
  if s.mdv.diff.isEmpty || !isT2 p || s.unsealedAt p then 0 else syndromeOf (smGet 0 s.mdv.diff (colOf p))

/-- One byte as a read delivers it: a single-bit error of a sealed row is corrected, everything else is raw (R217). -/
def State.readByte (s : State) (p : Nat) : Byte :=
  if s.mdv.diff.isEmpty then s.byte p else s.byte p ^^^ flipOf (s.syndAt p) (p % 32)

/-- Bytes at consecutive canonical addresses as a read delivers them. -/
def State.readBytes (s : State) (p n : Nat) : List Byte := (List.range n).map (fun i => s.readByte (p + i))

/-- The bytes of `n` consecutive P-addresses, if every one exists. -/
def State.canonRun (s : State) (p : Nat) : Nat → Option (List Nat)
  | 0 => some []
  | n + 1 =>
    match s.canon p, s.canonRun (p + 1) n with
    | some c, some t => some (c :: t)
    | _, _ => none

/-! ## Translation (R32, R184, R185, R187) -/

/-- The P-address of a U-address under the load map (R32). -/
def loadAddr (u : Nat) : Option Nat := if u < t2Size then some (stripeBase + u) else none

/-- Eight bytes of the cast image, which every map sends to the load map's place (R37). -/
def State.imageWord (s : State) (u : Nat) : Word :=
  BitVec.ofNat 64 (leNat ((List.range 8).map (fun i => s.readByte (unstripe (u + i)))))

/-- The tier-map entry of a U-page under the map in force (R185, R206): under the load map, V = 1, ACCT 0 and the
load-map place; zero where the page is unmapped. -/
def State.mapEntry (s : State) (k : Nat) : Word :=
  match s.tmv.map, s.cast with
  | .running, some c | .held, some c => if k < c.tmap.count then s.imageWord (c.tmap.addr + 8 * k) else 0
  | _, _ =>
    if k < 0x1E00000 then
      putAt 35 29 (0x4000000 + k) ||| putAt 6 29 (0x4000000 + k) ||| 1
    else 0

/-- The P-address of a U-address under the map in force; none where the page is unmapped. -/
def State.paddr (s : State) (u : Nat) : Option Nat :=
  if u < 0x100000000000 then
    let e := s.mapEntry (u / 0x10000)
    if bitAt e 0 then some (0x10000 * fldN e 6 29 + u % 0x10000) else none
  else none

/-- The canonical address of a U-address; none where it is not translated. -/
def State.transl (s : State) (u : Nat) : Option Nat :=
  match s.paddr u with
  | some p => s.canon p
  | none => none

/-- The places of the U-pages that `n` bytes from `u` touch, in order, with one page beyond. -/
def State.pagesAt (s : State) (u n : Nat) : List (Option Nat) :=
  (List.range (n / 0x10000 + 2)).map (fun k => s.paddr (0x10000 * (u / 0x10000 + k)))

/-- The canonical addresses of `n` U-addresses from `u`; none if any is not translated. -/
def State.translRun (s : State) (u n : Nat) : Option (List Nat) :=
  let ps := s.pagesAt u n
  (List.range n).mapM (fun i =>
    match ps.getD ((u + i) / 0x10000 - u / 0x10000) none with
    | some p => s.canon (p + (u + i) % 0x10000)
    | none => none)

/-- Read `n` bytes of the U-range; none on a translation fault. -/
def State.readU (s : State) (u n : Nat) : Option (List Byte) :=
  (s.translRun u n).map (fun l => l.map s.readByte)

/-- Read a 64-bit word of the U-range. -/
def State.readU64 (s : State) (u : Nat) : Option Word :=
  (s.readU u 8).map (fun l => BitVec.ofNat 64 (leNat l))

/-- The first untranslated U-address of a range, if any. -/
def State.firstUnmapped (s : State) (u n : Nat) : Option Nat :=
  ((List.range (n / 0x10000 + 2)).map (fun k => max u (0x10000 * (u / 0x10000 + k)))).find?
    (fun a => decide (a < u + n) && (s.transl a).isNone)

/-! ## Fault records: the first event after the block's causes were last all zero -/

/-- A record is free: it holds none, or the block's causes have all been zero since it was filled. -/
def recordFree (s : State) (b : Blk) (valid : Bool) : Bool := !valid || s.cleared &&& blkBit b != 0

/-- The block's record has been filled. -/
def State.filled (s : State) (b : Blk) : State := { s with cleared := s.cleared &&& ~~~ blkBit b }

/-- The layout that ARY_FAULT, VEC_FAULT, TMV_FAULT, UPD_FAULT and FOL_FAULT share above bit 32 (R108). -/
def faultWord (code opc sec core low : Nat) : Word :=
  putAt 56 8 code ||| putAt 48 8 opc ||| putAt 46 2 sec ||| putAt 32 10 core ||| putAt 0 32 low

/-- The bank fields of MDV_FAULT and MDV_ERR_LOC: device, die, bank of a bank number. -/
def bankParts (bank : Nat) : Nat × Nat × Nat := (bank / 640, (bank % 640) / 32, bank % 32)

/-- Record a refused write, an unsealed read or a failed repair in MDV_FAULT, which holds the first after BNKBUSY,
UNSEALED and REPAIR were last all zero (R230), and raise the cause. -/
def State.mdvFault (s : State) (code src bank row bit : Nat) : State :=
  let free := !bitAt s.mdv.fault 0 || (s.causeOf .mdv &&& 0x46) == 0
  let q := bankParts bank
  let rec_ := putAt 56 8 code ||| putAt 53 3 src ||| putAt 43 5 q.1 ||| putAt 38 5 q.2.1 ||| putAt 33 5 q.2.2
    ||| putAt 17 16 row ||| 1
  let s := if free then { s with mdv := { s.mdv with fault := rec_ } } else s
  s.raise .mdv bit

/-- A cast is running: it has started and has not ended (ADMIT 0b011). -/
def State.castRuns (s : State) : Bool := s.cnd.adm == .running

/-- The sequence of a cold reset goes on: the registers that show what others hold still read their Reset value (R409, log
entry 56). -/
def State.fromCold (s : State) : Bool := s.rst.last == 1 && !s.sys.ready && !s.sys.fail

/-! ## Uncorrectable errors (R227, R228) -/

/-- An uncorrectable error that a unit working for the running cast consumes: the phase stops at the next beat edge
(R227, R311). -/
def State.phaseStop (s : State) : State :=
  if s.castRuns && s.mdv.uncorr.isNone then { s with mdv := { s.mdv with uncorr := some s.bea.count.toNat } } else s

/-- The number of a source in MDV_ERR_LOC. -/
def errSrc : ErrSource → Nat
  | .sheet => 0 | .conductor => 1 | .tier => 2 | .bankCore => 3 | .host => 4 | .scrub => 5 | .link | .foil | .remote => 6
  | .tileStore _ _ | .gbuffer _ _ | .program _ _ => 0 | .bankStore => 3

/-- The unit of a source number that works for the cast, or the host. -/
def srcUnit (n : Nat) : ErrSource :=
  if n = 0 then .sheet else if n = 1 then .conductor else if n = 2 then .tier else if n = 3 then .bankCore
  else if n = 4 then .host else .link

/-- The source works for the running cast: not the host, scrub or a remote requester (R228). -/
def State.castSource (s : State) (e : ErrSource) : Bool := s.castRuns && e != .host && e != .scrub && e != .remote

/-- Fill the error record if none has been held since UNCORR and SCRUBUE were last both zero. -/
def State.errRecord (s : State) (e : UncorrInfo) : State :=
  if !bitAt s.mdv.errLoc 63 || (s.causeOf .mdv &&& 9) == 0 then
    let q := bankParts e.bank
    let loc := putBit 63 true ||| putAt 60 3 (errSrc e.source) ||| putAt 58 2 e.iface.toNat ||| putAt 53 5 q.1
      ||| putAt 48 5 q.2.1 ||| putAt 43 5 q.2.2 ||| putAt 27 16 e.row.toNat ||| putAt 21 6 e.col.toNat
      ||| putAt 11 10 (if e.iface then 0 else e.synd.toNat)
    let ua : Word := match e.uaddr with | some u => putBit 63 true ||| u.setWidth 64 | none => 0
    { s with mdv := { s.mdv with
        errLoc := loc, errPaddr := BitVec.ofNat 64 (bankAddr e.bank e.row.toNat (32 * e.col.toNat)),
        errUaddr := ua, errBeat := s.bea.count } }
  else s

/-- Record an uncorrectable error under R227 or R228. -/
def State.recordUncorr (s : State) (e : UncorrInfo) : State :=
  let s := s.errRecord e
  let s := { s with mdv := { s.mdv with ue := addLo s.mdv.ue 1 } }
  s.raise .mdv (if s.castSource e.source then 0 else 3)

/-- An uncorrectable error is recorded, and stops the phase where a unit of the running cast consumes it; a bank core
stops before its next instruction. -/
def State.meetUncorr (s : State) (e : UncorrInfo) : State :=
  let s := s.recordUncorr e
  if s.castSource e.source then
    let s := s.phaseStop
    if e.source = .bankCore then { s with mdv := { s.mdv with stopCores := e.bank :: s.mdv.stopCores } } else s
  else s

/-- The double error of the column word at address `c`, as `e` meets it in an access at U-address `u`. -/
def State.doubleAt (s : State) (e : ErrSource) (u : Option Nat) (c : Nat) : UncorrInfo :=
  let q := t2Place c
  { source := e, iface := false, bank := q.1, row := BitVec.ofNat 16 q.2.1, col := BitVec.ofNat 6 (q.2.2 / 32),
    synd := s.syndAt c, uaddr := u.map (BitVec.ofNat 48) }

/-! ## The column code on reads and writes (R214, R217) -/

/-- A list without its repetitions. -/
def noDups : List Nat → List Nat
  | [] => []
  | a :: t => if t.contains a then noDups t else a :: noDups t

/-- The column words in error among the addresses of an access, by their first addresses. -/
def State.badCols (s : State) (ps : List Nat) : List Nat :=
  if s.mdv.diff.isEmpty then [] else noDups ((ps.filter (fun p => s.syndAt p != 0)).map (fun p => p / 32 * 32))

/-- A column word whose error cannot be corrected. -/
def State.doubleCol (s : State) (c : Nat) : Bool := readSyndrome (s.syndAt c) == .double

/-- A corrected single-bit error counts in MDV_CE: in BANK for a bank core, in HUB otherwise. -/
def State.countCe (s : State) (e : ErrSource) : State :=
  { s with mdv := { s.mdv with ce := if e = .bankCore then addLo s.mdv.ce 1 else addHi s.mdv.ce 1 } }

/-- A read by `e` meets the column word `c`. -/
def State.noteCol (e : ErrSource) (u : Option Nat) (s : State) (c : Nat) : State :=
  match readSyndrome (s.syndAt c) with
  | .clean => s
  | .single _ => s.countCe e
  | .double => s.meetUncorr (s.doubleAt e u c)

/-- A read by `e` meets the column words of its addresses: single-bit errors are counted, double errors recorded. -/
def State.noteCode (s : State) (e : ErrSource) (u : Option Nat) (ps : List Nat) : State :=
  (s.badCols ps).foldl (State.noteCol e u) s

/-- The 256 data bits of the column word at a canonical address that is a multiple of 32. -/
def State.column (s : State) (p : Nat) : Wide := BitVec.ofNat 256 (leNat (s.bytes p 32))

/-- Correct a single-bit error of a sealed row's column word at address `p` and write the word back. -/
def State.correctColumn (s : State) (p pos : Nat) : State :=
  let w := s.column p
  let w := match dataBitAt pos with | some i => w ^^^ ((1 : Wide) <<< i) | none => w
  s.putRun p (leBytes 32 w.toNat)

/-- The column words in error that a write touches only in part. -/
def State.mergeCols (s : State) (ps : List Nat) : List Nat :=
  (s.badCols ps).filter (fun c => decide ((ps.filter (fun p => p / 32 * 32 == c)).length < 32))

/-- The merge read of a partial write by `e`: a single-bit error is corrected and counted, a double error recorded. -/
def State.mergeCol (e : ErrSource) (u : Option Nat) (s : State) (c : Nat) : State :=
  match readSyndrome (s.syndAt c) with
  | .clean => s
  | .single pos => (s.correctColumn c pos).countCe e
  | .double => s.meetUncorr (s.doubleAt e u c)

/-- Store bytes at listed addresses, in order, as a write by `e` in an access at U-address `u`: a partial write of a column
word with a double error is not made (R214). -/
def State.storeBytes (s : State) (e : ErrSource) (u : Option Nat) (l : List (Nat × Byte)) : State :=
  if s.mdv.diff.isEmpty then s.putBytes l
  else
    let cols := s.mergeCols (l.map (·.1))
    let bad := cols.filter s.doubleCol
    (cols.foldl (State.mergeCol e u) s).putBytes (l.filter (fun q => !bad.contains (q.1 / 32 * 32)))

/-- Store bytes at consecutive canonical addresses as a write by `e`. -/
def State.storeRun (s : State) (e : ErrSource) (p : Nat) (bs : List Byte) : State :=
  s.storeBytes e none (bs.zipIdx.map (fun q => (p + q.2, q.1)))

/-- Some partial column word of a write has a double error. -/
def State.storeBlocked (s : State) (ps : List Nat) : Bool := (s.mergeCols ps).any s.doubleCol

/-! ## Access rules of the hub -/

/-- A hub or host read that meets an unsealed row is served raw; UNSEALED is set, counted and recorded (R217). -/
def State.noteUnsealed (s : State) (src : Nat) (ps : List Nat) : State :=
  match ps.find? s.unsealedAt with
  | none => s
  | some p =>
    let q := t2Place p
    let s := { s with mdv := { s.mdv with ue := addHi s.mdv.ue 1 } }
    s.mdvFault 0x02 src q.1 q.2.1 1

/-- An access through the tier map touches its page (R192) and counts in TMV_TMC as a hit or a miss of the tier-map
cache, which the spec does not decide (log entry 8). -/
def State.touch (s : State) (u : Nat) : State :=
  match s.tmv.map with
  | .running | .held =>
    let hit := Config.cacheHit s.fresh (u / 0x10000)
    { s.drawn with tmv := { s.tmv with
        touch := smPut 0 s.tmv.touch (u / 0x10000) s.bea.count,
        tmc := if hit then addLo s.tmv.tmc 1 else addHi s.tmv.tmc 1 } }
  | _ => s

/-- A read by the hub or the host meets memory at canonical addresses (R217). -/
def State.noteMem (s : State) (e : ErrSource) (u : Option Nat) (ps : List Nat) : State :=
  (s.noteUnsealed (errSrc e) ps).noteCode e u ps

/-- An access through the tier map to `n` bytes from `u` touches every page that it reaches (R192). -/
def State.touchRun (s : State) (u n : Nat) : State :=
  (List.range ((u + n - 1) / 0x10000 - u / 0x10000)).foldl (fun s k => s.touch (0x10000 * (u / 0x10000 + 1 + k))) (s.touch u)

/-- The U-page is in move (R188). -/
def State.inMove (s : State) (k : Nat) : Bool := s.tmv.moving.any (fun m => m.upage == k)

/-- An access to `n` bytes from `u` meets a page in move, and waits (R188). -/
def State.meetsMove (s : State) (u n : Nat) : Bool :=
  !s.tmv.moving.isEmpty && (List.range ((u + n - 1) / 0x10000 + 1 - u / 0x10000)).any (fun i => s.inMove (u / 0x10000 + i))

/-- The lines of T3 among the addresses of a read, in order. -/
def t3Lines (ps : List Nat) : List Nat := noDups ((ps.filter isT3).map (fun p => p / 64 * 64))

/-- The lines of T3 that a write touches only in part: their other bytes are read first (log entry 120). -/
def partLines (ps : List Nat) : List Nat :=
  (t3Lines ps).filter (fun a => decide ((ps.filter (fun p => p / 64 * 64 == a)).length < 64))

/-- The lines of a list that have not been read for `key`, a word or another requester. -/
def State.missing (s : State) (key : Nat) (l : List Nat) : List Nat :=
  l.filter (fun a => !s.lnk.got.any (fun g => g.1 == key && g.2.1 == a))

/-- The word under trial touches `n` bytes from `u`, and reads lines of T3. -/
def State.noteTrial (s : State) (u n : Nat) (lines : List Nat) : State :=
  match s.lnk.trial with
  | none => s
  | some t =>
    let new := (s.missing s.lnk.reading lines).filter (fun a => !t.lines.contains a)
    { s with lnk := { s.lnk with trial := some ⟨t.lines ++ new, t.held || s.meetsMove u n⟩ } }

/-- The line of T3 that holds an address has been refused to the word whose operands are being read (R301). -/
def State.refusedLine (s : State) (p : Nat) : Bool :=
  isT3 p && s.lnk.got.any (fun g => g.1 == s.lnk.reading && g.2.1 == p / 64 * 64 && !g.2.2)

/-- A line of T3 that the slot lies in has been refused to the word. -/
def State.slotRefused (s : State) (u n : Nat) : Bool :=
  !s.lnk.got.isEmpty && ((s.translRun u n).getD []).any s.refusedLine

/-- Read `n` bytes of the U-range for the word; none on a translation fault, or where a target has refused a line. -/
def State.readFor (s : State) (u n : Nat) : Option (List Byte) := if s.slotRefused u n then none else s.readU u n

/-- Note one read of `n` bytes from `u` by the requester `src` (MDV_ERR_LOC.SRC numbers). -/
def State.noteRead (s : State) (src u n : Nat) : State :=
  match s.translRun u n with
  | some ps => ((s.noteMem (srcUnit src) (some u) ps).touchRun u n).noteTrial u n (t3Lines ps)
  | none => s

/-- The word under trial reads `n` bytes from `u`. -/
def State.trialRead (s : State) (u n : Nat) : State :=
  if s.lnk.trial.isNone then s
  else match s.translRun u n with
    | some ps => s.noteTrial u n (t3Lines ps)
    | none => s

/-- A segment covers a U-page. -/
def Segment.covers (g : Segment) (size k : Nat) : Bool :=
  decide (0 < g.count) && decide (g.addr / 0x10000 ≤ k) && decide (0x10000 * k < g.addr + size * g.count)

/-- The U-page belongs to a CCODE, AWORDS, TMAP or MIGR segment of an image (R189). -/
def CastImg.imagePage (c : CastImg) (k : Nat) : Bool :=
  c.ccode.covers 4 k || c.awords.covers 16 k || c.tmap.covers 8 k || c.migr.covers 16 k

/-- The image that is admitted, running or held. -/
def State.theCast (s : State) : Option CastImg :=
  match s.cnd.adm with
  | .admitted => s.staged
  | .running | .held => s.cast
  | _ => none

/-- The U-page is read-only because a cast is admitted or held (R189). -/
def State.readOnlyPage (s : State) (k : Nat) : Bool :=
  match s.theCast with
  | some c => c.imagePage k
  | none => false

/-- The row lies in the window of a STEPABORT's work on the bank (R278). -/
def Bnk.abortWindow (b : Bnk) (bank row : Nat) : Bool :=
  match b.work with
  | some w => w.kind == .abort && w.tasks.any (fun k => k.started && k.bank == bank && decide (k.wrow ≤ row)
      && decide (row < k.wrow + k.wlen))
  | none => false

/-- The row of a bank lies in the working window of the program, or of the STEPABORT's work, that runs on it (R225). -/
def State.inWindow (s : State) (bank row : Nat) : Bool :=
  match (smGet BankCore.idle s.bnk.cores bank).run with
  | some r => decide (r.wrow ≤ row) && decide (row < r.wrow + r.wlen)
  | none => s.bnk.abortWindow bank row

/-- The first of the addresses that lies in a running working window, unless the override is set (R225, R226). -/
def State.windowHit (s : State) (ps : List Nat) : Option Nat :=
  if s.mdv.override then none
  else ps.find? (fun p => isT2 p && (let q := t2Place p; s.inWindow q.1 q.2.1))

/-- The write is refused whole with BNKBUSY (R225). -/
def State.refuseWindow (s : State) (src p : Nat) : State :=
  let q := t2Place p
  s.mdvFault 0x01 src q.1 q.2.1 2

/-- An aperture may be written: WR is set (R300). -/
def State.apWritable (s : State) (p : Nat) : Bool := bitAt (s.aperture ((p - t3Base) / apSize)) 62

/-- TWN_CFG.ALONE acts: set, and the pair is SINGLE (R337). -/
def State.alone (s : State) : Bool := bitAt s.twn.set.current 16 && s.twn.pair == .single

/-- The aperture is one of the twin's, 0 to 29. -/
def twinAp (p : Nat) : Bool := isT3 p && decide ((p - t3Base) / apSize < 30)

/-- How a hub write of the cast ends. -/
inductive Wrote where
  | ok (s : State)
  | fault (u : Nat)

/-- Discard a write into an image page: TMV_CAUSE.IMAGE, and TMV_FAULT code 0x22 with the address and, for a word's write,
its opcode, its SEC and the core (R189, R206). -/
def State.refuseImage (s : State) (opc sec core u : Nat) : State :=
  let t := s.tmv
  let s1 := if recordFree s .tmv (bitAt t.fault 0)
    then ({ s with tmv := { t with fault := faultWord 0x22 opc sec core 1, faultAddr := BitVec.ofNat 64 u } }).filled .tmv
    else s
  s1.raise .tmv 5

/-! ## Sending frames and transactions (R285, R288, R294, R298, R302) -/

/-- This module's domain and node, as DST and SRC carry them (R285). -/
def State.ownId (s : State) : BitVec 18 := fld s.lnk.set.current.id 34 6 ++ fld s.lnk.set.current.id 16 12

/-- Port `p` of the link block. -/
def State.port (s : State) (p : Nat) : Port := s.lnk.ports.toList.getD p Port.off

/-- The state with port `p` replaced. -/
def State.putPort (s : State) (p : Nat) (v : Port) : State :=
  { s with lnk := { s.lnk with ports := s.lnk.ports.set! p v } }

/-- A port carries slots: up, or holding data slots as IDLE during an anneal. -/
def Port.isUp (p : Port) : Bool := p.state == 4 || p.state == 7

/-- A port to which frames are queued: neither off nor down (R288, R294). -/
def Port.joined (p : Port) : Bool := p.state != 0 && p.state != 6

/-- The port code and DATELINE bit for a destination (R294, R295). -/
def State.route (s : State) (dst : BitVec 18) : BitVec 4 × Bool :=
  let l := s.lnk.set.current
  if fld dst 12 6 = fld l.id 34 6 then
    let n := fldN dst 0 12
    let e := smGet 0x0F0F0F0F0F0F0F0F l.rt (n / 8)
    (fld e (8 * (n % 8)) 4, bitAt e (8 * (n % 8) + 5))
  else
    let n := fldN dst 12 6
    (fld (smGet 0xFFFFFFFFFFFFFFFF l.dom (n / 16)) (4 * (n % 16)) 4, false)

/-- A dropped frame counts in LNK_DROP.NOROUTE and sets NOROUTE (R294). -/
def State.dropRoute (s : State) : State :=
  let d := s.lnk.drop
  let s := { s with lnk := { s.lnk with drop := setFld d 32 16 (min (fldN d 32 16 + 1) 0xFFFF) } }
  s.raise .lnk 5

/-- Frames received in order on port `p` and held. -/
def State.heldOn (s : State) (p : Nat) : Nat :=
  ((s.held.filter (fun f => f.port == p)).map (·.count)).foldl (· + ·) 0

/-- The SEQ that the next data frame on port `p` must have. -/
def State.rxNext (s : State) (p : Nat) : BitVec 11 := (s.port p).rxSeq + BitVec.ofNat 11 (s.heldOn p)

/-- The credits that the port gives: the frames taken out of each buffer and the size of the buffer, which the spec does
not state (R287, log entry 116). -/
def Port.grants (q : Port) : List (BitVec 32) := q.tookC.toList.map (fun n => n + BitVec.ofNat 32 Config.rxBuffers)

/-- Send a control slot on port `p` (R287): it closes the group of 39 data slots before it (R374). -/
def State.sendCtrl (s : State) (p : Nat) (stamp : Option (Word × BitVec 32 × Nat)) : State :=
  let q := s.port p
  let pay := ctrlPayload stamp q.gtag q.grants s.ownId (bitAt s.lnk.set.current.id 47)
  let hdr := s.ownId
  let s := s.putPort p { q with group := [], ctrls := q.ctrls + 1 }
  let h : FrameHdr := { idleHdr with src := hdr, len := 2 }
  { s with lnk := { s.lnk with wire := s.lnk.wire ++ [(p, frameSlot 1 h pay)] } }.emit (.ctrl p pay)

/-- The other end has a buffer free for a frame of a channel: the frames sent have not reached its credits (R287). -/
def Port.credited (q : Port) (c : Nat) : Bool :=
  let left := (q.credits.getD c 0 - q.sentC.toList.getD c 0).toNat
  decide (0 < left) && decide (left < 2 ^ 31)

/-- A frame may leave port `p` now: data slots flow, the other end has a buffer for it, and LNK_FN is not STOPPED and
the module does not rest in PS2, host control on P7 excepted (R287, R292, R297, R388). -/
def State.maySend (s : State) (p : Nat) (f : OutFrame) : Bool :=
  let q := s.port p
  q.state == 4 && q.credited (channelOf f.type f.h.vch) && ((!s.stopped .lnk && s.sys.ps != 2) || (p == 7 && classOf f.type == 3))

/-- A data frame leaves port `p`: it takes the next SEQ, is kept for replay among the last 1,024, and its ACK names the
last SEQ received in order (R285, R288). After 39 data slots a control slot follows (R283). -/
def State.transmit (s : State) (p : Nat) (f : OutFrame) : State :=
  let q := s.port p
  let c := channelOf f.type f.h.vch
  let h := { f.h with seq := q.txSeq, ack := s.rxNext p - 1 }
  let sent := q.sealPayload f.payload
  let kept := q.replay ++ [⟨q.txSeq, f.type, h, f.payload, sent⟩]
  let q := { q with txSeq := q.txSeq + 1, replay := kept.drop (kept.length - 1024), busy := true,
                    sentC := q.sentC.set! c (q.sentC.toList.getD c 0 + 1) }
  let s := (s.putPort p (q.inGroup f.type h sent)).emit (.frame p f.type h f.payload)
  let s : State := { s with lnk := { s.lnk with wire := s.lnk.wire ++ [(p, frameSlot f.type h sent)] } }
  if 39 ≤ (s.port p).group.length then s.sendCtrl p none else s

/-- The first queued frame that may leave among those not behind another of their channel; with it the rest. -/
def State.nextOut (s : State) (p : Nat) (stuck : List Nat) : List OutFrame → Option (OutFrame × List OutFrame)
  | [] => none
  | f :: t =>
    let c := channelOf f.type f.h.vch
    if !stuck.contains c && s.maySend p f then some (f, t)
    else (s.nextOut p (c :: stuck) t).map (fun q => (q.1, f :: q.2))

/-- Send what may leave port `p`, up to `n` frames. -/
def State.drainN (s : State) (p : Nat) : Nat → State
  | 0 => s
  | n + 1 =>
    match s.nextOut p [] (s.port p).out with
    | some (f, rest) => ((s.putPort p { s.port p with out := rest }).transmit p f).drainN p n
    | none => s

/-- Send what may leave port `p`. -/
def State.drain (s : State) (p : Nat) : State := s.drainN p (s.port p).out.length

/-- Send what may leave any port. -/
def State.drainAll (s : State) : State := (List.range 8).foldl State.drain s

/-- Queue a data frame to a port and send what may leave it (R294, R297). -/
def State.sendOn (s : State) (p : Nat) (type : BitVec 4) (h : FrameHdr) (payload : List Byte) : State :=
  let q := s.port p
  (s.putPort p { q with out := q.out ++ [⟨type, h, payload⟩] }).drain p

/-- The header of a frame that this module originates. -/
def State.ownHdr (s : State) (dst : BitVec 18) (tag : Nat) (off len : Nat) (last : Bool) : FrameHdr :=
  { vch := false, seq := 0, ack := 0, dst := dst, src := s.ownId, tag := BitVec.ofNat 13 tag,
    off := BitVec.ofNat 7 off, len := BitVec.ofNat 4 len, hops := 0, last := last }

/-- The payload of a HOST frame (R367). -/
def hostPayload (op status : Nat) (addr : Word) (arg data : List Byte) : List Byte :=
  [BitVec.ofNat 8 op, BitVec.ofNat 8 status] ++ leBytes 2 data.length ++ leBytes 4 0 ++ leBytes 8 addr.toNat
    ++ padTo 48 arg ++ padTo 448 data

/-- Send a HOST frame on P7 in answer to the request with number `req`, whose TAG it repeats, or as an ATTN frame, with
TAG and DST zero (R367). What the card put into the TAG of a request no command carries: it is a free value (log
entry 47). -/
def State.hostFrame (s : State) (req : Option Nat) (m : HostMsg) : State :=
  let tag : Nat := match req with | some n => (Config.hostTag n).toNat | none => 0
  s.sendOn 7 12 (s.ownHdr 0 tag m.off 8 m.last) (hostPayload m.op m.status m.addr m.arg m.data)

/-- Send the answers that no earlier request keeps back. -/
def State.flushAnswers (s : State) : List Answer → State
  | [] => { s with sec := { s.sec with answers := [] } }
  | a :: t =>
    if a.awaits.isSome then { s with sec := { s.sec with answers := a :: t } }
    else (a.msgs.foldl (fun s m => s.hostFrame (some a.req) m) s).flushAnswers t

/-- An answer, or the place of one, in the order of the requests (R368). -/
def State.pushAnswer (s : State) (w : Option Awaited) (l : List HostMsg) : State :=
  s.flushAnswers (s.sec.answers ++ [⟨s.sec.reqs, w, l⟩])

/-- What a request has waited for has come. -/
def State.lateAnswer (s : State) (w : Awaited) (l : List HostMsg) : State :=
  s.flushAnswers (s.sec.answers.map (fun a => if a.awaits = some w then { a with awaits := none, msgs := l } else a))

/-- An answer in one frame. -/
def oneFrame (op status : Nat) (addr : Word) (arg data : List Byte) : List HostMsg := [⟨op, status, addr, 0, true, arg, data⟩]

/-- Answer the request of the host that has just arrived in one frame (R367, R368). -/
def State.respond (s : State) (op status : Nat) (addr : Word) (arg data : List Byte) : State :=
  s.pushAnswer none (oneFrame op status addr arg data)

/-- Queue a frame to a port, or drop it where the port is off or down (R294). -/
def State.sendPort (s : State) (p : Nat) (type : BitVec 4) (h : FrameHdr) (payload : List Byte) : State :=
  if (s.port p).joined then s.sendOn p type h payload else s.dropRoute

/-- The frame is for this module: its DST is this module's node, and the module holds one (R294). -/
def State.isOwn (s : State) (dst : BitVec 18) : Bool := dst == s.ownId && !bitAt s.lnk.set.current.id 47

/-- Send a data frame to a destination by the tables, or drop it (R294). One for the module itself goes through port L,
whatever the tables say of its own node. -/
def State.sendTo (s : State) (type : BitVec 4) (h : FrameHdr) (payload : List Byte) : State :=
  if s.isOwn h.dst then s.emit (.frame 8 type h payload)
  else
    let r := (s.route h.dst).1.toNat
    if r ≤ 5 ∨ r = 7 then s.sendPort r type h payload else s.dropRoute

/-- Send a frame of a transaction through the aperture of a T3 address: by the tables to a peer, on P7 to the host
pool, on P6 to the twin (R298). -/
def State.sendAp (s : State) (p : Nat) (type : BitVec 4) (tag off : Nat) (last : Bool) (payload : List Byte) : State :=
  let e := s.aperture ((p - t3Base) / apSize)
  let h := s.ownHdr (fld e 42 18) tag off ((payload.length + 63) / 64) last
  match fldN e 60 2 with
  | 0 => s.sendTo type h payload
  | 1 => s.sendPort 7 type h payload
  | _ => s.sendPort 6 type h payload

/-- The remote address of a T3 address: (RBASE << 16) + offset in the aperture (R298). -/
def State.remoteAddr (s : State) (p : Nat) : Nat :=
  0x10000 * fldN (s.aperture ((p - t3Base) / apSize)) 13 29 + (p - t3Base) % apSize

/-- The 16 bytes that open an RREQ or WREQ (R302). -/
def reqHead (addr len : Nat) : List Byte := leBytes 8 addr ++ leBytes 4 len ++ leBytes 4 0

/-- The data frames of a transfer: 512 bytes each, OFF ascending, LAST on the final one (R302). -/
def State.sendData (s : State) (p : Nat) (type : BitVec 4) (tag : Nat) (off : Nat) : Nat → List Byte → State
  | 0, _ => s
  | n + 1, bs =>
    (s.sendAp p type tag off (decide (n = 0)) (bs.take 512)).sendData p type tag (off + 1) n (bs.drop 512)

/-- The first TAG of `n` from `t` on that `free` allows. -/
def tagFrom (free : Nat → Bool) (t : Nat) : Nat → Option Nat
  | 0 => none
  | n + 1 => if free t then some t else tagFrom free ((t + 1) % 8192) n

/-- The TAG of the next transaction, if fewer than 8,192 are pending: the next one that is not pending, one that no
abandoned transaction held where there is such a one (R303). -/
def State.freeTag (s : State) : Option Nat :=
  let l := s.lnk
  let free (t : Nat) : Bool := !l.trans.any (fun x => x.tag == t)
  (tagFrom (fun t => free t && !l.abandoned.contains t) (l.nextTag % 8192) 8192).or
    (tagFrom free (l.nextTag % 8192) 8192)

/-- A read that overlaps a 64-byte line of a write still awaiting its WACK is never sent (R302). -/
def State.readBarred (s : State) (t : Transaction) : Bool :=
  !t.write && s.lnk.trans.any (fun x => x.write && decide (t.paddr < x.paddr + x.len) && decide (x.paddr < t.paddr + t.len))

/-- A transaction takes a TAG and its request is sent; a write's data follows it (R302). -/
def State.sendTrans (s : State) (t : Transaction) (tag : Nat) : State :=
  let s := { s with lnk := { s.lnk with
      trans := s.lnk.trans ++ [{ t with tag := tag }]
      nextTag := (tag + 1) % 8192
      abandoned := s.lnk.abandoned.erase tag } }
  let s := s.sendAp t.paddr (if t.write then 4 else 2) tag 0 true (padTo 64 (reqHead (s.remoteAddr t.paddr) t.len))
  if t.write then s.sendData t.paddr 5 tag 0 ((t.len + 511) / 512) (s.bytes t.paddr t.len) else s

/-- Send the stalled transactions of a list in order, up to the first that may not be sent yet: fewer than 8,192 are
pending, and no write bars it (R302, R303). -/
def State.pumpList (s : State) : List Transaction → State
  | [] => { s with lnk := { s.lnk with stalled := [] } }
  | t :: l =>
    match s.freeTag with
    | some tag =>
      if s.readBarred t then { s with lnk := { s.lnk with stalled := t :: l } } else (s.sendTrans t tag).pumpList l
    | none => { s with lnk := { s.lnk with stalled := t :: l } }

/-- Send the stalled transactions that may be sent. -/
def State.pump (s : State) : State := s.pumpList s.lnk.stalled

/-- Make a transaction (R298, R302); it is sent in its turn. -/
def State.startTrans (s : State) (write : Bool) (p len : Nat) (who : Requester) : State :=
  let l := s.lnk
  let t : Transaction := ⟨0, write, p, len, 0, s.bea.count, false, who, l.nextId⟩
  { s with lnk := { l with stalled := l.stalled ++ [t], nextId := l.nextId + 1 } }.pump

/-- The runs of consecutive T3 addresses, cut where an aperture ends. -/
def t3Runs : List Nat → List (Nat × Nat)
  | [] => []
  | p :: t =>
    match t3Runs t with
    | (q, n) :: r => if p + 1 = q ∧ q % apSize ≠ 0 then (p, n + 1) :: r else (p, 1) :: (q, n) :: r
    | [] => [(p, 1)]

/-- A transaction reads the line for a word or another requester already. -/
def State.fetching (s : State) (seq line : Nat) : Bool :=
  (s.lnk.trans ++ s.lnk.stalled).any (fun t => t.who == .fetch seq && decide (t.paddr ≤ line) && decide (line < t.paddr + t.len))

/-- Read lines of T3 for a word or another requester, each run of them by one transaction (R298, R302). -/
def State.fetch (s : State) (seq : Nat) (lines : List Nat) : State :=
  (t3Runs ((lines.filter (fun a => !s.fetching seq a)).flatMap (fun a => (List.range 64).map (a + ·)))).foldl
    (fun s r => s.startTrans false r.1 r.2 (.fetch seq)) s

/-- The requester number of the Conductor, beyond those of words. -/
def conductorKey : Nat := 2 ^ 64
/-- The requester number of the host. -/
def hostKey : Nat := 2 ^ 64 + 1

/-- What has been read for a requester is forgotten. -/
def State.forget (s : State) (key : Nat) : State :=
  { s with lnk := { s.lnk with got := s.lnk.got.filter (fun g => g.1 != key) } }

/-- A line of a list has been refused to a requester. -/
def State.refusedTo (s : State) (key : Nat) (l : List Nat) : Bool :=
  s.lnk.got.any (fun g => g.1 == key && !g.2.2 && l.contains g.2.1)

/-- A store to T3 is a write transaction over the 64-byte lines that each of its runs touches, with the bytes as they now
stand. -/
def State.sendStore (s : State) (who : Requester) (ps : List Nat) : State :=
  (t3Runs (ps.filter isT3)).foldl (fun s r =>
    let a := r.1 / 64 * 64
    s.startTrans true a ((r.1 + r.2 + 63) / 64 * 64 - a) who) s

/-! ## Writes of the cast (R187, R189, R225, R300, R337) -/

/-- A write to this P-address completes at once and is discarded: a twin aperture, while ALONE acts (R337). -/
def State.dropsWrite (s : State) (p : Nat) : Bool := s.alone && twinAp p

/-- An access by the cast to U-address `u` is a translation fault: no page, no place, a closed aperture, which a write
under ALONE does not meet. -/
def State.lostU (s : State) (write : Bool) (u : Nat) : Bool :=
  match s.paddr u with
  | some p => (s.canon p).isNone && !(write && s.dropsWrite p)
  | none => true

/-- The first U-address of a range whose access faults, if any. -/
def State.firstLost (s : State) (write : Bool) (u n : Nat) : Option Nat :=
  ((List.range (n / 0x10000 + 2)).map (fun k => max u (0x10000 * (u / 0x10000 + k)))).find?
    (fun a => decide (a < u + n) && s.lostU write a)

/-- The canonical addresses that `n` bytes written from `u` go to, none for one that is discarded; none if a byte
faults. -/
def State.writeRun (s : State) (u n : Nat) : Option (List (Option Nat)) :=
  let ps := s.pagesAt u n
  (List.range n).mapM (fun i =>
    match ps.getD ((u + i) / 0x10000 - u / 0x10000) none with
    | some p => let q := p + (u + i) % 0x10000; if s.dropsWrite q then some none else (s.canon q).map some
    | none => none)

/-- The opcode and the SEC of the word that makes an access; zero for another requester. -/
def State.wordOf (s : State) : Requester → Nat × Nat
  | .word seq _ =>
    match s.sheet.issued.find? (fun w => w.seq == seq) with
    | some w => (w.opc.toNat, if w.secs = 3 then 0 else if w.secs = 4 then 3 else w.secs.toNat)
    | none => (0, 0)
  | _ => (0, 0)

/-- One slot write of a mover or hub unit at U-address `u`, by requester `src` for a core (0x3FF for none): it faults on an
untranslated byte or a read-only aperture; it is discarded whole in an image page or in a running working window; the
bytes that go through a twin aperture under ALONE are discarded; the others are stored. -/
def State.writeU (s : State) (who : Requester) (src core u : Nat) (bs : List Byte) : Wrote :=
  match s.writeRun u bs.length with
  | none => .fault ((s.firstLost true u bs.length).getD u)
  | some ds =>
    let l := (ds.zip bs).filterMap (fun q => q.1.map (fun p => (p, q.2)))
    let ps := l.map (·.1)
    if ps.any (fun p => isT3 p && !s.apWritable p) then .fault u
    else
      let s := if ds.all Option.isSome then s else { s with twn := { s.twn with refused := addHi s.twn.refused 1 } }
      if s.readOnlyPage (u / 0x10000) || s.readOnlyPage ((u + bs.length - 1) / 0x10000) then
        let w := s.wordOf who
        .ok (s.refuseImage w.1 w.2 core u)
      else match s.windowHit ps with
        | some p => .ok ((s.refuseWindow src p).touchRun u bs.length)
        | none => .ok ((((s.storeBytes (srcUnit src) (some u) l).touchRun u bs.length).noteTrial u bs.length (partLines ps)).sendStore who ps)

end Sys2Proof.Machine
end

