-- ==== Sys2Proof/Machine/Load.lean ====
section
/-! DEFINITION. What takes effect when a cast is loaded at its start beat (R41, R58, R85, R239). -/

namespace Sys2Proof.Machine

/-- The Conductor at a start beat (R58). -/
def Cnd.started (c : Cnd) (i : CastImg) : Cnd :=
  { c with adm := .running, why := 0, ending := 0, mould := BitVec.ofNat 12 i.firstMould, part := 1, past := false, prior := true,
           pc := BitVec.ofNat 24 ((i.moulds[i.firstMould]?.map (·.code)).getD 0), step := i.firstStep,
           mentry := c.run, quench := false, g := Vector.replicate 32 0, sm := Vector.replicate 16 0,
           deliv := [], loops := [], wait := .none, fresh := 7 }

/-- The Sheet at a start beat: the partition is unified, and waits count from the start beat (R85, R42). -/
def Sheet.started (h : Sheet) (run : Word) : Sheet :=
  let t := h.set
  { h with set := { t with staged := { t.staged with part := 1 }, current := { t.current with part := 1 } },
           qF := [], qB := [], qH := [], issued := [], lastF := run, lastB := run, lastH := run, holdF := none,
           holdB := none, holdH := none, sbars := [], fbars := [], switch := none, writers := [] }

/-- A table put at consecutive keys. -/
def tableOf {α : Type} [DecidableEq α] (d : α) (l : List α) : SMap α := smPutRun d [] 0 l

/-- The codebooks of an image, by 256 × number + index (R114). -/
def CastImg.books (c : CastImg) : SMap (BitVec 16) := tableOf 0 c.fmtt.flatten

/-- The bank cores hold no program range at a start beat (R239). -/
def Bnk.started (b : Bnk) (c : CastImg) : Bnk :=
  { b with loaded := c.bprog.length, launches := [],
           cores := smMap BankCore.idle (fun c => { c with held := none, run := none }) b.cores }

/-- The staged copies take effect together (R41). -/
def State.loadCast (s : State) (c : CastImg) : State :=
  let s := { s with
    staged := none, cast := some c, cnd := s.cnd.started c, sheet := s.sheet.started s.cnd.run
    fmt := { s.fmt with fp32acc := bitAt c.flags 1, loaded := BitVec.ofNat 4 (2 ^ c.fmtt.length - 1), books := c.books }
    vec := { s.vec with loaded := c.eprog.length, prog := tableOf 0 c.eprog }
    tmv := { s.tmv with map := .running, queue := [], touch := [] }
    tir := { s.tir with quota := c.quota, peak := [], slots := c.slots, lastAdm := s.tir.lastAdm &&& 0xFFF3FFFFFFFFFFFF,
                        loaded := true }
    mdv := { s.mdv with uncorr := none, stopCores := [] }
    bnk := s.bnk.started c
    fol := { s.fol with insts := [], counts := [] } }
  s.putRun descBase (c.desc.flatMap (fun d => leBytes 32 d.toNat))

end Sys2Proof.Machine
end

