-- ==== Sys2Proof/Machine/Cores.lean ====
section
/-! DEFINITION. Where the cores are (R3, R84, R400): logical rows and columns, the cores of a section, quarters, and
the physical place of a logical core. -/

namespace Sys2Proof.Machine

/-- A section of the Sheet as a word names it: the whole Sheet (or both sections of a split Sheet jointly), F, B. -/
inductive Sect where
  | sheet | f | b
  deriving DecidableEq, Repr

/-- The section that a SEC field names; 0b11 names the hub. -/
def sectOf (sec : BitVec 2) : Sect := if sec = 1 then .f else if sec = 2 then .b else .sheet

/-- The first Sheet row of a section and its number of rows (R84). -/
def State.sectRows (s : State) : Sect → Nat × Nat
  | .sheet => (0, s.sizRows)
  | .f => (0, s.sizBstart)
  | .b => (s.sizBstart, s.sizRows - s.sizBstart)

/-- A core as a word sees it (R84): logical index c, section row r, column k, section index s. -/
structure CoreAt where
  c : Nat
  r : Nat
  k : Nat
  i : Nat
  deriving DecidableEq, Repr

/-- The core with section index `i`. -/
def State.coreAt (s : State) (t : Sect) (i : Nat) : CoreAt :=
  { c := (s.sectRows t).1 * 36 + i, r := i / 36, k := i % 36, i := i }

/-- The number of cores of a section. -/
def State.sectCores (s : State) (t : Sect) : Nat := (s.sectRows t).2 * 36

/-- The cores of a section below a core limit, in ascending section index (R97). -/
def State.coresOf (s : State) (t : Sect) (limit : Nat) : List CoreAt :=
  (List.range (min limit (s.sectCores t))).map (s.coreAt t)

/-- The number of the fenced quarter, if one is fenced. -/
def fenceQuarter (active : BitVec 4) : Option Nat := (List.range 4).find? (fun q => bitAt active q)

/-- The physical row and column of logical row `r`, column `k` (R400). -/
def physPlace (active : BitVec 4) (r k : Nat) : Nat × Nat :=
  match fenceQuarter active with
  | none => (r, k)
  | some q =>
    let partner := if q % 2 = 0 then q + 1 else q - 1
    let row0 := if partner < 2 then 0 else 12
    let col0 := if partner % 2 = 0 then 0 else 18
    if 6 ≤ r then ((if q < 2 then 12 else 0) + r - 6, k)
    else (row0 + 2 * r + k / 18, col0 + k % 18)

/-- The quarter of a physical place. -/
def quarterAt (p : Nat × Nat) : Nat := (if p.1 < 12 then 0 else 2) + (if p.2 < 18 then 0 else 1)

/-- The physical number of logical core `c`. -/
def State.physCore (s : State) (c : Nat) : Nat :=
  let p := physPlace s.rst.active (c / 36) (c % 36)
  p.1 * 36 + p.2

/-- The quarter of physical core `p`. -/
def quarterOf (p : Nat) : Nat := quarterAt (p / 36, p % 36)

/-- The physical core lies in a fenced quarter. -/
def State.fencedCore (s : State) (p : Nat) : Bool := bitAt s.rst.active (quarterOf p)

end Sys2Proof.Machine
end

