-- ==== Sys2Proof/Machine/Flags.lean ====
section
/-! DEFINITION. The sticky floating-point flags as registers and summaries show them (R234, R245, R251). The flags that an
operation raises are computed with its result, in Fp32.lean, Formats.lean and Bank.lean. -/

namespace Sys2Proof.Machine

/-- OR two sets of flags. -/
def FpFlags.or (a b : FpFlags) : FpFlags := ⟨a.nv || b.nv, a.dz || b.dz, a.of || b.of, a.uf || b.uf, a.nf || b.nf⟩

/-- Flags as BNK_FLAGS and the launch summary show them: NF, 0, UF, OF, DZ, NV from bit 5 (R245, R251). -/
def FpFlags.bits (f : FpFlags) : BitVec 6 :=
  let b (n : Nat) (c : Bool) : BitVec 6 := if c then BitVec.ofNat 6 (2 ^ n) else 0
  b 0 f.nv ||| b 1 f.dz ||| b 2 f.of ||| b 3 f.uf ||| b 5 f.nf

end Sys2Proof.Machine
end

