-- ==== Sys2Proof/Machine/Stop.lean ====
section
/-! DEFINITION. What ends work: the step records (R345), the destinations a stop leaves undefined (R79, R228), the
quench of the array (R79, R199, R245, R325) and the end of a cast (R200). -/

namespace Sys2Proof.Machine

/-! ## Step records (R345, R347) -/

/-- Open a step record in the beat in progress. The reasons' STEP counts restart (R363). -/
def State.openRecord (s : State) : State :=
  let flags : Word := if s.twn.recov = 0 then 0 else 2
  let z : Vector Word 16 := Vector.replicate 16 0
  let cur := ((z.set 0 (s.cnd.step &&& 0x7FFFFFFFFFFFFFFF)).set 1 s.bea.count).set 11 flags
  { s with tim := { s.tim with opened := true, cur := cur },
           pwr := { s.pwr with thrStep := Vector.replicate 7 0 } }

/-- Close the open record with the flag of the reason set, and open the next one in the same beat (R345). -/
def State.closeRecord (s : State) (flag : Word) : State :=
  if s.tim.opened then
    let cur := (s.tim.cur.set 2 s.bea.count).set 11 (s.tim.cur[11] ||| flag)
    let k := s.tim.closed.toNat % 64
    ({ s with tim := { s.tim with ring := smPut [] s.tim.ring k cur.toList,
                                  closed := s.tim.closed + 1 } }).openRecord
  else s

/-- Add to one word of the open record. -/
def State.countRecord (s : State) (w : Fin 16) (n : Nat) : State :=
  if s.tim.opened then
    { s with tim := { s.tim with cur := s.tim.cur.set w (s.tim.cur[w] + BitVec.ofNat 64 n) } }
  else s

/-! ## Undefined destinations -/

/-- A place whose content a stop leaves undefined takes a free value (log entry 7): a byte of memory, or, from 2^48
upward, a G-buffer header. -/
def State.spoilAt (s : State) (a : Nat) : State :=
  if a < 2 ^ 48 then s.putByte a (Config.freeByte s.fresh a)
  else { s.drawn with headers := smPut 0 s.headers (a - 2 ^ 48) (Config.freeWord s.fresh) }

/-- A run of places that a stop leaves undefined. -/
def State.spoilRun (s : State) (a : Nat) : Nat → State
  | 0 => s
  | n + 1 => (s.spoilAt a).spoilRun (a + 1) n

/-- Every run of a list. -/
def State.spoil (s : State) : List (Nat × Nat) → State
  | [] => s
  | r :: t => (s.spoilRun r.1 r.2).spoil t

/-- Put an address in front of a list of runs. -/
def consRun (p : Nat) : List (Nat × Nat) → List (Nat × Nat)
  | (a, n) :: t => if p + 1 = a then (p, n + 1) :: t else (p, 1) :: (a, n) :: t
  | [] => [(p, 1)]

/-- Addresses as runs. -/
def consRuns (ps : List Nat) : List (Nat × Nat) := ps.foldr consRun []

/-- What is written while an uncorrectable error awaits its stop is undefined (R228). -/
def State.unsettled (s : State) (l : List (Nat × Nat)) : State := if s.mdv.uncorr.isSome then (s.spoil l).drawn else s

/-! ## The quench -/

/-- Swarf and ramp at rest (R358). -/
def Pwr.noSwarf (p : Pwr) : Pwr :=
  { p with swarf := Vector.replicate 2 .off, swarfRate := Vector.replicate 8 0,
           rampRate := Vector.replicate 8 64 }

/-- Swarf is being formed and has not been counted. -/
def Pwr.swarfing (p : Pwr) : Bool := p.swarf.toList.any (fun x => x == .holding || x == .decaying)

/-- The products that swarf has formed count; their number depends on clocks, and is free (R359, log entry 7). -/
def State.countSwarf (s : State) : State :=
  let n := (Config.freeWord s.fresh).toNat
  { s.drawn with pwr := { s.pwr with swarfCnt := sat64 (s.pwr.swarfCnt.toNat + n) } }

/-- Swarf and ramps end at once (R358). -/
def State.endSwarf (s : State) : State :=
  let t := if s.pwr.swarfing then s.countSwarf else s
  { t with pwr := t.pwr.noSwarf }

/-- A bank core whose program stops where it stands, between two instructions (R245). Its store keeps the range last
loaded into it (R239). -/
def BankCore.stopped (c : BankCore) : BankCore :=
  { c with run := none, inbox := [], flight := [], serving := none }

/-- The launch has no program left to start. -/
def Launch.allStarted (l : Launch) : Bool := l.progs.all (fun p => p.state != .pending)

/-- The chain words of a set of launches that no program has taken. -/
def Bnk.leftWords (b : Bnk) (seqs : List Nat) : Nat :=
  (b.cores.map (fun e => ((e.2.inbox ++ e.2.flight).filter (fun q => seqs.contains q.1)).length)).foldl (· + ·) 0

/-- Every bank program stops and every launch is dropped (R245, R246). The programs that ran have ended, and with them
the launches that had nothing pending. -/
def Bnk.stopAll (b : Bnk) : Bnk :=
  let ran := b.cores.filter (fun e => e.2.run.isSome)
  let done := (b.launches.filter (fun l => !l.done && l.allStarted)).map (·.seq)
  { b with launches := [], work := none, cores := smMap BankCore.idle BankCore.stopped b.cores,
           flags := ran.foldl (fun f e => f ||| e.2.flags.bits) b.flags,
           done := addLo (addHi b.done ran.length) done.length,
           chain := addLo b.chain (b.leftWords done) }

/-- The number of mirror images on their way when a TMIRROR is cut. -/
def Twn.outstanding (t : Twn) : Nat := (t.jobs.map (fun j => j.tags.length)).foldl (· + ·) 0

/-- The mirror images and control transfers of this module in flight (R330). -/
def Twn.inFlight (t : Twn) : Nat := t.outstanding + t.digest.isSome.toNat + t.verify.isSome.toNat

/-- The twin words under way are dropped; their images count as abandoned (R346). -/
def Twn.cut (t : Twn) : Twn :=
  { t with jobs := [], digest := none, verify := none, hold := none,
           refused := addHi t.refused t.outstanding }

/-- The instance has started and is neither complete nor abandoned. -/
def Inst.inFlight (i : Inst) : Bool := i.started && !i.abandoned

/-- The instances in flight are abandoned and counted (R325); what is not started and not abandoned is `keep`t or
dropped. -/
def Fol.abandon (f : Fol) (keep : Bool) : Fol :=
  let n := (f.insts.filter Inst.inFlight).length
  { f with insts := (f.insts.filter (fun i => keep || i.started || i.abandoned)).map (fun (i : Inst) =>
             if i.started then { i with abandoned := true } else i)
           coll := setFld f.coll 48 16 (min (fldN f.coll 48 16 + n) 0xFFFF) }

/-- A stop abandons the instances in flight and drops what waits for an instance to start (R325). -/
def Fol.cut (f : Fol) : Fol := { f.abandon false with held := [] }

/-- The instances in flight. -/
def Fol.flying (f : Fol) : Nat := (f.insts.filter Inst.inFlight).length

/-- STOP of FOL_FN takes effect when no instance is in flight (R328). -/
def State.folRest (s : State) : State :=
  if s.fnState .fol == .stopping && decide (s.fol.flying = 0) then s.setFnState .fol .stopped else s

/-- STOP of ARY_FN takes effect when no issued word is left in F or B. A partition switch stops the Sheet by itself. -/
def State.aryRest (s : State) : State :=
  if s.fnState .ary == .stopping && s.sheet.switch.isNone && s.sheet.issued.all (fun w => w.secs &&& 3 == 0) then
    s.setFnState .ary .stopped
  else s

/-- STOP of TMV_FN takes effect when no page move is in progress. -/
def State.tmvRest (s : State) : State :=
  if s.fnState .tmv == .stopping && s.tmv.moving.isEmpty then s.setFnState .tmv .stopped else s

/-- Queued words, issued words, barriers and the partition switch are gone. -/
def Sheet.cut (h : Sheet) : Sheet :=
  { h with qF := [], qB := [], qH := [], issued := [], holdF := none, holdB := none, holdH := none,
           sbars := [], fbars := [], switch := none, writers := [] }

/-- The canonical address of a G-buffer tile: T0 offset 0x80000 of its core. -/
def gBase (c t : Nat) : Nat := 0x100000 * c + 0x80000 + 0x4000 * t

/-- The key of a tile header. -/
def hdrKey (c t : Nat) : Nat := c * 32 + t

/-- The places of a tile, its header included, as destinations (R79). -/
def accDests (c t : Nat) : List (Nat × Nat) := [(gBase c t, 16384), (2 ^ 48 + hdrKey c t, 1)]

/-- The G-buffer tiles of a pass that may be open: tiles of B-section cores that hold sums, in the split partition. The module
keeps no record of passes (R255, R257; log entry 131). -/
def State.passDests (s : State) : List (Nat × Nat) :=
  if s.sheet.set.current.part = 2 then
    (s.headers.filter (fun e => decide (hdrKey (36 * s.sizBstart) 0 ≤ e.1) && !bitAt e.2 51)).flatMap
      (fun e => accDests (e.1 / 32) (e.1 % 32))
  else []

/-- An open pass is cut short: its tiles are undefined (R257). -/
def State.cutPass (s : State) : State := if s.passDests.isEmpty then s else (s.spoil s.passDests).drawn

/-- The transaction reads the source of a page move in progress, which completes (R199, log entry 118). -/
def State.movesPage (s : State) (t : Transaction) : Bool :=
  match t.who with
  | .word _ .tmv => !t.write && s.tmv.moving.any (fun m => m.src == t.paddr / 0x10000)
  | _ => false

/-- A host access that is abandoned is answered with ADDR (log entry 118). -/
def State.dropHost (s : State) (t : Transaction) : State :=
  match t.who with
  | .host op addr id ps =>
    s.lateAnswer (.access id) (oneFrame op.toNat 4 addr [] (if t.write then [] else List.replicate ps.length 0))
  | _ => s

/-- The pending transactions are abandoned: what still answers them is discarded (R303). -/
def State.cutTrans (s : State) : State :=
  let l := s.lnk
  let gone (t : Transaction) : Bool := !s.movesPage t
  let t := { s with lnk := { l with
      abandoned := l.abandoned ++ (l.trans.filter gone).map (·.tag)
      trans := l.trans.filter s.movesPage, stalled := l.stalled.filter s.movesPage, got := [] } }
  ((l.trans ++ l.stalled).filter gone).foldl State.dropHost t

/-- Every queued word is discarded and every issued word stops, its destinations undefined; queued page moves are
discarded and those in progress complete (R79, R199). The pending counts fall with the words (log entry 20). -/
def State.cutWords (s : State) : State :=
  let flying := (s.fol.insts.filter Inst.inFlight).flatMap (·.dests)
  let s := (s.spoil (s.sheet.issued.flatMap (·.dests) ++ flying)).drawn.cutPass
  let s := { s with sheet := s.sheet.cut,
                    cnd := { s.cnd with deliv := [], wait := .none },
                    tmv := { s.tmv with queue := [] },
                    bnk := s.bnk.stopAll, twn := s.twn.cut, fol := s.fol.cut }
  s.endSwarf.cutTrans.folRest

/-- A slot none of whose buffers is in use (R205). -/
def Slot.idle (t : Slot) : Slot := { t with valid := false, inUse := false }

/-- The cast ends with WHY `why` (R200, R205, R85): the Conductor and the Sheet are STOPPED, the cast is held, no slot
buffer stays in use, no page move is queued, and the step record closes with ENDED. -/
def State.endCast (s : State) (why : BitVec 4) : State :=
  let s : State := (s.setFnState .cnd .stopped).setFnState .ary .stopped
  let s := { s with cnd := { s.cnd with adm := .held, why := why, ending := 0, wait := .none, loops := [] },
                    tmv := { s.tmv with map := .held, queue := [] },
                    tir := { s.tir with slots := s.tir.slots.map Slot.idle } }
  s.closeRecord 8

/-- The quench at a beat edge (R79): it has no effect unless a cast runs, is stopping, or stands stopped by STOP. -/
def State.quenchNow (s : State) : State :=
  let s := { s with cnd := { s.cnd with quench := false } }
  if s.castRuns then (s.cutWords.endCast 5).raise .cnd 10 else s

/-- The stop after an uncorrectable error at a beat edge (R227, R80). -/
def State.uncorrNow (s : State) : State :=
  if s.castRuns then (s.cutWords.endCast 6).raise .cnd 9 else s

/-- An admission that is in progress or awaits its start beat is cancelled (R78). -/
def State.cancelAdmission (s : State) : State :=
  { s with staged := none, cnd := { s.cnd with adm := .idle }, tmv := { s.tmv with map := .load } }

end Sys2Proof.Machine
end

