-- ==== Sys2Proof/Machine/Power.lean ====
section
/-! DEFINITION. Power, Temper and Clocks (chapter 16): the cap loop, the thermal rate, droop, swarf and ramp, the core
clock, patina and the clock anneal. They change timing only (R54); the state they keep is read through PWR. -/

namespace Sys2Proof.Machine

/-! ## Settings in force -/

/-- The applied PWR settings (R365). -/
def State.pwrSet (s : State) : PwrSet := s.pwr.set.current
/-- PWR_LOOP.MARGIN in W. -/
def State.capMargin (s : State) : Nat := fldN s.pwrSet.loop 8 8
/-- PWR_LOOP.FLOOR. -/
def State.rateFloor (s : State) : Nat := fldN s.pwrSet.loop 0 8
/-- PWR_SWARF.EN. -/
def State.swarfOn (s : State) : Bool := bitAt s.pwrSet.swarf 63
/-- PWR_SWARF.HOLD in beats. -/
def State.swarfHold (s : State) : Nat := fldN s.pwrSet.swarf 32 16
/-- PWR_DROOP.DRATE. -/
def State.droopTo (s : State) : Nat := fldN s.pwrSet.droop 16 8

/-! ## The effective cap (R350) -/

/-- A power in W as a fraction: numerator and denominator. -/
abbrev Watts := Nat × Nat

/-- The lesser of two powers; the first where they are equal. -/
def Watts.least (a b : Watts) : Watts := if b.1 * a.2 < a.1 * b.2 then b else a

/-- An enabled curve entry: inlet and cap in W. -/
def curveEntry (w : Word) : Option (Nat × Nat) :=
  if bitAt w 63 then some (fldN w 8 8, fldN w 0 8 * 10) else none

/-- Insert in ascending inlet. -/
def curveInsert (e : Nat × Nat) : List (Nat × Nat) → List (Nat × Nat)
  | [] => [e]
  | h :: t => if e.1 ≤ h.1 then e :: h :: t else h :: curveInsert e t

/-- The enabled entries of the curve in ascending inlet; an unwritten entry holds its reset value, EN clear. -/
def curveOf (m : SMap Word) : List (Nat × Nat) :=
  ((List.range 8).filterMap (fun n => curveEntry (smGet 0xC8 m n))).foldl (fun l e => curveInsert e l) []

/-- Two enabled entries of a curve have equal INLET, which R350 makes invalid. -/
def curveBad : List (Nat × Nat) → Bool
  | a :: b :: t => a.1 == b.1 || curveBad (b :: t)
  | _ => false

/-- Interpolate linearly beyond the entry `a`. -/
def curveFrom (a : Nat × Nat) (t : Nat) : List (Nat × Nat) → Watts
  | [] => (a.2, 1)
  | b :: l =>
    if t < b.1 then
      let d := b.1 - a.1
      if a.2 ≤ b.2 then (a.2 * d + (b.2 - a.2) * (t - a.1), d) else (a.2 * d - (a.2 - b.2) * (t - a.1), d)
    else curveFrom b t l

/-- The curve value at an inlet temperature, held flat beyond its ends. -/
def curveAt (l : List (Nat × Nat)) (t : Nat) : Option Watts :=
  match l with
  | [] => none
  | a :: r => some (if t ≤ a.1 then (a.2, 1) else curveFrom a t r)

/-- The cap that PWR_CAP and the curve set. -/
def State.setCap (s : State) (inlet : Nat) : Watts :=
  let c : Watts := (s.pwr.cap.toNat * 10, 1)
  match curveAt (curveOf s.pwrSet.curve) inlet with
  | none => c
  | some v => Watts.least c v

/-- 42 A × the input voltage, which is given in 10 mV. -/
def vinCap (vin : Nat) : Watts := (42 * vin, 100)

/-! ## The cap loop (R351) -/

/-- The next cap rate and whether the cap is missed at the floor, for power `p` under cap `c`. -/
def capLoop (rate p : Nat) (c : Watts) (margin floor : Nat) : Nat × Bool :=
  let q := p * c.2
  if c.1 < q then
    let drop := (64 * (q - c.1) + q - 1) / q
    let r := max (rate - drop) floor
    (r, r == floor)
  else if q + margin * c.2 < c.1 ∧ rate < 64 then (rate + 1, false)
  else (rate, false)

/-- The hottest junction of a sample over the unfenced quarters and the hub. -/
def State.hottest (s : State) (t : Telemetry) : Nat :=
  let q (n : Nat) (v : BitVec 8) : Nat := if bitAt s.rst.active n then 0 else v.toNat
  max (max (max (q 0 t.q0) (q 1 t.q1)) (max (q 2 t.q2) (q 3 t.q3))) t.hubT.toNat

/-- PWR_TEMP0 of a sample. -/
def State.tempWord (s : State) (t : Telemetry) : Word :=
  let q (n : Nat) (v : BitVec 8) : Nat := if bitAt s.rst.active n then 0 else v.toNat
  putAt 56 8 (q 3 t.q3) ||| putAt 48 8 (q 2 t.q2) ||| putAt 40 8 (q 1 t.q1) ||| putAt 32 8 (q 0 t.q0)
    ||| putAt 24 8 t.hubT.toNat ||| putAt 16 8 t.inlet.toNat ||| putAt 8 8 t.outlet.toNat
    ||| putAt 0 8 (s.hottest t)

/-- The readings of a sample (R348). -/
def State.sampled (s : State) (t : Telemetry) : State :=
  { s with pwr := { s.pwr with
      power := t.power
      tel0 := putAt 48 16 t.vin.toNat ||| putAt 32 16 t.iin.toNat
      tel1 := putAt 48 16 t.quart.toNat ||| putAt 32 16 t.hub.toNat ||| putAt 16 16 t.mem.toNat
        ||| putAt 0 16 t.link.toNat
      temp0 := s.tempWord t
      energy := s.pwr.energy + t.energy.setWidth 64 } }

/-- The inlet is outside 20 to 45 °C (R353). -/
def inletBad (t : Telemetry) : Bool := decide (t.inlet.toNat < 20) || decide (45 < t.inlet.toNat)

/-- The input voltage is from 40 V to below 44 V (R413). -/
def vinLow (t : Telemetry) : Bool := decide (4000 ≤ t.vin.toNat) && decide (t.vin.toNat < 4400)

/-- TEMPER_SAMPLE (R348, R350, R351, R353, R413). CAPEFF shows the effective cap in whole 10 W (log entry 21). -/
def execTemperSample (t : Telemetry) (s : State) : Out :=
  let own := s.setCap t.inlet.toNat
  let c := Watts.least own (vinCap t.vin.toNat)
  let byVin := decide ((vinCap t.vin.toNat).1 * own.2 < own.1 * (vinCap t.vin.toNat).2)
  let r := capLoop (s.pwr.capNext.getD s.pwr.capRate) t.power.toNat c s.capMargin s.rateFloor
  let s := s.sampled t
  let s := { s with pwr := { s.pwr with effCap := BitVec.ofNat 8 (c.1 / c.2 / 10), effVin := byVin,
                                        capNext := some r.1 } }
  let s := (s.raiseIf (byVin || vinLow t) .pwr 5).raiseIf r.2 .pwr 0
  let s := s.raiseIf (inletBad t && !s.pwr.inletOut) .pwr 4
  .next { s with pwr := { s.pwr with inletOut := inletBad t } }

/-! ## Rates and reasons (R349, R354, R363) -/

/-- The least droop rate over the unfenced quarters. -/
def State.droopRateMin (s : State) : Nat :=
  (List.range 4).foldl (fun m q => if bitAt s.rst.active q then m else min m (s.pwr.droopRate.toList.getD q 64)) 64

/-- The least ramp rate over the sections and the unfenced quarters. -/
def State.rampRateMin (s : State) : Nat :=
  (List.range 8).foldl (fun m k => if bitAt s.rst.active (k % 4) then m else min m (s.pwr.rampRate.toList.getD k 64)) 64

/-- PWR_STATUS.RATE: the least issue rate in force on any core, from 1 to 64 (R349); a ramp that starts at a swarf rate of 0
holds it at 1 (log entry 132). -/
def State.issueRate (s : State) : Nat :=
  max 1 (min (min s.pwr.capRate s.pwr.thermRate) (min s.droopRateMin s.rampRateMin))

/-- The rate that the cap, thermal and droop limits leave a quarter. -/
def State.quarterRate (s : State) (q : Nat) : Nat :=
  min (min s.pwr.capRate s.pwr.thermRate) (s.pwr.droopRate.toList.getD q 64)

/-- The patina word of physical core `p`: FMAX and FMAX0 96 where none is recorded (log entry 3). -/
def State.patina (s : State) (p : Nat) : Word := smGet 0x6060000000000000 s.flash.patina p

/-- PWR_ANNEAL.MINFMAX: the least FMAX over the cores of unfenced quarters. -/
def State.minFmax (s : State) : Nat :=
  let l := s.flash.patina.filter (fun e => decide (e.1 < 864) && !s.fencedCore e.1)
  let m := l.foldl (fun m e => min m (fldN e.2 56 8)) 255
  if l.length < s.sizCores then min m 96 else m

/-- The clock that the request and the patina allow, in MHz (R360). -/
def State.clockTarget (s : State) : Nat := 25 * min s.pwr.fstep.toNat s.minFmax

/-- The limits that hold that clock below 2,400 MHz: bit 0 the least recorded maximum, bit 1 PWR_FREQ (R363). -/
def State.clockWhy (s : State) : BitVec 2 :=
  (if decide (s.minFmax < s.pwr.fstep.toNat) then 1 else 0) ||| (if decide (s.pwr.fstep.toNat < 96) then 2 else 0)

/-- The throttle reasons that act, bit r for reason r; those of the clock go by the clock in force (R363). -/
def State.reasons (s : State) : BitVec 7 :=
  let cap := decide (s.pwr.capRate < 64)
  let b (n : Nat) (c : Bool) : BitVec 7 := if c then BitVec.ofNat 7 (2 ^ n) else 0
  b 0 (cap && !s.pwr.effVin) ||| b 1 (cap && s.pwr.effVin) ||| b 2 (decide (s.pwr.thermRate < 64))
    ||| b 3 (decide (s.droopRateMin < 64)) ||| b 4 (decide (s.rampRateMin < 64))
    ||| b 5 (bitAt s.pwr.why 0) ||| b 6 (bitAt s.pwr.why 1)

/-- The reasons that act now have acted in this beat. -/
def State.noteReasons (s : State) : State := { s with pwr := { s.pwr with seen := s.pwr.seen ||| s.reasons } }

/-- A beat begins: the reasons that act at its edge have acted in it. -/
def State.startReasons (s : State) : State := { s with pwr := { s.pwr with seen := s.reasons } }

/-- Count the beat for each reason that has acted at any clock of it (R363). -/
def State.countReasons (s : State) : State :=
  let r := s.pwr.seen ||| s.reasons
  let up (v : Vector Word 7) : Vector Word 7 :=
    Vector.ofFn (fun i => if bitAt r i.val then v[i] + 1 else v[i])
  { s with pwr := { s.pwr with thrStep := up s.pwr.thrStep, thrAcc := up s.pwr.thrAcc } }

/-- The thermal rate at a beat edge (R354). -/
def State.thermalEdge (s : State) : State :=
  let j := fldN s.pwr.temp0 0 8
  let r := s.pwr.thermRate
  if 95 ≤ j then
    let first := !s.pwr.wasHot
    let s := { s with pwr := { s.pwr with thermRate := min r (max (r - 1) s.rateFloor), wasHot := true } }
    s.raiseIf first .pwr 2
  else if j ≤ 93 ∧ r < 64 then { s with pwr := { s.pwr with thermRate := r + 1, wasHot := false } }
  else { s with pwr := { s.pwr with wasHot := false } }

/-- The cap rate of the latest sample comes into force (R351). -/
def State.capEdge (s : State) : State :=
  match s.pwr.capNext with
  | some r => { s with pwr := { s.pwr with capRate := r, capNext := none } }
  | none => s

/-! ## Droop (R356) -/

/-- DROOP_DETECT (R356). -/
def execDroopDetect (q : BitVec 2) (s : State) : Out :=
  let p := s.pwr
  let a := { s with pwr := { p with
      droopRate := p.droopRate.set q.toNat s.droopTo
      droopHold := p.droopHold.set q.toNat true
      droopBeat := some s.bea.count
      dcount := addHi p.dcount 1 } }
  let n := s.flash.droops
  let a := { a with flash := { s.flash with droops := n.set q.toNat (n[q.toNat] + 1) } }
  whenB (!bitAt s.rst.active q.toNat) s (a.raise .pwr 7).noteReasons

/-- DROOP_HOLD_EXPIRE (R356). -/
def execDroopHoldExpire (q : BitVec 2) (s : State) : Out :=
  whenB s.pwr.droopHold[q.toNat] s
    { s with pwr := { s.pwr with droopHold := s.pwr.droopHold.set q.toNat false } }

/-- DROOP_RATE_STEP (R356). -/
def execDroopRateStep (q : BitVec 2) (s : State) : Out :=
  let r := s.pwr.droopRate[q.toNat]
  whenB (!s.pwr.droopHold[q.toNat] && decide (r < 64)) s
    { s with pwr := { s.pwr with droopRate := s.pwr.droopRate.set q.toNat (r + 1) } }

/-! ## Swarf and ramp (R358) -/

/-- The section entries (0 F or the Sheet, 1 B) that a set of sections names. -/
def swarfSecs (secs : BitVec 3) : List (Fin 2) :=
  (if bitAt secs 0 then [0] else []) ++ (if bitAt secs 1 then [1] else [])

/-- A rate of one section set in each quarter, by 4 × section + quarter. -/
def setRates (v : Vector Nat 8) (i : Fin 2) (f : Nat → Nat → Nat) : Vector Nat 8 :=
  Vector.ofFn (fun k => if k.val / 4 = i.val then f (k.val % 4) v[k] else v[k])

/-- The rate in force in a quarter of a section (R349). -/
def State.coreRate (s : State) (i q : Nat) : Nat := max 1 (min (s.quarterRate q) (s.pwr.rampRate.toList.getD (4 * i + q) 64))

/-- A section begins to wait at an FBAR: its cores hold swarf at the rate in force on them (R358, log entry 132). -/
def State.swarfStart (s : State) (secs : BitVec 3) : State :=
  if s.swarfOn then
    { s with pwr := (swarfSecs secs).foldl (fun (p : Pwr) (i : Fin 2) =>
        { p with swarf := p.swarf.set i .holding, swarfRate := setRates p.swarfRate i (fun q _ => s.coreRate i q) }) s.pwr }
  else s

/-- A section resumes at a release: the ramp starts at the swarf rate in force, which the limits hold too (R358,
R359). -/
def State.swarfRelease (s : State) (secs : BitVec 3) : State :=
  if s.swarfOn then
    let p := (swarfSecs secs).foldl (fun (p : Pwr) (i : Fin 2) =>
        { p with swarf := p.swarf.set i .ramping,
                 rampRate := setRates p.rampRate i (fun q _ => min (s.quarterRate q) (p.swarfRate.toList.getD (4 * i + q) 0)),
                 swarfRate := setRates p.swarfRate i (fun _ _ => 0) }) s.pwr
    ({ s.countSwarf with pwr := { p with swarfCnt := s.countSwarf.pwr.swarfCnt } }).noteReasons
  else s

/-- The entry of a swarf command's section: SEC 0b10 names B, every other value F or the Sheet. -/
def swarfEntry (sec : BitVec 2) : Fin 2 := if sec = 2 then 1 else 0

/-- The beat of arrival of the barrier at which a section waits. -/
def State.barArrival (s : State) (i : Fin 2) : Option Word :=
  (s.sheet.fbars.find? (fun b => bitAt b.secs i.val)).map (·.arrival)

/-- SWARF_HOLD_EXPIRE (R358). -/
def execSwarfHoldExpire (sec : BitVec 2) (s : State) : Out :=
  let i := swarfEntry sec
  let due := match s.barArrival i with
    | some a => decide (a.toNat + s.swarfHold ≤ s.bea.count.toNat)
    | none => false
  whenB (s.pwr.swarf[i] == .holding && due) s
    { s with pwr := { s.pwr with
        swarf := s.pwr.swarf.set i .decaying, swarfRate := setRates s.pwr.swarfRate i (fun q r => min r (s.quarterRate q)) } }

/-- SWARF_DECAY_STEP (R358). -/
def execSwarfDecayStep (sec : BitVec 2) (s : State) : Out :=
  let i := swarfEntry sec
  whenB (s.pwr.swarf[i] == .decaying) s
    { s with pwr := { s.pwr with swarfRate := setRates s.pwr.swarfRate i (fun _ r => r - 1) } }

/-- RAMP_STEP (R358). -/
def execRampStep (sec : BitVec 2) (s : State) : Out :=
  let i := swarfEntry sec
  let v := setRates s.pwr.rampRate i (fun _ r => min 64 (r + 1))
  let full := (List.range 4).all (fun q => 64 ≤ v.toList.getD (4 * i.val + q) 64)
  whenB (s.pwr.swarf[i] == .ramping) s
    { s with pwr := { s.pwr with rampRate := v, swarf := if full then s.pwr.swarf.set i .off else s.pwr.swarf } }

/-! ## Clocks (R360, R361) -/

/-- PWR_FREQ.FSTEP as a write leaves it: a reserved value leaves it unchanged (R7). The change is pending while the
clock that the request allows differs from the clock in force. -/
def State.putFreq (s : State) (v : Word) : State :=
  let f := fldN v 0 8
  if 40 ≤ f ∧ f ≤ 96 then
    let s := { s with pwr := { s.pwr with fstep := BitVec.ofNat 8 f } }
    { s with pwr := { s.pwr with pending := s.clockTarget != s.pwr.clock, asked := s.bea.count } }
  else s

/-- The voltages have had the change window to rise in: an increase waits for the 4 beats after its request (R361). -/
def State.voltsUp (s : State) : Bool :=
  decide (s.clockTarget ≤ s.pwr.clock) || decide (s.pwr.asked.toNat + 4 ≤ s.bea.count.toNat)

/-- A droop event falls in the change window, the 4 beats before this edge (R361). -/
def State.droopNear (s : State) : Bool :=
  match s.pwr.droopBeat with
  | some b => decide (s.bea.count.toNat ≤ b.toNat + 4)
  | none => false

/-- An earlier change is in progress: the voltages fall during the 4 beats after a decrease (R361). -/
def State.changeBusy (s : State) : Bool :=
  match s.pwr.changed with
  | some b => decide (s.bea.count.toNat < b.toNat + 4)
  | none => false

/-- FREQ_CHANGE (R361): the pending change at a beat edge. -/
def execFreqChange (s : State) : Out :=
  let deferred := ({ s with pwr := { s.pwr with dcount := addLo s.pwr.dcount 1 } }).raise .pwr 1
  let t := s.clockTarget
  let done := { s with pwr := { s.pwr with
      clock := t, pending := false, why := s.clockWhy
      changed := if t < s.pwr.clock then some s.bea.count else none } }
  whenB (s.pwr.pending && !s.changeBusy && s.voltsUp) s (if s.droopNear then deferred else done)

/-! ## Patina and anneal (R362) -/

/-- The DROOPS of a physical core: the droop events of its quarter, in thousands. -/
def State.patinaDroops (s : State) (p : Nat) : Nat :=
  min 0xFFFF (fldN (s.patina p) 8 16 + s.flash.droops.toList.getD (quarterOf p) 0 / 1000)

/-- PWR_PATINA of a physical core, with its hours and droops brought up to date (log entry 22). -/
def State.patinaNow (s : State) (p : Nat) : Word :=
  setFld (setFld (s.patina p) 24 24 s.flash.hours.toNat) 8 16 (s.patinaDroops p)

/-- The clock anneal may start (R362). -/
def State.mayAnneal (s : State) : Bool := s.stopped .ary && s.noCast

/-- ANNEAL written to PWR_CTRL (R362). -/
def State.startAnneal (s : State) : State :=
  if s.mayAnneal then { s with pwr := { s.pwr with annealing := true } } else s.raise .pwr 9

/-- The patina of one core after the test: one step below the highest passed, 5 mV more where the margin has gone. -/
def State.annealCore (s : State) (r : CoreAnneal) : State :=
  if r.core < s.sizCores then
    let p := s.physCore r.core
    let w := setFld (s.patina p) 56 8 (r.passed.toNat - 1)
    let w := if r.margin then setFld w 0 8 (min 255 (fldN w 0 8 + 5)) else w
    let s := { s with flash := { s.flash with patina := smPut 0x6060000000000000 s.flash.patina p w } }
    s.raiseIf (decide (r.passed.toNat - 1 < 96)) .pwr 6
  else s

/-- CLOCK_ANNEAL_COMPLETE (R362). A least maximum that changes the clock leaves that change pending (R360, R361). -/
def execClockAnnealComplete (results : List CoreAnneal) (s : State) : Out :=
  let t := results.foldl State.annealCore s
  let t := { t with flash := { t.flash with annealed := t.flash.hours },
                    pwr := { t.pwr with annealing := false } }
  whenB s.pwr.annealing s
    { t with pwr := { t.pwr with pending := t.pwr.pending || t.clockTarget != t.pwr.clock, asked := t.bea.count } }

/-- CLRACC written to PWR_CTRL (R363). -/
def State.clearAcc (s : State) : State := { s with pwr := { s.pwr with thrAcc := Vector.replicate 7 0 } }

end Sys2Proof.Machine
end

