-- ==== Sys2Proof/Machine/Beat.lean ====
section
/-! DEFINITION. The beat receiver (R25 to R31) and what acts at a beat edge (R28): loads and alarms, the rates of the
Temper unit, pending quenches, the beats counted for stalls, phases and reasons, and the partition switch (R48). -/

namespace Sys2Proof.Machine

/-! ## The receiver -/

/-- The main rails are on: not PS4 and not shut down. -/
def State.mainOn (s : State) : Bool := s.sys.ps != 4 && !s.sys.shutdown

/-- A signed phase or offset lies within ± n ns. -/
def within (v : BitVec 32) (n : Nat) : Bool := decide (v.toInt.natAbs ≤ n)

/-- A phase moved toward zero by at most 5 ns (R26). -/
def slewed (v : BitVec 32) : BitVec 32 :=
  let x := v.toInt
  if 5 < x then BitVec.ofInt 32 (x - 5) else if x < -5 then BitVec.ofInt 32 (x + 5) else 0

/-- A receiver that runs on its fallback follows a change of FALLBACK: to the new source, or into holdover where it names
none or the source that is lost (R25, R31). -/
def Bea.refall (b : Bea) (f : BitVec 2) : Bea :=
  if !b.lost || b.hold || f == b.fallCur then { b with fallCur := f }
  else if f = 0 ∨ f = b.srcCur then
    { b with fallCur := f, hold := true, missed := 0, heldBeats := 0, lock := false, slewing := false }
  else { b with fallCur := f, srcAct := f, missed := 0, lock := false, slewing := false }

/-- SRC and FALLBACK as written come into force at an edge (R31). -/
def Bea.sources (b : Bea) : Bea :=
  let src := fld b.ctrl 0 2
  let f := fld b.ctrl 4 2
  if src = b.srcCur then b.refall f
  else { b with srcCur := src, fallCur := f, srcAct := src, hold := false, holdExp := false, lost := false,
                slewing := false, missed := 0, heldBeats := 0, hops := 0, lock := false }

/-- The receiver makes its own edges: free-run or holdover. -/
def Bea.generated (b : Bea) : Bool := b.srcAct == 0 || b.hold

/-- An edge of the source is accepted only within ±100 ns of the predicted edge (R25). While a recovered source is taken
back the prediction is that of the source's own edges (log entry 24). -/
def Bea.accepts (b : Bea) (e : Option EdgeMeas) : Bool :=
  !b.generated && (match e with | some m => within m.offset 100 | none => false)

/-- The count of the beat that an edge begins (R29). -/
def Bea.nextCount (b : Bea) (e : Option EdgeMeas) : Word :=
  if b.started then b.count + 1
  else if b.srcAct = 2 ∧ b.accepts e then
    match e with | some m => m.stamp.getD 0 | none => 0
  else 0

/-- The count has begun once this edge has come: in link source, with an accepted edge only (R29). A count that another
source has begun is kept when SRC becomes link (log entry 98), and in link source the edges of a holdover that comes
before any accepted stamp leave the count at zero (log entry 99). -/
def Bea.nextStarted (b : Bea) (e : Option EdgeMeas) : Bool := b.started || b.srcAct != 2 || b.accepts e

/-- The stamp of an accepted edge differs from the count of the beat it begins (R29). -/
def Bea.stampDiffers (b : Bea) (e : Option EdgeMeas) (count : Word) : Bool :=
  b.srcAct == 2 && b.accepts e && (match e with | some m => m.stamp.getD 0 != count | none => false)

/-- The phase after an edge: measured, or slewed toward zero while a source is taken back (R26, R27). -/
def Bea.nextPhase (b : Bea) (e : Option EdgeMeas) : BitVec 32 :=
  if b.accepts e then (if b.slewing then slewed b.phaseErr else match e with | some m => m.phase | none => b.phaseErr)
  else b.phaseErr

/-- HOPS after an edge (R27). -/
def Bea.nextHops (b : Bea) (e : Option EdgeMeas) : BitVec 4 :=
  if b.accepts e then
    match e with
    | some m => if b.srcAct = 2 then BitVec.ofNat 4 (min 15 (m.hops.toNat + 1)) else 0
    | none => b.hops
  else b.hops

/-- The receiver after an edge that begins beat `count`; LOCK follows R27. -/
def Bea.afterEdge (b : Bea) (e : Option EdgeMeas) (count : Word) : Bea :=
  let ok := b.accepts e
  let phase := b.nextPhase e
  let hops := b.nextHops e
  let good := within phase 20 && decide (hops.toNat ≤ 8) && !b.stampDiffers e count
  { b with
      count := count
      started := b.nextStarted e
      loadPend := none
      phaseErr := phase
      hops := hops
      slewing := b.slewing && !(ok && phase == 0)
      lock := if ok then good else b.lock && !b.generated
      missed := if ok || b.generated then 0 else b.missed + 1
      heldBeats := if b.hold then b.heldBeats + 1 else b.heldBeats }

/-- The port whose stamps feed the link source (BEA_CTRL.STAMP_PORT). -/
def State.stampPort (s : State) : Port := s.port (fldN s.bea.ctrl 8 3)

/-- Stamps come in on the stamp port: it is up, and its neighbour is of this module's domain, which no stamp crosses
(R293). -/
def State.stampsCome (s : State) : Bool :=
  s.stampPort.isUp && fld s.stampPort.neigh 12 6 == fld s.ownId 12 6

/-- DELAY and EDGE_PS together, in ns to the nearest. -/
def stampLag (delay edgePs : BitVec 32) : Int := ((delay.toNat + edgePs.toNat + 500) / 1000 : Nat)

/-- A measurement taken at the arrival of a stamp's slot, as one of the edge that the stamp names (R27, R293). -/
def lessLag (m : EdgeMeas) (lag : Int) : EdgeMeas :=
  { m with offset := BitVec.ofInt 32 (m.offset.toInt - lag), phase := BitVec.ofInt 32 (m.phase.toInt - lag) }

/-- The edge as the receiver has it: in link source the one-way delay of the stamp port and EDGE_PS are subtracted, and
without stamps on that port there is no edge (R27, R293). -/
def State.measured (s : State) (e : Option EdgeMeas) : Option EdgeMeas :=
  if s.bea.sources.srcAct = 2 then
    if s.stampsCome then e.map (fun m => lessLag m (stampLag s.stampPort.delay m.edgePs)) else none
  else e

/-- An edge of the source is discarded (R25). -/
def State.discards (s : State) (e : Option EdgeMeas) : Bool :=
  e.isSome && !s.bea.sources.generated && !s.bea.sources.accepts (s.measured e)

/-- The conditions of R30 for a load. -/
def State.mayLoad (s : State) : Bool := s.stopped .cnd && s.noCast

/-- The receiver's part of a beat edge: count, load, alarm and their causes. -/
def State.receive (s : State) (e : Option EdgeMeas) : State :=
  let b := s.bea.sources
  let count := match b.loadPend with
    | some v => if s.mayLoad then v else b.nextCount e
    | none => b.nextCount e
  let refused := b.loadPend.isSome && !s.mayLoad
  let late := b.stampDiffers e count
  let began := b.nextStarted e || (b.loadPend.isSome && s.mayLoad)
  let a := { b.afterEdge e count with started := began }
  let s := { s with bea := a }
  let s := (s.raiseIf refused .bea 7).raiseIf (late && b.started) .bea 8
  let s := s.raiseIf (b.accepts e && !within a.phaseErr 20) .bea 1
  s.raiseIf (began && a.alarm != 0 && a.alarm == count) .bea 3

/-- A stamp in a control slot of the stamp port is compared with the count of the beat in progress (R29, log entry 100):
where they differ LOCK is cleared and BEA_CAUSE.COUNT set. -/
def State.checkStamp (s : State) (p : Nat) (beat : Word) : State :=
  let b := s.bea
  if b.srcAct = 2 ∧ !b.hold ∧ b.started ∧ p = fldN b.ctrl 8 3 ∧ s.stampsCome ∧ beat ≠ b.count then
    ({ s with bea := { b with lock := false } }).raise .bea 8
  else s

/-! ## Beats counted -/

/-- Some issued word has one of these opcodes. -/
def State.inFlight (s : State) (l : List Nat) : Bool := s.sheet.issued.any (fun w => l.contains w.opc.toNat)

/-- A started collective of this kind has not completed. -/
def State.collFlight (s : State) (p : InstKind → Bool) : Bool :=
  s.fol.insts.any (fun i => i.inFlight && p i.kind)

/-- The open phases FWD, SPLIT, RSC, UPD, AGR, BAR, THR, bit 0 first (R345): UPD while a BLAUNCH, GDEPOSIT, GHARV or
STEPABORT, or a launch, has not completed. -/
def State.phases (s : State) : List Bool :=
  [ s.tim.fwd, s.tim.split,
    s.collFlight (fun k => match k with | .reduceScatter => true | _ => false),
    s.inFlight [0xA0, 0xA5, 0xA6, 0xA7] || s.bnk.launches.any (fun l => !l.done),
    s.collFlight (fun k => match k with | .gather => true | _ => false),
    !s.sheet.fbars.isEmpty,
    s.reasons &&& 0x1F != 0 ]

/-- Each open phase adds one to its word of the open record (R345). -/
def State.countPhases (s : State) : State :=
  (s.phases.zip [(3 : Fin 16), 4, 5, 6, 7, 8, 9]).foldl (fun s p => if p.1 then s.countRecord p.2 1 else s) s

/-- The queue levels and whether a queue named in a mask has no free entry (R69). -/
def State.queueFull (s : State) (secs : BitVec 3) : Bool :=
  (bitAt secs 0 && decide (128 ≤ s.sheet.qF.length)) || (bitAt secs 1 && decide (128 ≤ s.sheet.qB.length))
    || (bitAt secs 2 && decide (64 ≤ s.sheet.qH.length))

/-- Some register of a mask has a pending delivery. -/
def State.anyPending (s : State) (mask : BitVec 16) : Bool := s.cnd.deliv.any (fun d => bitAt mask d.sm.toNat)

/-- The pending count of a word's summary register stands at its limit of 63 (R60). -/
def State.countFull (s : State) (w : AWord) : Bool :=
  bitAt w 103 && decide (63 ≤ (s.cnd.deliv.filter (fun d => d.sm == fld w 96 4)).length)

/-- Does the Conductor in RUN wait at an enqueue, and at which: 1 a full queue, 2 a pending summary, 0 neither (R69). -/
def State.stallKind (s : State) (full : Bool) (w : Option AWord) : Nat :=
  if !s.running .cnd then 0
  else match s.cnd.wait, w with
    | .summary mask, _ => if s.anyPending mask then 2 else 0
    | _, some w => if full then 1 else if s.countFull w then 2 else 0
    | _, none => 0

/-- Count a beat of stall in CND_STALL (R69, R81). -/
def State.countStall (s : State) (full : Bool) (w : Option AWord) : State :=
  match s.stallKind full w with
  | 1 => { s with cnd := { s.cnd with stall := addHi s.cnd.stall 1 } }
  | 2 => { s with cnd := { s.cnd with stall := addLo s.cnd.stall 1 } }
  | _ => s

/-- A beat of powered time; 3,600,000,000 beats are an hour (R362). -/
def State.countHour (s : State) : State :=
  if s.flash.beats + 1 < 3600000000 then { s with flash := { s.flash with beats := s.flash.beats + 1 } }
  else { s with flash := { s.flash with beats := 0,
                                        hours := BitVec.ofNat 24 (min 0xFFFFFF (s.flash.hours.toNat + 1)) } }

/-! ## The partition switch (R48) -/

/-- The beat of the switch's table in progress. -/
def State.switchBeat (s : State) (w : PartSwitch) : Option Nat :=
  match w.beat0 with
  | some b => if w.stuck then none else some (s.bea.count.toNat - b.toNat)
  | none => none

/-- The switch ends: its word completes and its sections are free. -/
def State.endSwitch (s : State) (w : PartSwitch) : State :=
  let h := s.sheet
  { s with sheet := { h with
      switch := none, issued := h.issued.filter (fun i => i.seq != w.seq),
      words := pair32 ((hi32 h.words + 1) % 2 ^ 32) ((lo32 h.words + 1) % 2 ^ 32) } }

/-- The beat of a switch to another partition, by the table of R48. -/
def State.switchStep (s : State) (w : PartSwitch) (n : Nat) : State :=
  let f := s.fn.ary
  if n = 2 then s.setFnState .ary .stopped
  else if n = 3 then
    let t := s.sheet.set
    { s.putFn .ary { f with epoch := w.n + 1 } with
        sheet := { s.sheet with set := { t with staged := { t.staged with part := w.target } } } }
  else if n = 4 then s.putFn .ary { f with mixed := true }
  else if n < 10 ∨ f.mixed ∨ f.applied ≠ w.n + 1 then s
  else if n < 12 then s.setFnState .ary .run
  else (s.setFnState .ary .run).endSwitch w

/-- The partition switch at a beat edge; a PART naming the partition in force only takes its 12 beats. -/
def State.switchEdge (s : State) : State :=
  match s.sheet.switch with
  | none => s
  | some w =>
    match s.switchBeat w with
    | none => s
    | some n => if w.same then (if 12 ≤ n then s.endSwitch w else s) else s.switchStep w n

/-! ## The edge -/

/-- The functions that an array reset leaves STOPPED (R386). -/
def State.stopArray (s : State) : State :=
  (((s.setFnState .cnd .stopped).setFnState .ary .stopped).setFnState .tmv .stopped).setFnState .fol .stopped

/-- What an array reset does to a cast that has not started: an admitted one is loaded and held (R390), an admission in
progress ends (log entry 127). -/
def State.holdAdmitted (s : State) : State :=
  match s.cnd.adm, s.staged with
  | .admitted, some c => (s.loadCast c).endCast 5
  | .admitting, _ => s.cancelAdmission
  | _, _ => s

/-- A pending array reset at a beat edge: it acts as a quench, and the re-initialisation begins (R386). -/
def State.arrayEdge (s : State) : State :=
  if s.rst.arrayPend then
    let s := { s with rst := { s.rst with arrayPend := false, arrayBusy := true, last := 4 } }
    let s := s.quenchNow.holdAdmitted.stopArray
    { s with bnk := s.bnk.stopAll }
  else s

/-- A pending quench at a beat edge (R79). -/
def State.quenchEdge (s : State) : State := if s.cnd.quench then s.quenchNow else s

/-- What the beat that ends has held: stalls, phases, throttle reasons, powered time. -/
def State.endBeat (s : State) (full : Bool) (w : Option AWord) : State :=
  if s.bea.started then ((s.countStall full w).countPhases.countReasons).countHour else s.countHour

/-- Which sections a waiting enqueue needs, by the partition at the queue tail (R44, R69). -/
def wordSecs (part : BitVec 2) (w : AWord) : BitVec 3 :=
  let opc := fld w 120 8
  let sec := fld w 118 2
  let m := fld w 0 3
  if opc = 0xC1 then (if part = 1 then (if m &&& 3 = 0 then 0 else 3) ||| (m &&& 4) else m)
  else if sec = 3 then 4 else if sec = 0 then 3 else if sec = 1 then 1 else 2

/-- The word whose enqueue is stalled; a run stands at one of its entries. -/
def State.waitWord (s : State) : Option AWord :=
  match s.cnd.wait with
  | .enqOne w => some w
  | .enqRun i _ => s.cast.map (fun c =>
      let a := c.awords.addr + 16 * i
      s.imageWord (a + 8) ++ s.imageWord a)
  | _ => none

/-- The sections that the stalled enqueue waits for. -/
def State.waitSecs (s : State) : BitVec 3 :=
  match s.waitWord with
  | some w => wordSecs s.cnd.part w
  | none => 0

/-! ## Corrected errors -/

/-- Count an error of a core in CRW_ECC: a G-buffer error in the high half, a tile-store error in the low half (R109).
-/
def State.countCore (s : State) (core : BitVec 10) (gbuf : Bool) : State :=
  if core.toNat < s.sizCores then
    let v := smGet 0 s.crw.ecc core.toNat
    { s with crw := { s.crw with ecc := smPut 0 s.crw.ecc core.toNat (if gbuf then addHi v 1 else addLo v 1) } }
  else s

/-- A corrected error counts in its register (R82, R109, R136, R211, R311). -/
def State.correct (s : State) : Corrected → State
  | .tileStore c =>
    if c.toNat < s.sizCores then ({ s with sheet := { s.sheet with ecc := addLo s.sheet.ecc 1 } }).countCore c false else s
  | .gbuffer c =>
    if c.toNat < s.sizCores then ({ s with sheet := { s.sheet with ecc := addHi s.sheet.ecc 1 } }).countCore c true else s
  | .program => { s with vec := { s.vec with ecc := addLo s.vec.ecc 1 } }
  | .readRetry => { s with mdv := { s.mdv with ifcrc := addHi s.mdv.ifcrc 1 } }
  | .writeRetry => { s with mdv := { s.mdv with ifcrc := addLo s.mdv.ifcrc 1 } }
  | .foilRetry => { s with fol := { s.fol with crc := addLo s.fol.crc 1 } }

/-- Corrected errors in order. -/
def State.correctAll (s : State) (l : List Corrected) : State := l.foldl State.correct s

/-! ## Control slots at a beat edge (R287, R292, R293) -/

/-- SHOPS: the hops of this module's own source (R287). -/
def State.shops (s : State) : Nat := if s.bea.srcAct = 2 then s.bea.hops.toNat else 0

/-- The stamp of the first control slot of port `p` after the edge; P7 carries none, and a module whose count has not begun
sends none. -/
def State.stampFor (s : State) (p : Nat) : Option (Word × BitVec 32 × Nat) :=
  if p < 7 ∧ s.bea.started then some (s.bea.count, Config.edgePs s.fresh p, s.shops) else none

/-- The port at the end of a beat: whether it carried a data frame. -/
def Port.beatEnds (q : Port) : Port := { q with quiet := if q.busy then 0 else q.quiet + 1, busy := false }

/-- A port that is up sends its first control slot after the edge. -/
def State.ctrlSlot (s : State) (p : Nat) : State :=
  let s := s.putPort p (s.port p).beatEnds
  if (s.port p).isUp then s.sendCtrl p (s.stampFor p) else s

/-- The first control slots of the ports after a beat edge (log entry 117). -/
def State.ctrlSlots (s : State) : State := ((List.range 8).foldl State.ctrlSlot s).drawn

/-- BEAT_EDGE (R25 to R31, R28). An edge of the source outside its window is discarded. `corrected` lists the errors that
were corrected in the beat that ends (log entry 89). -/
def execBeatEdge (edge : Option EdgeMeas) (corrected : List Corrected) (s : State) : Out :=
  let a := ((s.correctAll corrected).endBeat (s.queueFull s.waitSecs) s.waitWord).receive (s.measured edge)
  let a := a.capEdge.thermalEdge.quenchEdge.arrayEdge.switchEdge.ctrlSlots.startReasons
  whenB (s.mainOn && !s.discards edge) s a

/-- BEAT_LOSS (R25): three beats without an accepted edge; the fallback source, or holdover. -/
def execBeatLoss (s : State) : Out :=
  let b := s.bea
  let other := b.fallCur != 0 && b.fallCur != b.srcAct && !b.lost
  let a := if other then { b with srcAct := b.fallCur, lost := true, missed := 0, lock := false, slewing := false }
    else { b with hold := true, lost := true, missed := 0, heldBeats := 0, lock := false, slewing := false }
  whenB (s.mainOn && !b.generated && decide (3 ≤ b.missed)) s (({ s with bea := a }).raise .bea 0)

/-- HOLDOVER_EXPIRY (R26). BEA_STATUS goes on to show HOLD and the source that was lost (log entry 101). -/
def execHoldoverExpiry (s : State) : Out :=
  let b := s.bea
  whenB (b.hold && !b.holdExp && decide (fldN b.ctrl 16 16 ≤ b.heldBeats)) s
    (({ s with bea := { b with holdExp := true } }).raise .bea 2)

/-- The receiver takes a source back with the phase found; `lost` says that SRC itself is still lost. -/
def Bea.takeBack (b : Bea) (src : BitVec 2) (lost : Bool) (phase : BitVec 32) : Bea :=
  { b with srcAct := src, hold := false, holdExp := false, lost := lost, missed := 0, heldBeats := 0,
           slewing := true, phaseErr := phase, lock := false }

/-- SOURCE_RECOVERY (R26): the source SRC, or in holdover the source FALLBACK, returns with the phase found, which is then
slewed away. -/
def execSourceRecovery (fallback : Bool) (phase : BitVec 32) (s : State) : Out :=
  let b := s.bea
  let a := if fallback then b.takeBack b.fallCur true phase else b.takeBack b.srcCur false phase
  whenB (s.mainOn && b.lost && (!fallback || (b.hold && b.fallCur != 0 && b.fallCur != b.srcCur))) s
    (({ s with bea := a }).raiseIf (!within phase 20) .bea 1)

/-! ## Register writes of BEA that act at once -/

/-- A write of BEA_LOAD (R30). -/
def State.putBeaLoad (s : State) (v : Word) : State :=
  if s.mayLoad then { s with bea := { s.bea with loadPend := some v } } else s.raise .bea 7

/-- A write of BEA_ALARM (R31): it fires at once in the beat it names. -/
def State.putBeaAlarm (s : State) (v : Word) : State :=
  let s := { s with bea := { s.bea with alarm := v } }
  s.raiseIf (v != 0 && v == s.bea.count) .bea 3

end Sys2Proof.Machine
end

