-- ==== Sys2Proof/Machine/Issue.lean ====
section
/-! DEFINITION. Array words between the Conductor and the units: the checks at enqueue (R61, R68), the section queues
(R69), when a word may issue (R42 to R44, R87), what completes it, and its summary (R60). -/

namespace Sys2Proof.Machine

/-! ## The word (R86) -/

/-- The bits of the word that a command with this opcode carries. -/
def arrayWord (opc : BitVec 8) (a : ArrayArgs) : AWord :=
  opc ++ a.sec ++ a.waitb ++ a.flg ++ a.a ++ a.b ++ a.c

/-- OPC. -/
def wOpc (w : AWord) : BitVec 8 := fld w 120 8
/-- SEC. -/
def wSec (w : AWord) : BitVec 2 := fld w 118 2
/-- WAITB. -/
def wWait (w : AWord) : Nat := fldN w 104 14
/-- FLG. -/
def wFlg (w : AWord) : BitVec 8 := fld w 96 8
/-- Field A. -/
def wA (w : AWord) : BitVec 32 := fld w 64 32
/-- Field B. -/
def wB (w : AWord) : BitVec 32 := fld w 32 32
/-- Field C. -/
def wC (w : AWord) : BitVec 32 := fld w 0 32
/-- SUMM. -/
def wSumm (w : AWord) : Bool := bitAt w 103

/-- The opcodes that produce a summary (R61, R102, R150, R204, R242, R280, R316, R336). -/
def summOpcodes : List Nat :=
  [0x01, 0x02, 0x03, 0x04, 0x05, 0x06, 0x07, 0x08, 0x09, 0x0A, 0x0B, 0x0C, 0x0D, 0x0E, 0x0F] ++
  [0x20, 0x21, 0x22, 0x40, 0x41, 0x42, 0x43, 0x48, 0x49, 0x60, 0x61, 0x62, 0x82, 0xA1, 0xA4, 0xA7] ++
  [0xB0, 0xD0, 0xD2, 0xD3, 0xD4, 0xD5, 0xD6, 0xD7, 0xD9]

/-- The word's opcode, with BLAUNCH only when its WAIT bit is set, produces a summary (R242). -/
def makesSummary (w : AWord) : Bool :=
  summOpcodes.contains (wOpc w).toNat || (wOpc w == 0xA0 && bitAt (wFlg w) 4)

/-- How the word's delivery combines (R150, R273): ORed under SMOR, otherwise it replaces. -/
def wCombine (w : AWord) : Combine :=
  if [0x60, 0x61, 0x62, 0xA4].contains (wOpc w).toNat && bitAt (wFlg w) 6 then .orInto else .replace

/-- The summary registers that a CSCAL or TDCMP reads. -/
def wordSrcs (w : AWord) : List (BitVec 4) :=
  if wOpc w = 0xB0 then [fld (wB w) 0 4]
  else if wOpc w = 0xD3 then [fld (wA w) 0 4, fld (wA w) 4 4] else []

/-- The opcodes that are reserved within a defined class: enqueued, and refused by their unit at issue. -/
def reservedOpc (o : Nat) : Bool :=
  (decide (0x10 ≤ o) && decide (o ≤ 0x1F)) || (decide (0x23 ≤ o) && decide (o ≤ 0x3F))
    || (decide (0x44 ≤ o) && decide (o ≤ 0x47)) || (decide (0x4A ≤ o) && decide (o ≤ 0x5F))
    || (decide (0x63 ≤ o) && decide (o ≤ 0x7F)) || (decide (0x83 ≤ o) && decide (o ≤ 0x9F))
    || o == 0xA2 || o == 0xA3 || (decide (0xA8 ≤ o) && decide (o ≤ 0xAF))
    || (decide (0xB6 ≤ o) && decide (o ≤ 0xBF)) || (decide (0xDA ≤ o) && decide (o ≤ 0xDF))

/-- The class of an opcode, by its range (R86): 1 matrix, 2 convolution, 3 vector, 4 moves, 5 bank and update,
6 collectives, 7 beat, 8 twin, 9 NOP. -/
def opcClass (o : Nat) : Nat :=
  if o < 0x40 then 1 else if o < 0x60 then 2 else if o < 0x80 then 3 else if o < 0xA0 then 4
  else if o < 0xB0 then 5 else if o < 0xC0 then 6 else if o < 0xD0 then 7 else if o < 0xE0 then 8 else 9

/-! ## Enqueueing (R67 to R69) -/

/-- The check of R68 that fails first, as a CND_EXC code. -/
def enqueueCheck (part : BitVec 2) (w : AWord) : Option Nat :=
  let o := (wOpc w).toNat
  let sec := wSec w
  if o = 0 ∨ (0xC4 ≤ o ∧ o ≤ 0xCF) ∨ (0xE0 ≤ o ∧ o ≤ 0xFE) then some 0x02
  else if part = 1 ∧ (sec = 1 ∨ sec = 2) then some 0x03
  else if (o = 0xC1 ∧ (sec ≠ 0 ∨ fldN w 0 3 = 0)) ∨ (o = 0xC3 ∧ (sec ≠ 0 ∨ fldN w 0 2 = 0 ∨ fldN w 0 2 = 3)) then
    some 0x04
  else if wSumm w && !makesSummary w then some 0x0A
  else none

/-- Deliveries announced and not yet applied to a summary register: its pending count (R60). -/
def State.pendingSm (s : State) (n : BitVec 4) : Nat := (s.cnd.deliv.filter (fun d => d.sm == n)).length

/-- Some delivery to `n` of a word enqueued before `seq` is pending. -/
def State.pendingBefore (s : State) (n : BitVec 4) (seq : Nat) : Bool :=
  s.cnd.deliv.any (fun d => d.sm == n && decide (d.seq < seq))

/-- A summary register. -/
def State.smAt (s : State) (n : BitVec 4) : Word := s.cnd.sm[n.toNat]

/-- What a word reads of a summary register at this point of the enqueue order. -/
def State.srcNow (s : State) (seq : Nat) (n : BitVec 4) : BitVec 4 × Option Word :=
  (n, if s.pendingBefore n seq then none else some (s.smAt n))

/-- A group instance as it is numbered at enqueue (R315). -/
def Inst.numbered (grp num seq : Nat) (kind : InstKind) (word : AWord) : Inst :=
  { grp := grp, num := num, seq := seq, kind := kind, word := word, started := false, abandoned := false, beat := 0,
    warned := false, zAddr := 0, zSlot := 0, nx := 0, nz := 0, clash := false, own := [], rx := [], sent := [],
    recvd := [], part := [], written := [], dests := [],
    ring := { dim := 0, step := 0, half := false, acc := (0, false), vp := (0, false), vm := (0, false), inbox := [],
              done := false } }

/-- What kind of instance a collective word is, if it is one. -/
def instKind (w : AWord) : Option InstKind :=
  let op := fldN (wA w) 16 4
  match (wOpc w).toNat with
  | 0xB0 => some (.scalar op)
  | 0xB1 => some .reduceScatter
  | 0xB2 => some .gather
  | 0xB3 => some (.allReduce op)
  | 0xB4 => some (.broadcast (fldN (wB w) 16 16))
  | 0xC2 => some (.barrier (wC w))
  | _ => none

/-- Number the word's instance in its group, if it is one (R315). -/
def State.numberInst (s : State) (w : AWord) (seq : Nat) : State :=
  match instKind w with
  | none => s
  | some k =>
    let g := fldN (wA w) 0 16
    let n := smGet 0 s.fol.counts g
    { s with fol := { s.fol with counts := smPut 0 s.fol.counts g (n + 1),
                                 insts := s.fol.insts ++ [Inst.numbered g n seq k w] } }

/-- The entry that a word makes in the queue of section bit `i`. -/
def State.entryFor (s : State) (w : AWord) (seq : Nat) (i : Nat) : QEnt :=
  { word := w, step := s.cnd.step, seq := seq, base := if bitAt s.cnd.fresh i then some s.cnd.mentry else none,
    srcs := (wordSrcs w).map (s.srcNow seq) }

/-- Place a word in the queues of its sections. -/
def State.pushWord (s : State) (w : AWord) : State :=
  let secs := wordSecs s.cnd.part w
  let seq := s.cnd.nextSeq
  let h := s.sheet
  let put (i : Nat) (q : List QEnt) : List QEnt := if bitAt secs i then q ++ [s.entryFor w seq i] else q
  let deliv := if wSumm w then s.cnd.deliv ++ [⟨fld (wFlg w) 0 4, seq, wCombine w, none⟩] else s.cnd.deliv
  let part := if wOpc w = 0xC3 then fld w 0 2 else s.cnd.part
  let s := s.numberInst w seq
  { s with
      sheet := { h with qF := put 0 h.qF, qB := put 1 h.qB, qH := put 2 h.qH }
      cnd := { s.cnd with nextSeq := seq + 1, deliv := deliv, part := part, fresh := s.cnd.fresh &&& ~~~ secs } }

/-- How an enqueue ends. -/
inductive Enq where
  | refused (code : Nat)
  | stalled
  | ok (s : State)

/-- Enqueue a word (R68, R69, R60): it is refused, or stalls on a full queue or on a pending count of 63. -/
def State.enqueue (s : State) (w : AWord) : Enq :=
  match enqueueCheck s.cnd.part w with
  | some c => .refused c
  | none =>
    if s.queueFull (wordSecs s.cnd.part w) then .stalled
    else if wSumm w && decide (63 ≤ s.pendingSm (fld (wFlg w) 0 4)) then .stalled
    else .ok (s.pushWord w)

/-! ## Issue (R42 to R44, R69, R87) -/

/-- The queue of section bit `i` (0 F, 1 B, 2 H). -/
def Sheet.queue (h : Sheet) (i : Nat) : List QEnt := if i = 0 then h.qF else if i = 1 then h.qB else h.qH

/-- The issue beat of the last word of section bit `i`. -/
def Sheet.last (h : Sheet) (i : Nat) : Word := if i = 0 then h.lastF else if i = 1 then h.lastB else h.lastH

/-- The word that holds section bit `i` until it completes, if any. -/
def Sheet.holder (h : Sheet) (i : Nat) : Option Nat := if i = 0 then h.holdF else if i = 1 then h.holdB else h.holdH

/-- Issued words that section bit `i` holds. -/
def Sheet.buffered (h : Sheet) (i : Nat) : Nat := (h.issued.filter (fun w => bitAt w.secs i)).length

/-- ARY_CFG.WBUF in force. -/
def Sheet.wbuf (h : Sheet) : Nat := fldN h.set.current.cfg 4 4

/-- Section bit `i` waits at an SBAR, an FBAR or a partition switch, which closes the queues F and B only (log entry
103). -/
def Sheet.barred (h : Sheet) (i : Nat) : Bool :=
  h.sbars.any (fun b => bitAt b.got i) || h.fbars.any (fun b => bitAt b.secs i) || (decide (i < 2) && h.switch.isSome)

/-- The ready(k) of R42 for section bit `i`: the Sheet in RUN for F and B and no clock anneal under way (R362), room in the
buffer, nothing holding it. -/
def State.sectReady (s : State) (i : Nat) : Bool :=
  (decide (i = 2) || (s.running .ary && !s.pwr.annealing)) && !s.sheet.barred i && (s.sheet.holder i).isNone
    && decide (s.sheet.buffered i < if i = 2 then 8 else s.sheet.wbuf)

/-- The wait of the entry at the head of section bit `i` has run out (R42). -/
def State.sectDue (s : State) (i : Nat) (e : QEnt) : Bool :=
  decide (((e.base.getD (s.sheet.last i)).toNat + wWait e.word) ≤ s.bea.count.toNat)

/-- What a word needs has its clock: in PS1 those of matrix units, lanes and movers stand still (R388). -/
def State.clocked (s : State) (i : Nat) (w : AWord) : Bool := s.sys.ps == 0 || (i == 2 && (wOpc w).toNat / 32 != 4)

/-- The entry at the head of section bit `i`, if it may issue now. -/
def State.headDue (s : State) (i : Nat) : Option QEnt :=
  match s.sheet.queue i with
  | e :: _ => if s.sectReady i && s.sectDue i e && s.clocked i e.word then some e else none
  | [] => none

/-- The entry at the head of every section of a set, if it may issue now; a joint word leaves both queues together. -/
def State.headOf (s : State) (secs : BitVec 3) : Option QEnt :=
  if secs = 3 then
    match s.headDue 0, s.headDue 1 with
    | some a, some b => if a.seq = b.seq then some a else none
    | _, _ => none
  else s.headDue (if secs = 1 then 0 else if secs = 2 then 1 else 2)

/-- The sections that a SEC field names. -/
def secsOf (sec : BitVec 2) : BitVec 3 := if sec = 0 then 3 else if sec = 1 then 1 else if sec = 2 then 2 else 4

/-- The entry of the word with this opcode and these fields, if it may issue now. -/
def State.issuing (s : State) (opc : BitVec 8) (a : ArrayArgs) : Option QEnt :=
  match s.headOf (secsOf a.sec) with
  | some e => if e.word = arrayWord opc a then some e else none
  | none => none

/-- A word leaves its queues and counts as issued in the beat in progress; it is the one whose operands are read. -/
def State.taken (s : State) (secs : BitVec 3) (e : QEnt) : State :=
  let h := s.sheet
  let c := s.bea.count
  { s with
    sheet := { h with
      qF := if bitAt secs 0 then h.qF.tail else h.qF
      qB := if bitAt secs 1 then h.qB.tail else h.qB
      qH := if bitAt secs 2 then h.qH.tail else h.qH
      lastF := if bitAt secs 0 then c else h.lastF
      lastB := if bitAt secs 1 then c else h.lastB
      lastH := if bitAt secs 2 then c else h.lastH
      issued := h.issued ++ [⟨e.seq, wOpc e.word, secs, .none, []⟩], writers := [] }
    lnk := { s.lnk with reading := e.seq } }

/-- Change the issued word with enqueue number `seq`. -/
def State.onIssued (s : State) (seq : Nat) (f : Issued → Issued) : State :=
  { s with sheet := { s.sheet with issued := s.sheet.issued.map (fun w => if w.seq = seq then f w else w) } }

/-- The issued word waits for `h` before it may complete. -/
def State.holdFor (s : State) (seq : Nat) (h : Hold) : State := s.onIssued seq (fun w => { w with hold := h })

/-- What the issued word waited for has happened. -/
def State.freeHold (s : State) (seq : Nat) : State := s.holdFor seq .none

/-- Record the places that the issued word writes (R79, R228). -/
def State.destsOf (s : State) (seq : Nat) (ds : List (Nat × Nat)) : State :=
  s.onIssued seq (fun w => { w with dests := w.dests ++ ds })

/-- The word keeps later H words from starting until it completes (R69). -/
def State.holdQueueH (s : State) (seq : Nat) : State := { s with sheet := { s.sheet with holdH := some seq } }

/-- The summary of the word with enqueue number `seq` is formed (R60). -/
def State.formSummary (s : State) (seq : Nat) (v : Word) : State :=
  { s with cnd := { s.cnd with
      deliv := s.cnd.deliv.map (fun d => if d.seq = seq then { d with value := some v } else d) } }

/-- An entry of the same class as `opc`, with a reserved opcode, that may issue now. -/
def State.reservedDue (s : State) (opc : Nat) : Option (BitVec 3 × QEnt) :=
  [(3 : BitVec 3), 1, 2, 4].findSome? (fun secs =>
    match s.headOf secs with
    | some e =>
      if reservedOpc (wOpc e.word).toNat && opcClass (wOpc e.word).toNat == opcClass opc
          && secsOf (wSec e.word) == secs then
        some (secs, e) else none
    | none => none)

/-- What the word meets if it issues now: the lines of T3 that it reads and that have not come for it, and whether it
touches a page in move. Nothing can be met while no aperture is open and no page is in move. -/
def State.tried (s : State) (secs : BitVec 3) (e : QEnt) (effect : QEnt → State → State) : Trial :=
  if s.lnk.aps.isEmpty && s.tmv.moving.isEmpty then ⟨[], false⟩
  else
    let t := s.taken secs e
    ((effect e { t with lnk := { t.lnk with trial := some ⟨[], false⟩ } }).lnk.trial).getD ⟨[], false⟩

/-- The word waits: it reads T3 lines that have not come, which are fetched, or touches a page in move (R188, R302). -/
def Trial.clear (t : Trial) : Bool := t.lines.isEmpty && !t.held

/-- A command that issues an array word. It acts when its word may issue and what it reads has come; where instead a word
of its class with a reserved opcode may issue, that word is refused by its unit (log entry 25); otherwise the word
waits. -/
def arrayCmd (opc : BitVec 8) (a : ArrayArgs) (effect refuse : QEnt → State → State) (s : State) : Out :=
  match s.issuing opc a with
  | some e =>
    let t := s.tried (secsOf a.sec) e effect
    .next (if t.clear then effect e (s.taken (secsOf a.sec) e) else s.fetch e.seq t.lines)
  | none =>
    match s.reservedDue opc.toNat with
    | some (secs, e) => .next (refuse e (s.taken secs e))
    | none => .next s

/-! ## Completion and summaries -/

/-- Beat 0 of a waiting partition switch is fixed once no earlier word of the Sheet is left (R48). -/
def State.switchBegin (s : State) : State :=
  match s.sheet.switch with
  | some w =>
    if w.beat0.isNone && !w.stuck && s.sheet.issued.all (fun i => i.seq == w.seq || i.secs &&& 3 == 0) then
      let s := { s with sheet := { s.sheet with switch := some { w with beat0 := some s.bea.count } } }
      if w.same then s else s.setFnState .ary .stopping
    else s
  | none => s

/-- The words completed by F and by B (R108). -/
def countWord (words : Word) (secs : BitVec 3) : Word :=
  pair32 ((hi32 words + (bitAt secs 1).toNat) % 2 ^ 32) ((lo32 words + (bitAt secs 0).toNat) % 2 ^ 32)

/-- An issued word completes: it frees its buffer entry and whatever it held. What it wrote while an uncorrectable
error awaits its stop is undefined (R228). -/
def State.completeWord (s : State) (w : Issued) : State :=
  let h := s.sheet
  let drop (o : Option Nat) : Option Nat := if o = some w.seq then none else o
  let s := if s.mdv.uncorr.isSome then s.spoil w.dests else s
  let s : State := { s with
    sheet := { h with
      issued := h.issued.filter (fun i => i.seq != w.seq)
      words := countWord h.words w.secs
      holdF := drop h.holdF, holdB := drop h.holdB, holdH := drop h.holdH }
    lnk := { s.lnk with got := s.lnk.got.filter (fun g => g.1 != w.seq) } }
  s.switchBegin.aryRest

/-- Opcodes that complete by an event of their own: SBAR, FBAR, PART. -/
def ownRelease (o : BitVec 8) : Bool := o == 0xC1 || o == 0xC2 || o == 0xC3

/-- WORD_COMPLETE (R87, R69): an issued word whose work is done and that waits for nothing. -/
def execWordComplete (seq : Nat) (s : State) : Out :=
  match s.sheet.issued.find? (fun w => w.seq == seq) with
  | some w => whenB (w.hold == .none && !ownRelease w.opc) s (s.completeWord w)
  | none => .next s

/-- The entries of a queue that read register `n` and wait for no earlier delivery take its value. -/
def fillSrcs (s : State) (n : BitVec 4) (q : List QEnt) : List QEnt :=
  q.map (fun e => { e with srcs := e.srcs.map (fun p =>
    if p.1 = n && p.2.isNone && !s.pendingBefore n e.seq then (n, some (s.smAt n)) else p) })

/-- A delivery is applied to its register. -/
def State.applyDelivery (s : State) (d : Delivery) (v : Word) : State :=
  let old := s.smAt d.sm
  let c := s.cnd
  let s := { s with cnd := { c with
      sm := c.sm.set d.sm.toNat (match d.combine with | .replace => v | .orInto => old ||| v)
      deliv := c.deliv.erase d } }
  let h := s.sheet
  { s with sheet := { h with qF := fillSrcs s d.sm h.qF, qB := fillSrcs s d.sm h.qB, qH := fillSrcs s d.sm h.qH } }

/-- SUMMARY_DELIVERY (R60): the oldest delivery announced to the register, once its word has formed it. -/
def execSummaryDelivery (sm : BitVec 4) (s : State) : Out :=
  match s.cnd.deliv.find? (fun d => d.sm == sm) with
  | some d => .next (match d.value with | some v => s.applyDelivery d v | none => s)
  | none => .next s

end Sys2Proof.Machine
end

