-- ==== Sys2Proof/Machine/Faults.lean ====
section
/-! DEFINITION. The fault records of the units (R98, R108, R144, R206, R251, R281, R328, R346) and what a unit does with
a word that fails a check or stops at a translation fault. -/

namespace Sys2Proof.Machine

/-- A failed check or a fault during execution: CODE, the bit of the cause, the core (0x3FF if not core-specific), the
low 32 bits of the record above VALID, and the address recorded, if any. -/
structure Flaw where
  code  : Nat
  cause : Nat
  core  : Nat
  low   : Nat
  addr  : Option Nat
  deriving DecidableEq, Repr

/-- A flaw found at issue, with a descriptor index as ARY_FAULT shows it. -/
def flawDesc (code cause desc : Nat) : Flaw := ⟨code, cause, 0x3FF, 2 ^ 16 * desc, none⟩

/-- A flaw found at issue, with an index at [31:8]. -/
def flawIndex (code cause index : Nat) : Flaw := ⟨code, cause, 0x3FF, 2 ^ 8 * (index % 2 ^ 24), none⟩

/-- Put a record and its address, 48 bits wide, into a block's fault registers. -/
def State.putFault (s : State) (b : Blk) (v : Word) (addr : Option Nat) : State :=
  let a (old : Word) : Word := match addr with | some u => BitVec.ofNat 64 (u % 2 ^ 48) | none => old
  let s := s.filled b
  match b with
  | .ary => { s with sheet := { s.sheet with fault := v, faultAddr := a s.sheet.faultAddr } }
  | .vec => { s with vec := { s.vec with fault := v, faultAddr := a s.vec.faultAddr } }
  | .tmv => { s with tmv := { s.tmv with fault := v, faultAddr := a s.tmv.faultAddr } }
  | .bnk => { s with bnk := { s.bnk with fault := v, faultAddr := a s.bnk.faultAddr } }
  | .upd => { s with upd := { s.upd with fault := v, faultAddr := a s.upd.faultAddr } }
  | .fol => { s with fol := { s.fol with fault := v, faultAddr := a s.fol.faultAddr } }
  | .twn => { s with twn := { s.twn with fault := v, faultAddr := a s.twn.faultAddr } }
  | _ => s

/-- The record that a block holds. -/
def State.faultOf (s : State) : Blk → Word
  | .ary => s.sheet.fault | .vec => s.vec.fault | .tmv => s.tmv.fault | .bnk => s.bnk.fault
  | .upd => s.upd.fault | .fol => s.fol.fault | .twn => s.twn.fault | _ => 0

/-- The tag that a bank word names; 0 for a reserved opcode. -/
def bankTag (w : AWord) : BitVec 4 := if wOpc w = 0xA0 then fld (wA w) 16 4 else if wOpc w = 0xA1 then fld (wA w) 0 4 else 0

/-- The record of a flaw of a word; TWN_FAULT shows neither SEC nor CORE, BNK_FAULT shows the tag. -/
def flawWord (b : Blk) (w : AWord) (f : Flaw) : Word :=
  let o := (wOpc w).toNat
  match b with
  | .bnk => putAt 56 8 f.code ||| putAt 52 4 (bankTag w).toNat ||| putAt 0 52 (f.low + 1)
  | .twn => putAt 56 8 f.code ||| putAt 48 8 o ||| putAt 0 32 (f.low + 1)
  | _ => faultWord f.code o (wSec w).toNat f.core (f.low + 1)

/-- Record a flaw if the block holds no record since its causes were last all zero, and set the cause. -/
def State.flaw (s : State) (b : Blk) (w : AWord) (f : Flaw) : State :=
  let s := if recordFree s b (bitAt (s.faultOf b) 0) then s.putFault b (flawWord b w f) f.addr else s
  s.raise b f.cause

/-- A word fails a check at issue: the cause, the record, and 0 to its summary register (R98). -/
def State.refuse (s : State) (b : Blk) (e : QEnt) (f : Flaw) : State := (s.flaw b e.word f).formSummary e.seq 0

/-- Check fields of a word: FLG[6:4] allowed by a mask, FLG[3:0] zero without SUMM (R86). -/
def flgOk (flg : BitVec 8) (allowed : BitVec 8) : Bool :=
  (flg &&& 0x70 &&& ~~~ allowed) == 0 && (bitAt flg 7 || flg &&& 0x0F == 0)

/-- The first check of a list that fails. -/
def firstFlaw (l : List (Bool × Flaw)) : Option Flaw := (l.find? (·.1)).map (·.2)

/-- The refusal of a reserved opcode by the unit of its class: code 0x01, BADOP (bit 0 of every such block). -/
def refuseReserved (b : Blk) (e : QEnt) (s : State) : State := s.refuse b e ⟨0x01, 0, 0x3FF, 0, none⟩

end Sys2Proof.Machine
end

