-- ==== Sys2Proof/Machine/Formats.lean ====
section
/-! DEFINITION. Number formats (R110 to R115), exact values, and conversion out of an exact value (R123 to R126,
R307 to R310). -/

namespace Sys2Proof.Machine

/-! ## Exact values -/

/-- An exact value: NaN, an infinity, or a sign and `mant` × 2^`exp`. -/
inductive Num where
  | nan
  | inf (neg : Bool)
  | fin (neg : Bool) (mant : Nat) (exp : Int)
  deriving DecidableEq, Repr

/-- Zero. -/
def Num.zero : Num := .fin false 0 0

/-- The value is finite. -/
def Num.isFin : Num → Bool
  | .fin .. => true
  | _ => false

/-- The value is NaN. -/
def Num.isNan : Num → Bool
  | .nan => true
  | _ => false

/-- The value is a zero of either sign. -/
def Num.isZero : Num → Bool
  | .fin _ 0 _ => true
  | _ => false

/-- The sign. -/
def Num.neg : Num → Bool
  | .nan => false
  | .inf n => n
  | .fin n _ _ => n

/-- A finite value with an integer significand. -/
def Num.ofInt (i : Int) (e : Int) : Num := .fin (decide (i < 0)) i.natAbs e

/-- floor(log2) of the magnitude of a finite nonzero value. -/
def Num.log2 : Num → Option Int
  | .fin _ m e => if m = 0 then none else some ((Nat.log2 m : Int) + e)
  | _ => none

/-- The signed significand at exponent `e`, which is at most the value's own. -/
def sigAt (n : Bool) (m : Nat) (x e : Int) : Int :=
  let v : Int := (m * 2 ^ (x - e).toNat : Nat)
  if n then -v else v

/-- Exact product, with the non-finite rules of IEEE 754-2019 multiplication (R115). -/
def Num.mul : Num → Num → Num
  | .nan, _ => .nan
  | _, .nan => .nan
  | .inf a, .inf b => .inf (a != b)
  | .inf a, .fin b m _ => if m = 0 then .nan else .inf (a != b)
  | .fin a m _, .inf b => if m = 0 then .nan else .inf (a != b)
  | .fin a m e, .fin b n f => .fin (a != b) (m * n) (e + f)

/-- Exact sum; a zero sum is negative only if both operands are. -/
def Num.add : Num → Num → Num
  | .nan, _ => .nan
  | _, .nan => .nan
  | .inf a, .inf b => if a = b then .inf a else .nan
  | .inf a, .fin .. => .inf a
  | .fin .., .inf b => .inf b
  | .fin a m e, .fin b n f =>
    let x := if e ≤ f then e else f
    let v := sigAt a m e x + sigAt b n f x
    if v = 0 then .fin (a && b) 0 0 else .fin (decide (v < 0)) v.natAbs x

/-- The negated value. -/
def Num.negate : Num → Num
  | .nan => .nan
  | .inf a => .inf (!a)
  | .fin a m e => .fin (!a) m e

/-- The value × 2^k. -/
def Num.scale (k : Int) : Num → Num
  | .fin a m e => .fin a m (e + k)
  | v => v

/-- Comparison of finite values as integers at a common exponent. -/
def finCmp (a : Bool) (m : Nat) (e : Int) (b : Bool) (n : Nat) (f : Int) : Ordering :=
  let x := if e ≤ f then e else f
  compare (sigAt a m e x) (sigAt b n f x)

/-- Order of two values, none if either is NaN; the two zeros are equal. -/
def Num.cmp : Num → Num → Option Ordering
  | .nan, _ => none
  | _, .nan => none
  | .inf a, .inf b => some (if a = b then .eq else if a then .lt else .gt)
  | .inf a, .fin .. => some (if a then .lt else .gt)
  | .fin .., .inf b => some (if b then .gt else .lt)
  | .fin a m e, .fin b n f => some (finCmp a m e b n f)

/-- |value| ≥ 2^k. -/
def Num.atLeast (k : Int) (v : Num) : Bool :=
  match v.log2 with
  | some l => decide (k ≤ l)
  | none => false

/-! ## Format codes (R110) -/

/-- The formats of R110, and the E5M6 element of R308. -/
inductive Fm where
  | fp32 | bf16 | fp16 | e4m3 | e5m2 | e3m2 | e2m3 | e2m1 | int8 | int4 | a128 | e8m0 | cb (n : Nat) | e5m6
  deriving DecidableEq, Repr

/-- The format that a code selects. -/
def fmOf (code : Nat) : Fm :=
  match code with
  | 0 => .fp32 | 1 => .bf16 | 2 => .fp16 | 3 => .e4m3 | 4 => .e5m2 | 5 => .e3m2 | 6 => .e2m3 | 7 => .e2m1
  | 8 => .int8 | 9 => .int4 | 10 => .a128 | 11 => .e8m0 | n => .cb (n - 12)

/-- What the top exponent of a float layout encodes. -/
inductive Special where
  | ieee | topNan | none
  deriving DecidableEq, Repr

/-- A float layout: exponent bits, fraction bits, bias, special encodings. -/
structure Lay where
  ebits : Nat
  frac  : Nat
  bias  : Nat
  spec  : Special
  deriving DecidableEq, Repr

/-- The float layout of a format. -/
def layOf : Fm → Option Lay
  | .fp32 => some ⟨8, 23, 127, .ieee⟩
  | .bf16 => some ⟨8, 7, 127, .ieee⟩
  | .fp16 => some ⟨5, 10, 15, .ieee⟩
  | .e4m3 => some ⟨4, 3, 7, .topNan⟩
  | .e5m2 => some ⟨5, 2, 15, .ieee⟩
  | .e3m2 => some ⟨3, 2, 3, .none⟩
  | .e2m3 => some ⟨2, 3, 1, .none⟩
  | .e2m1 => some ⟨2, 1, 1, .none⟩
  | .e5m6 => some ⟨5, 6, 15, .none⟩
  | _ => Option.none

/-- The width of an element in bits (R110, R308). -/
def Fm.width : Fm → Nat
  | .fp32 => 32 | .bf16 | .fp16 => 16 | .e3m2 | .e2m3 => 6 | .e2m1 | .int4 => 4 | .a128 => 128 | .e5m6 => 12
  | _ => 8

/-- INT8 or INT4. -/
def Fm.isInt : Fm → Bool
  | .int8 | .int4 => true
  | _ => false

/-- A codebook format. -/
def Fm.isCb : Fm → Bool
  | .cb _ => true
  | _ => false

/-- The least exponent of the unit of a layout: that of its subnormals. -/
def Lay.qmin (l : Lay) : Int := 1 - (l.bias : Int) - (l.frac : Int)

/-- The largest finite value, as significand and exponent. -/
def Lay.max (l : Lay) : Nat × Int :=
  match l.spec with
  | .ieee => (2 ^ (l.frac + 1) - 1, (2 ^ l.ebits - 2 : Nat) - (l.bias : Int) - l.frac)
  | .topNan => (2 ^ (l.frac + 1) - 2, (2 ^ l.ebits - 1 : Nat) - (l.bias : Int) - l.frac)
  | .none => (2 ^ (l.frac + 1) - 1, (2 ^ l.ebits - 1 : Nat) - (l.bias : Int) - l.frac)

/-- The exponent of a layout's largest normal (R125). -/
def Lay.emax (l : Lay) : Int := l.max.2 + l.frac

/-- The value of an encoding in a float layout (R110). -/
def Lay.decode (l : Lay) (v : Nat) : Num :=
  let m := v % 2 ^ l.frac
  let e := v / 2 ^ l.frac % 2 ^ l.ebits
  let s := v / 2 ^ (l.frac + l.ebits) % 2 == 1
  let top := e == 2 ^ l.ebits - 1
  if l.spec = .ieee ∧ top then (if m = 0 then .inf s else .nan)
  else if l.spec = .topNan ∧ top ∧ m = 2 ^ l.frac - 1 then .nan
  else if e = 0 then .fin s m l.qmin
  else .fin s (m + 2 ^ l.frac) ((e : Int) - l.bias - l.frac)

/-- Two's complement of width `w`. -/
def sext (w v : Nat) : Int := if v % 2 ^ w < 2 ^ (w - 1) then (v % 2 ^ w : Nat) else ((v % 2 ^ w : Nat) : Int) - 2 ^ w

/-- The encoding of an integer in two's complement of width `w`. -/
def unsext (w : Nat) (i : Int) : Nat := (i % (2 ^ w : Nat)).toNat

/-- The value of a BF16 word. -/
def bf16Val (v : Nat) : Num := (Lay.mk 8 7 127 .ieee).decode v

/-- The exact value of a stored element (R110, R114); codebook entries come from `book`, A128 elements are not read
here. -/
def decodeElem (book : Nat → Nat → BitVec 16) (f : Fm) (v : Nat) : Num :=
  match layOf f with
  | some l => l.decode v
  | none =>
    match f with
    | .int8 => .ofInt (sext 8 v) 0
    | .int4 => .ofInt (sext 4 v) 0
    | .e8m0 => if v = 255 then .nan else .fin false 1 ((v : Int) - 127)
    | .cb n => bf16Val (book n v).toNat
    | _ => .ofInt (sext 128 v) 0

/-- The canonical NaN of a layout that has one (R111). -/
def Lay.nan (l : Lay) : Option Nat :=
  match l.spec with
  | .ieee => some ((2 ^ l.ebits - 1) * 2 ^ l.frac + 2 ^ (l.frac - 1))
  | .topNan => some (2 ^ (l.frac + l.ebits) - 1)
  | .none => Option.none

/-! ## Rounding (R123, R126) -/

/-- `m` × 2^`e` rounded to units of 2^`q`, with q at least `e`: to nearest even, or stochastically against a draw. The
result's units, and whether it is inexact. -/
def roundUnits (draw : Option Nat) (m : Nat) (e q : Int) : Nat × Bool :=
  let k := (q - e).toNat
  let n := m / 2 ^ k
  let r := m % 2 ^ k
  let up := match draw with
    | Option.none => decide (2 ^ k < 2 * r) || (2 * r == 2 ^ k && n % 2 == 1)
    | some u => decide (u < r * 2 ^ 32 / 2 ^ k)
  (if up && decide (0 < k) then n + 1 else n, decide (r ≠ 0))

/-- The exponent of the unit at which a nonzero `m` × 2^`e` is rounded to `prec` bits, not below `qmin`. -/
def unitOf (prec : Nat) (qmin : Int) (m : Nat) (e : Int) : Int :=
  let q := (Nat.log2 m : Int) + 1 + e - prec
  if q < qmin then qmin else q

/-- A magnitude rounded to `prec` bits with units not below 2^`qmin`: units, their exponent, whether it is inexact. -/
def roundMag (draw : Option Nat) (prec : Nat) (qmin : Int) (m : Nat) (e : Int) : Nat × Int × Bool :=
  if m = 0 then (0, qmin, false)
  else
    let q := unitOf prec qmin m e
    if q ≤ e then (m * 2 ^ (e - q).toNat, q, false)
    else let r := roundUnits draw m e q; (r.1, q, r.2)

/-- The bits below the sign of `n` units of 2^`q` in a float layout. -/
def Lay.encode (l : Lay) (n : Nat) (q : Int) : Nat :=
  let big := decide (2 ^ (l.frac + 1) ≤ n)
  let n' := if big then n / 2 else n
  let q' := if big then q + 1 else q
  if n' < 2 ^ l.frac then n' else ((q' - l.qmin + 1).toNat) * 2 ^ l.frac + (n' - 2 ^ l.frac)

/-- `n` units of 2^`q` exceed the largest finite value of the layout. -/
def Lay.beyond (l : Lay) (n : Nat) (q : Int) : Bool :=
  finCmp false n q false l.max.1 l.max.2 == .gt

/-! ## Conversion (R123) -/

/-- A converted element: its bits, and whether it was saturated, a NaN written as zero, inexact, beyond the range, or
tiny (below the smallest normal after rounding). -/
structure Conv where
  bits    : Nat
  sat     : Bool := false
  nanz    : Bool := false
  inexact : Bool := false
  beyond  : Bool := false
  tiny    : Bool := false
  deriving DecidableEq, Repr

/-- The sign bit of a layout. -/
def Lay.sign (l : Lay) (neg : Bool) : Nat := if neg then 2 ^ (l.frac + l.ebits) else 0

/-- The largest finite value with a sign. -/
def Lay.maxBits (l : Lay) (neg : Bool) : Nat := l.sign neg + l.encode l.max.1 l.max.2

/-- The infinity with a sign. -/
def Lay.infBits (l : Lay) (neg : Bool) : Nat := l.sign neg + (2 ^ l.ebits - 1) * 2 ^ l.frac

/-- A magnitude beyond the largest finite value of a layout: infinity, or saturated. `mx` saturates every layout
(R125). -/
def Lay.outOfRange (l : Lay) (mx neg : Bool) : Conv :=
  if l.spec = .ieee ∧ !mx then { bits := l.infBits neg, beyond := true, inexact := true }
  else { bits := l.maxBits neg, sat := true, beyond := true, inexact := true }

/-- The rounded magnitude lies below the smallest normal of the layout. -/
def Lay.isTiny (l : Lay) (draw : Option Nat) (m : Nat) (e : Int) : Bool :=
  let r := roundMag draw (l.frac + 1) (e - 4096) m e
  decide (m ≠ 0) && finCmp false r.1 r.2.1 false 1 (1 - (l.bias : Int)) == .lt

/-- Conversion of an exact value to a float layout (R123, R126). Every zero result is +0. -/
def Lay.convert (l : Lay) (mx : Bool) (draw : Option Nat) (v : Num) : Conv :=
  match v with
  | .nan => match l.nan with
    | some b => { bits := b }
    | Option.none => { bits := 0, nanz := true }
  | .inf s => if l.spec = .ieee ∧ !mx then { bits := l.infBits s } else { bits := l.maxBits s, sat := true }
  | .fin s m e =>
    let r := roundMag draw (l.frac + 1) l.qmin m e
    if l.beyond r.1 r.2.1 then l.outOfRange mx s
    else { bits := if r.1 = 0 then 0 else l.sign s + l.encode r.1 r.2.1, inexact := r.2.2
           tiny := l.isTiny draw m e }

/-- Clamp to the range of a two's-complement width. -/
def clampI (w : Nat) (i : Int) : Int :=
  let hi : Int := 2 ^ (w - 1) - 1
  if i < -(2 ^ (w - 1)) then -(2 ^ (w - 1)) else if hi < i then hi else i

/-- The integer nearest to a finite value, ties to even, or rounded stochastically. -/
def roundInt (draw : Option Nat) (s : Bool) (m : Nat) (e : Int) : Int × Bool :=
  let r := if 0 ≤ e then (m * 2 ^ e.toNat, false) else roundUnits draw m e 0
  (if s then -(r.1 : Int) else r.1, r.2)

/-- Conversion to INT8 or INT4 (R123). -/
def convertInt (w : Nat) (draw : Option Nat) (v : Num) : Conv :=
  match v with
  | .nan => { bits := 0, nanz := true }
  | .inf s => { bits := unsext w (if s then -(2 ^ (w - 1)) else 2 ^ (w - 1) - 1), sat := true }
  | .fin s m e =>
    let r := roundInt draw s m e
    let c := clampI w r.1
    { bits := unsext w c, sat := decide (c ≠ r.1), inexact := r.2 }

/-- Conversion of an exact value to a format that holds one element (R123). -/
def convertTo (f : Fm) (draw : Option Nat) (v : Num) : Conv :=
  match layOf f with
  | some l => l.convert false draw v
  | none => convertInt f.width draw v

/-! ## MX and foil rows (R113, R125, R309) -/

/-- The larger of two optional logarithms. -/
def maxLog : Option Int → Option Int → Option Int
  | Option.none, b => b
  | a, Option.none => a
  | some a, some b => some (if a < b then b else a)

/-- The scale code and elements of a row (R125); a row with a non-finite value is scale 0xFF and zeros. -/
def mxRow (l : Lay) (draws : Nat → Option Nat) (row : List Num) : Nat × List Conv :=
  if row.all Num.isFin then
    match row.foldl (fun a v => maxLog a v.log2) Option.none with
    | Option.none => (0, row.map (fun _ => { bits := 0 }))
    | some g =>
      let t := g - l.emax
      let s : Int := if t < -127 then -127 else if 127 < t then 127 else t
      ((s + 127).toNat, row.zipIdx.map (fun p => l.convert true (draws p.2) (p.1.scale (-s))))
  else (255, row.map (fun _ => { bits := 0 }))

/-- The value of an element under its row's scale code (R113). -/
def scaled (code : Nat) (v : Num) : Num := if code = 255 then .nan else v.scale ((code : Int) - 127)

/-! ## Packing (R112) -/

/-- Element `n` of width `w` in a little-endian bit stream. -/
def elemAt (w : Nat) (bs : List Byte) (n : Nat) : Nat :=
  leNat ((bs.drop (n * w / 8)).take (w / 8 + 2)) / 2 ^ (n * w % 8) % 2 ^ w

/-- Elements of width `w` packed into one number, the first lowest. -/
def packNat (w : Nat) : List Nat → Nat
  | [] => 0
  | v :: t => v % 2 ^ w + 2 ^ w * packNat w t

/-- Elements of width `w` packed into bytes. -/
def packElems (w : Nat) (l : List Nat) : List Byte := leBytes (l.length * w / 8) (packNat w l)

/-! ## Slots (R91, R307) -/

/-- The element format of a foil: F12, F8, F6, F4. -/
def foilElem (foil : Nat) : Fm :=
  match foil with
  | 1 => .e5m6 | 2 => .e4m3 | 3 => .e3m2 | _ => .e2m1

/-- The bytes of 1,024 elements of width `w`. -/
def dataBytes (w : Nat) : Nat := 128 * w

/-- Rounded up to whole lines of 64 bytes. -/
def up64 (n : Nat) : Nat := (n + 63) / 64 * 64

/-- The size of a slot, or 0 for a combination that R91 or R309 marks invalid. -/
def slotSize (f : Fm) (mx : Bool) (foil : Nat) : Nat :=
  if foil = 0 then
    if mx then
      match f with
      | .e4m3 | .e5m2 | .e3m2 | .e2m3 | .e2m1 => up64 (dataBytes f.width + 32)
      | _ => 0
    else if f = .a128 then 16448 else dataBytes f.width
  else if mx then 0
  else match f with
    | .fp32 | .bf16 | .fp16 => up64 (dataBytes (foilElem foil).width + 36)
    | _ => 0

/-- The element formats whose slots may carry MX scales (R91). -/
def mxLay (f : Fm) : Lay := (layOf f).getD ⟨4, 3, 7, .topNan⟩

/-- The 1,024 elements of a slot of format `f` as stored bits. -/
def slotElems (f : Fm) (bs : List Byte) : List Nat := (List.range 1024).map (elemAt f.width bs)

/-- The 32 scale codes that follow the data of width `w`. -/
def slotScales (w : Nat) (bs : List Byte) : List Nat :=
  ((bs.drop (dataBytes w)).take 32).map (·.toNat)

/-- The values of a slot under its scales. -/
def scaledElems (f : Fm) (bs : List Byte) : List Num :=
  let sc := slotScales f.width bs
  (slotElems f bs).zipIdx.map (fun p => scaled (sc.getD (p.2 / 32) 0) ((mxLay f).decode p.1))

/-- The values of a foil slot converted to TF (R310). -/
def foilValues (tf : Fm) (foil : Nat) (bs : List Byte) : List Num :=
  (scaledElems (foilElem foil) bs).map (fun v => (mxLay tf).decode ((mxLay tf).convert false Option.none v).bits)

/-- The exact values of a slot (R110, R113, R114, R310); not for A128. -/
def slotValues (book : Nat → Nat → BitVec 16) (f : Fm) (mx : Bool) (foil : Nat) (bs : List Byte) : List Num :=
  if foil ≠ 0 then foilValues f foil bs
  else if mx then scaledElems f bs
  else (slotElems f bs).map (decodeElem book f)

/-- Rows of 32. -/
def rowsOf {α : Type} : Nat → List α → List (List α)
  | 0, _ => []
  | n + 1, l => l.take 32 :: rowsOf n (l.drop 32)

end Sys2Proof.Machine
end

