-- ==== Sys2Proof/Machine/Accum.lean ====
section
/-! DEFINITION. The A128 accumulator and its header (R116 to R122), the FP32-accumulate mode (R128), and the tiles of
the G-buffers. -/

namespace Sys2Proof.Machine

/-- An accumulator tile: its header fields (R118) and its 1,024 elements, as integers, or as FP32 words when `f32`. -/
structure Acc where
  ae    : Int
  high  : Bool
  loss  : Bool
  empty : Bool
  f32   : Bool
  terms : Nat
  vals  : List Int
  deriving DecidableEq, Repr

/-- An integer read as 128-bit two's complement. -/
def wrap128 (i : Int) : Int := sext 128 (unsext 128 i)

/-- The anchor field at [63:54] or of a descriptor. -/
def anchorOf (v : Nat) : Int := sext 10 v

/-- The header of a tile (R118). -/
def Acc.header (a : Acc) : Word :=
  putAt 54 10 (unsext 10 a.ae) ||| putBit 53 a.high ||| putBit 52 a.loss ||| putBit 51 a.empty ||| putBit 50 a.f32
    ||| putAt 0 48 a.terms

/-- A tile from its header and elements. -/
def accOf (h : Word) (vals : List Int) : Acc :=
  { ae := anchorOf (fldN h 54 10), high := bitAt h 53, loss := bitAt h 52, empty := bitAt h 51, f32 := bitAt h 50
    terms := fldN h 0 48, vals := vals }

/-- TERMS saturate at 2^48 − 1 (R117). -/
def satTerms (n : Nat) : Nat := min n (2 ^ 48 - 1)

/-- A cleared tile with anchor `ae` (R117); every element is 0, which is also FP32 +0 (R128). -/
def Acc.cleared (f32 : Bool) (ae : Int) : Acc :=
  { ae := if f32 then 0 else ae, high := false, loss := false, empty := true, f32 := f32, terms := 0
    vals := List.replicate 1024 0 }

/-! ## Adding products at an anchor (R116, R117) -/

/-- What a finite product adds at anchor `ae`: floor(p / 2^ae), and whether bits fall below. -/
def floorAt (ae : Int) (s : Bool) (m : Nat) (e : Int) : Int × Bool :=
  if ae ≤ e then (sigAt s m e ae, false)
  else
    let k := (ae - e).toNat
    let v : Int := if s then -(m : Int) else m
    (v / (2 ^ k : Nat), decide (m % 2 ^ k ≠ 0))

/-- One accumulator element with the flags it has raised. -/
structure Cell where
  i    : Int
  high : Bool
  loss : Bool
  deriving DecidableEq, Repr

/-- Add one product to an element at anchor `ae`; a non-finite product adds zero and sets HIGH (R115). -/
def Cell.add (ae : Int) (c : Cell) (p : Num) : Cell :=
  match p with
  | .fin s m e =>
    let t := floorAt ae s m e
    ⟨wrap128 (c.i + t.1), c.high || p.atLeast (ae + 126), c.loss || t.2⟩
  | _ => { c with high := true }

/-- Add several products. -/
def Cell.addAll (ae : Int) (c : Cell) (ps : List Num) : Cell := ps.foldl (Cell.add ae) c

/-- One FP32 word rounded to nearest even as IEEE 754-2019 gives it: a zero keeps its sign. -/
def rneFp32 (v : Num) : Conv :=
  match v with
  | .fin s _ _ =>
    let c := (Lay.mk 8 23 127 .ieee).convert false none v
    if c.bits = 0 ∧ s then { c with bits := 2 ^ 31 } else c
  | _ => (Lay.mk 8 23 127 .ieee).convert false none v

/-- The value of an FP32 word. -/
def fp32Val (v : Nat) : Num := (Lay.mk 8 23 127 .ieee).decode v

/-- Add one tile product's 32 products to an FP32 element with one rounding (R128). -/
def Cell.addFp32 (c : Cell) (ps : List Num) : Cell :=
  let r := rneFp32 (ps.foldl Num.add (.fin false 0 0) |>.add (fp32Val c.i.toNat))
  ⟨r.bits, c.high || !(fp32Val r.bits).isFin, c.loss || r.inexact⟩

/-- Add the products of every element, given per element, and `terms` terms. -/
def Acc.addProducts (a : Acc) (terms : Nat) (ps : List (List Num)) : Acc :=
  let cells := (a.vals.zip ps).map (fun p =>
    let c : Cell := ⟨p.1, false, false⟩
    if a.f32 then c.addFp32 p.2 else c.addAll a.ae p.2)
  { a with vals := cells.map (·.i), high := a.high || cells.any (·.high), loss := a.loss || cells.any (·.loss)
           empty := a.empty && terms == 0, terms := satTerms (a.terms + terms) }

/-- The anchor that the pre-pass chooses (R119). -/
def autoAnchor (ae : Int) (e : Option Int) : Int :=
  match e with
  | none => ae
  | some e => let t := e - 100; if 511 < t then 511 else if t < -512 then -512 else t

/-- The largest floor(log2) over finite nonzero products (R119). -/
def maxExp (ps : List Num) : Option Int := ps.foldl (fun a p => maxLog a p.log2) none

/-! ## Adding A128 values (R121) -/

/-- An element of a tile with anchor `src`, its integer aligned to anchor `dst` (R121). -/
def alignCell (dst src : Int) (j : Int) : Cell :=
  if dst < src then
    let k := (src - dst).toNat
    ⟨wrap128 (j * (2 ^ k : Nat)), decide (2 ^ 126 ≤ j.natAbs * 2 ^ k), false⟩
  else if src < dst then
    let k := (dst - src).toNat
    ⟨j / (2 ^ k : Nat), false, decide (j % (2 ^ k : Nat) ≠ 0)⟩
  else ⟨j, false, false⟩

/-- An A128 value: an integer with its anchor, flags and terms; the state of one reduction group. -/
structure Sum where
  i     : Int
  ae    : Int
  high  : Bool
  loss  : Bool
  empty : Bool
  terms : Nat
  deriving DecidableEq, Repr

/-- No term yet at an anchor. -/
def Sum.none (ae : Int) : Sum := ⟨0, ae, false, false, true, 0⟩

/-- One more term of an exact value (R116, R117). -/
def Sum.addNum (s : Sum) (v : Num) : Sum :=
  let c := Cell.add s.ae ⟨s.i, s.high, s.loss⟩ v
  { s with i := c.i, high := c.high, loss := c.loss, empty := false, terms := satTerms (s.terms + 1) }

/-- One A128 value added into another (R121). -/
def Sum.addSum (s j : Sum) : Sum :=
  let c := alignCell s.ae j.ae j.i
  { s with i := wrap128 (s.i + c.i), high := s.high || j.high || c.high, loss := s.loss || j.loss || c.loss
           empty := s.empty && j.empty, terms := satTerms (s.terms + j.terms) }

/-- The exact value of a sum: NaN under HIGH (R124). -/
def Sum.value (s : Sum) : Num := if s.high then .nan else .ofInt s.i s.ae

/-! ## Reading values out (R124) -/

/-- The exact values of a tile: FP32 words in FP32-accumulate mode; otherwise I × 2^AE, or NaN throughout when HIGH. -/
def Acc.values (a : Acc) : List Num :=
  if a.f32 then a.vals.map (fun v => fp32Val v.toNat)
  else if a.high then a.vals.map (fun _ => .nan)
  else a.vals.map (fun v => .ofInt v a.ae)

/-- The bytes of an A128 slot (R91, R118): integers, then the header with F32 0 and 56 zero bytes. -/
def Acc.slot (a : Acc) : List Byte :=
  packElems 128 (a.vals.map (unsext 128)) ++ leBytes 8 ({ a with f32 := false }.header.toNat) ++ List.replicate 56 0

/-- A tile read from an A128 slot: F32 and [49:48] taken as zero (R118). -/
def accOfSlot (bs : List Byte) : Acc :=
  let h := BitVec.ofNat 64 (leNat ((bs.drop 16384).take 8))
  { accOf h ((slotElems .a128 (bs.take 16384)).map (fun v => sext 128 v)) with f32 := false }

/-- A tile of FP32 values as GLOAD and MTACC load it in FP32-accumulate mode (R128). -/
def accOfFp32 (vals : List Nat) : Acc :=
  { ae := 0, high := false, loss := false, empty := false, f32 := true, terms := 0, vals := vals.map Int.ofNat }

/-! ## The G-buffers -/

/-- A tile of a G-buffer. The elements of an FP32 tile lie as R112 packs FP32 (log entry 30). -/
def State.acc (s : State) (c t : Nat) : Acc :=
  let h := smGet 0 s.headers (hdrKey c t)
  if bitAt h 50 then accOf h ((slotElems .fp32 (s.bytes (gBase c t) 4096)).map Int.ofNat)
  else accOf h ((slotElems .a128 (s.bytes (gBase c t) 16384)).map (fun v => sext 128 v))

/-- The bytes of a tile as the G-buffer holds them. -/
def Acc.bytes (a : Acc) : List Byte :=
  if a.f32 then packElems 32 (a.vals.map (fun v => v.toNat)) else packElems 128 (a.vals.map (unsext 128))

/-- The state with a tile of a G-buffer replaced. -/
def State.putAcc (s : State) (c t : Nat) (a : Acc) : State :=
  let s := s.putRun (gBase c t) a.bytes
  { s with headers := smPut 0 s.headers (hdrKey c t) a.header }

end Sys2Proof.Machine
end

