-- ==== Sys2Proof/Machine/Fp32.lean ====
section
/-! DEFINITION. FP32 arithmetic of the lanes and the bank cores (R133, R233): every operation is exact and rounded once
to nearest even, NaNs are canonical, and each result comes with its flags (R142, R234). -/

namespace Sys2Proof.Machine

/-- A result with the flags it raises: invalid, division by zero, overflow, underflow, non-finite. -/
structure FpOut where
  bits : BitVec 32
  nv   : Bool := false
  dz   : Bool := false
  of   : Bool := false
  uf   : Bool := false
  nf   : Bool := false
  deriving DecidableEq, Repr

/-- The canonical NaN. -/
def qnan32 : BitVec 32 := 0x7FC00000

/-- The value of an FP32 register. -/
def f32Num (v : BitVec 32) : Num := fp32Val v.toNat

/-- A signaling NaN. -/
def isSnan (v : BitVec 32) : Bool := (f32Num v).isNan && !bitAt v 22

/-- An exact value rounded once. -/
def fpRound (v : Num) : FpOut :=
  let c := rneFp32 v
  let b := BitVec.ofNat 32 c.bits
  { bits := b, of := c.beyond, uf := c.tiny && c.inexact, nf := !(f32Num b).isFin }

/-- The result of an invalid operation. -/
def fpInvalid : FpOut := { bits := qnan32, nv := true, nf := true }

/-- NaN operands: the canonical NaN, invalid only for a signaling NaN; otherwise `r`. -/
def fpNan (ops : List (BitVec 32)) (r : FpOut) : FpOut :=
  if ops.any (fun v => (f32Num v).isNan) then { bits := qnan32, nv := ops.any isSnan, nf := true } else r

/-- An exact result that is NaN although no operand is: invalid. -/
def fpExact (v : Num) : FpOut := if v.isNan then fpInvalid else fpRound v

/-- a + b. -/
def fpAdd (a b : BitVec 32) : FpOut := fpNan [a, b] (fpExact ((f32Num a).add (f32Num b)))

/-- a − b. -/
def fpSub (a b : BitVec 32) : FpOut := fpNan [a, b] (fpExact ((f32Num a).add (f32Num b).negate))

/-- a × b. -/
def fpMul (a b : BitVec 32) : FpOut := fpNan [a, b] (fpExact ((f32Num a).mul (f32Num b)))

/-- a × b + c with one rounding. -/
def fpFma (a b c : BitVec 32) : FpOut := fpNan [a, b, c] (fpExact (((f32Num a).mul (f32Num b)).add (f32Num c)))

/-- A quotient of finite values, with a last bit that says whether it goes on. -/
def quot (s : Bool) (m : Nat) (e : Int) (n : Nat) (f : Int) : Num :=
  let k := 240 + Nat.log2 n
  let q := m * 2 ^ k / n
  .fin s (2 * q + (if m * 2 ^ k % n = 0 then 0 else 1)) (e - f - k - 1)

/-- a / b. -/
def fpDiv (a b : BitVec 32) : FpOut :=
  fpNan [a, b]
    (match f32Num a, f32Num b with
      | .inf _, .inf _ => fpInvalid
      | .inf s, y => fpRound (.inf (s != y.neg))
      | x, .inf t => fpRound (.fin (x.neg != t) 0 0)
      | .fin s m e, .fin t n f =>
        if n = 0 then (if m = 0 then fpInvalid else { fpRound (.inf (s != t)) with dz := true })
        else fpRound (quot (s != t) m e n f)
      | _, _ => fpInvalid)

/-- The integer square root, bit by bit from bit `k`. -/
def isqrtFrom (n : Nat) : Nat → Nat → Nat
  | 0, r => r
  | k + 1, r => let t := r + 2 ^ k; isqrtFrom n k (if t * t ≤ n then t else r)

/-- floor(√n). -/
def isqrt (n : Nat) : Nat := isqrtFrom n (Nat.log2 n / 2 + 1) 0

/-- `m` × 2^`e` with an even exponent. -/
def evenExp (m : Nat) (e : Int) : Nat × Int := if e % 2 = 0 then (m, e) else (2 * m, e - 1)

/-- √ of a finite positive value, with a last bit that says whether it goes on. -/
def sqrtNum (m : Nat) (e : Int) : Num :=
  let p := evenExp m e
  let n := p.1 * 2 ^ 240
  let r := isqrt n
  .fin false (2 * r + (if r * r = n then 0 else 1)) (p.2 / 2 - 121)

/-- √a. -/
def fpSqrt (a : BitVec 32) : FpOut :=
  fpNan [a]
    (match f32Num a with
      | .inf s => if s then fpInvalid else fpRound (.inf false)
      | .fin s m e => if m = 0 then fpRound (.fin s 0 0) else if s then fpInvalid else fpRound (sqrtNum m e)
      | .nan => fpInvalid)

/-- 1 / √ of a finite positive value, with a last bit that says whether it goes on. -/
def rsqrtNum (m : Nat) (e : Int) : Num :=
  let p := evenExp m e
  let r := isqrt (2 ^ 480 / p.1)
  .fin false (2 * r + (if r * r * p.1 = 2 ^ 480 then 0 else 1)) (-(p.2 / 2) - 241)

/-- 1 / √a (R135). -/
def fpRsqrt (a : BitVec 32) : FpOut :=
  fpNan [a]
    (match f32Num a with
      | .inf s => if s then fpInvalid else fpRound (.fin false 0 0)
      | .fin s m e =>
        if m = 0 then { fpRound (.inf s) with dz := true } else if s then fpInvalid else fpRound (rsqrtNum m e)
      | .nan => fpInvalid)

/-- 1 / a. -/
def fpRcp (a : BitVec 32) : FpOut := fpDiv 0x3F800000 a

/-! ## Minimum and maximum -/

/-- Order of two values that are not NaN, −0 below +0. -/
def fpLess (a b : BitVec 32) : Bool :=
  match (f32Num a).cmp (f32Num b) with
  | some .lt => true
  | some .eq => (f32Num a).neg && !(f32Num b).neg
  | _ => false

/-- A register passed on. -/
def fpKeep (v : BitVec 32) : FpOut := { bits := v, nf := !(f32Num v).isFin }

/-- IEEE 754-2019 minimum. -/
def fpMin (a b : BitVec 32) : FpOut := fpNan [a, b] (fpKeep (if fpLess b a then b else a))

/-- IEEE 754-2019 maximum. -/
def fpMax (a b : BitVec 32) : FpOut := fpNan [a, b] (fpKeep (if fpLess a b then b else a))

/-- IEEE 754-2019 minimumNumber or maximumNumber, from the result for two numbers. -/
def fpNumber (r : BitVec 32 → BitVec 32 → FpOut) (a b : BitVec 32) : FpOut :=
  let nv := isSnan a || isSnan b
  match (f32Num a).isNan, (f32Num b).isNan with
  | true, true => { bits := qnan32, nv := nv, nf := true }
  | true, false => { fpKeep b with nv := nv }
  | false, true => { fpKeep a with nv := nv }
  | false, false => r a b

/-- minimumNumber. -/
def fpMinN (a b : BitVec 32) : FpOut := fpNumber fpMin a b

/-- maximumNumber. -/
def fpMaxN (a b : BitVec 32) : FpOut := fpNumber fpMax a b

/-! ## Elementary functions (R133, R135), by enclosure

The functions are computed in fixed point with 640 fraction bits; a computed value is taken to lie within 2^−400 of the
exact one. Where both ends of that interval round alike, that is the correctly rounded result; otherwise the value is
free (log entry 9). -/

/-- Fraction bits of the fixed-point values. -/
def fxBits : Nat := 640

/-- One in fixed point. -/
def fxOne : Int := (2 ^ fxBits : Nat)

/-- Fixed-point product. -/
def fxMul (a b : Int) : Int := a * b / fxOne

/-- A finite value in fixed point, rounded down; values beyond 2^12 are not asked for. -/
def fxOf (s : Bool) (m : Nat) (e : Int) : Int :=
  let x := e + fxBits
  let v : Int := if 0 ≤ x then (m * 2 ^ x.toNat : Nat) else (m / 2 ^ (-x).toNat : Nat)
  if s then -v else v

/-- The sum of a series whose term k + 1 is `next k` of term k: `n` terms from `t`. -/
def series (next : Nat → Int → Int) : Nat → Nat → Int → Int → Int
  | 0, _, _, acc => acc
  | n + 1, k, t, acc => series next n (k + 1) (next k t) (acc + t)

/-- e^r for |r| at most 1. -/
def fxExp (r : Int) : Int := series (fun k t => fxMul t r / ((k + 1 : Nat) : Int)) 160 0 fxOne 0

/-- `n` terms of the odd series r + r³/3 + r⁵/5 …, with alternating signs if `alt`. -/
def fxOdd (alt : Bool) (n : Nat) (r : Int) : Int :=
  let q := if alt then -(fxMul r r) else fxMul r r
  ((List.range n).foldl (fun (a : Int × Int) k => (a.1 + a.2 / ((2 * k + 1 : Nat) : Int), fxMul a.2 q)) (0, r)).1

/-- ln 2 = 2 artanh(1/3). -/
def fxLn2 : Int := 2 * fxOdd false 210 (fxOne / 3)

/-- π = 16 arctan(1/5) − 4 arctan(1/239). -/
def fxPi : Int := 16 * fxOdd true 150 (fxOne / 5) - 4 * fxOdd true 60 (fxOne / 239)

/-- 2^k × e^r with x = k ln 2 + r. -/
def expParts (x : Int) : Int × Int :=
  let k := x / fxLn2
  (k, fxExp (x - k * fxLn2))

/-- A fixed-point value × 2^k. -/
def fxScale (k v : Int) : Int := if 0 ≤ k then v * (2 ^ k.toNat : Nat) else v / (2 ^ (-k).toNat : Nat)

/-- e^x in fixed point, for x at most 128. -/
def fxExpOf (x : Int) : Int := let p := expParts x; fxScale p.1 p.2

/-- ln(m × 2^e) for m nonzero: m is brought to [1, 2), whose logarithm is 2 artanh((m − 1) / (m + 1)). -/
def fxLn (m : Nat) (e : Int) : Int :=
  let l := Nat.log2 m
  let v : Int := (m * 2 ^ (fxBits - l) : Nat)
  let r := (v - fxOne) * fxOne / (v + fxOne)
  2 * fxOdd false 410 r + (e + l) * fxLn2

/-- erf x for |x| at most 12: 2/√π × Σ (−1)^n x^(2n+1) / (n! (2n+1)). -/
def fxErf (x : Int) : Int :=
  let q := fxMul x x
  let sum := ((List.range 1100).foldl (fun (a : Int × Int) n =>
    (a.1 + a.2 / ((2 * n + 1 : Nat) : Int), -(fxMul a.2 q) / ((n + 1 : Nat) : Int))) (0, x)).1
  let root : Int := isqrt ((4 * fxOne * fxOne / fxPi * fxOne).toNat)
  sum * root / fxOne

/-- What an elementary function gives: an exact value, or an enclosure of a value that is not exact. -/
inductive Elem where
  | exact (r : FpOut)
  | near (lo hi : Num)

/-- A fixed-point value × 2^k as an enclosure of half-width 2^(k−400). -/
def fxNear (k v : Int) : Elem :=
  let w : Int := (2 ^ (fxBits - 400) : Nat)
  .near (.ofInt (v - w) (k - fxBits)) (.ofInt (v + w) (k - fxBits))

/-- A value in (lo, hi), both exact. -/
def between (lo hi : Num) : Elem := .near lo hi

/-- The result of an elementary function: the enclosure decides, or the value is free. An inexact result that is not
representable is never zero or exact. -/
def elemResult (op : Nat) (a : BitVec 32) (r : Elem) : FpOut :=
  match r with
  | .exact r => r
  | .near lo hi =>
    let x := fpRound lo
    let y := fpRound hi
    if x.bits = y.bits then
      { x with uf := x.uf || y.uf, of := x.of || y.of }
    else fpKeep (Config.elementary op a)

/-- One. -/
def numOne : Num := .fin false 1 0

/-- A magnitude just below one. -/
def almostOne (s : Bool) : Elem :=
  between (.fin s (2 ^ 100 - 1) (-100)) (.fin s (2 ^ 200 - 1) (-200))

/-- A positive magnitude far below the least subnormal. -/
def almostZero (s : Bool) : Elem := between (.fin s 1 (-290)) (.fin s 1 (-200))

/-- e^a. -/
def elemExp : Num → Elem
  | .nan => .exact fpInvalid
  | .inf s => .exact (fpRound (if s then Num.zero else .inf false))
  | .fin s m e =>
    if m = 0 then .exact (fpRound numOne)
    else if 8 ≤ (Nat.log2 m : Int) + e then
      (if s then almostZero false else between (.fin false 1 200) (.fin false 1 201))
    else let p := expParts (fxOf s m e); fxNear p.1 p.2

/-- 2^a. -/
def elemExp2 : Num → Elem
  | .nan => .exact fpInvalid
  | .inf s => .exact (fpRound (if s then Num.zero else .inf false))
  | .fin s m e =>
    if m = 0 then .exact (fpRound numOne)
    else if 8 ≤ (Nat.log2 m : Int) + e then
      (if s then almostZero false else between (.fin false 1 200) (.fin false 1 201))
    else
      let x := fxOf s m e
      let k := x / fxOne
      if x % fxOne = 0 then .exact (fpRound (.fin false 1 k))
      else fxNear k (fxExp (fxMul (x - k * fxOne) fxLn2))

/-- ln a, or log2 a when `two`. -/
def elemLog (two : Bool) : Num → Elem
  | .nan => .exact fpInvalid
  | .inf s => .exact (if s then fpInvalid else fpRound (.inf false))
  | .fin s m e =>
    if m = 0 then .exact { fpRound (.inf true) with dz := true }
    else if s then .exact fpInvalid
    else
      let l := Nat.log2 m
      if m = 2 ^ l ∧ (two ∨ e + l = 0) then .exact (fpRound (.ofInt (e + l) 0))
      else
        let v := fxLn m e
        fxNear 0 (if two then v * fxOne / fxLn2 else v)

/-- tanh a: for small |a| the bounds a − a³/3 and a; otherwise (e^2a − 1) / (e^2a + 1). -/
def elemTanh : Num → Elem
  | .nan => .exact fpInvalid
  | .inf s => .exact (fpRound (.fin s 1 0))
  | .fin s m e =>
    if m = 0 then .exact (fpRound (.fin s 0 0))
    else if 6 ≤ (Nat.log2 m : Int) + e then almostOne s
    else
      let t := fxExpOf (2 * fxOf false m e)
      let v := (t - fxOne) * fxOne / (t + fxOne)
      fxNear 0 (if s then -v else v)

/-- 1 / (1 + e^−a). -/
def elemSigm : Num → Elem
  | .nan => .exact fpInvalid
  | .inf s => .exact (fpRound (if s then Num.zero else numOne))
  | .fin s m e =>
    if m = 0 then .exact (fpRound (.fin false 1 (-1)))
    else if 8 ≤ (Nat.log2 m : Int) + e then (if s then almostZero false else almostOne false)
    else
      let t := fxExpOf (-(fxOf false m e))
      let v := fxOne * fxOne / (fxOne + t)
      fxNear 0 (if s then fxMul t v else v)

/-- erf a. -/
def elemErf : Num → Elem
  | .nan => .exact fpInvalid
  | .inf s => .exact (fpRound (.fin s 1 0))
  | .fin s m e =>
    if m = 0 then .exact (fpRound (.fin s 0 0))
    else if fxOf false m e > 11 * fxOne ∨ 6 ≤ (Nat.log2 m : Int) + e then almostOne s
    else fxNear 0 (let v := fxErf (fxOf false m e); if s then -v else v)

/-- An elementary function of a register, by the OP of R135. -/
def fpElem (op : Nat) (f : Num → Elem) (a : BitVec 32) : FpOut := fpNan [a] (elemResult op a (f (f32Num a)))

/-! ## Comparison and integers -/

/-- FCMP (R135). -/
def fpCmp (x : Nat) (a b : BitVec 32) : Bool :=
  let o := (f32Num a).cmp (f32Num b)
  match x with
  | 0 => o == some .eq
  | 1 => o != some .eq
  | 2 => o == some .lt
  | 3 => o == some .lt || o == some .eq
  | 4 => o == some .gt
  | 5 => o == some .gt || o == some .eq
  | 6 => o.isNone
  | _ => o.isSome

/-- ICMP (R135). -/
def intCmp (x : Nat) (a b : BitVec 32) : Bool :=
  match x with
  | 0 => a == b
  | 1 => a != b
  | 2 => a.slt b
  | 3 => a.sle b
  | 4 => b.slt a
  | 5 => b.sle a
  | 6 => a.ult b
  | _ => b.ule a

end Sys2Proof.Machine
end

