-- ==== Sys2Proof/Machine/Memory.lean ====
section
/-! DEFINITION. The M80 memory devices (chapter 9): refresh, tracking, scrub, service at a boundary, uncorrectable
errors and their stop, row repair, die temperatures. -/

namespace Sys2Proof.Machine

/-! ## Refresh and service at a boundary (R213, R223) -/

/-- Refresh intervals that a bank has postponed. -/
def State.postponed (s : State) (bank : Nat) : Nat := smGet 0 s.mdv.postponed bank

/-- `n` refresh commands reach a bank, each covering the next 8 rows in order. -/
def State.refreshRows (s : State) (bank n : Nat) : State :=
  let m := s.mdv
  { s with mdv := { m with refreshed := smPut 0 m.refreshed bank ((smGet 0 m.refreshed bank + 8 * n) % 65536) } }

/-- Set the intervals that a bank has postponed. -/
def State.putPostponed (s : State) (bank n : Nat) : State :=
  { s with mdv := { s.mdv with postponed := smPut 0 s.mdv.postponed bank n } }

/-- The core of a bank. -/
def State.core (s : State) (bank : Nat) : BankCore := smGet BankCore.idle s.bnk.cores bank

/-- The state with the core of a bank replaced. -/
def State.putCore (s : State) (bank : Nat) (c : BankCore) : State :=
  { s with bnk := { s.bnk with cores := smPut BankCore.idle s.bnk.cores bank c } }

/-- A program runs on a bank. -/
def State.coreRuns (s : State) (bank : Nat) : Bool := (s.core bank).run.isSome

/-- The program of a bank may pause: it has executed an instruction since its last pause (R223). -/
def State.mayPause (s : State) (bank : Nat) : Bool := let c := s.core bank; c.run.isSome && c.ran

/-- The program of a bank pauses for one row cycle, which serves the class if it is one of reads or writes. -/
def State.paused (s : State) (bank : Nat) (k : Option ServiceClass) : State :=
  s.putCore bank { s.core bank with ran := false, serving := k }

/-- REFRESH (R213): an interval falls due. It is postponed, at most 8 at a time, where the controller chooses to or a
program runs; otherwise the postponed intervals are caught up in order and then its own. At the limit a running program
pauses for it at a boundary; before it may pause again, nothing changes (R223). -/
def execRefresh (bank : Nat) (postpone : Bool) (s : State) : Out :=
  let n := s.postponed bank
  let a :=
    if (postpone || s.coreRuns bank) && decide (n < 8) then s.putPostponed bank (n + 1)
    else if s.coreRuns bank then (if s.mayPause bank then (s.refreshRows bank 1).paused bank none else s)
    else if postpone then s.refreshRows bank 1
    else (s.refreshRows bank (n + 1)).putPostponed bank 0
  whenB s.mainOn s a

/-- INTERFACE_TRACKING (R210): a channel pauses, which changes only timing. -/
def execInterfaceTracking (_dev _channel : Nat) (s : State) : Out := .next s

/-- A class of work may be chosen at a boundary: refresh by whether the bank stands at its postponement limit. -/
def State.mayServe (s : State) (bank : Nat) (c : ServiceClass) : Bool :=
  match c with
  | .refreshAtLimit => decide (8 ≤ s.postponed bank)
  | .refresh => decide (0 < s.postponed bank) && decide (s.postponed bank < 8)
  | _ => true

/-- The classes in the order of R223. -/
def serviceOrder : List ServiceClass := [.refreshAtLimit, .hubRead, .hostRead, .hubWrite, .hostWrite, .refresh]

/-- The class chosen at a boundary among those that wait. -/
def State.chosen (s : State) (bank : Nat) (waiting : List ServiceClass) : Option ServiceClass :=
  serviceOrder.find? (fun c => waiting.contains c && s.mayServe bank c)

/-- BANK_BOUNDARY_SERVICE (R223): the program pauses for one row cycle of foreign work, if it has executed an
instruction since its last pause. A row cycle of reads or writes is held for them until the program goes on, and the
requests of that class that reach the bank act in it. -/
def execBankBoundaryService (bank : Nat) (waiting : List ServiceClass) (s : State) : Out :=
  match s.chosen bank waiting with
  | none => .next s
  | some k =>
    let a := if k = .refreshAtLimit ∨ k = .refresh then
        ((s.paused bank none).refreshRows bank 1).putPostponed bank (s.postponed bank - 1) else s.paused bank (some k)
    whenB (s.mayPause bank) s a

/-- A request of a class waits: a program runs on the bank of one of its addresses, and the bank does not stand in a row
cycle of the class (R223). The accesses of words and movers do not wait (log entry 110). -/
def State.bankBusy (s : State) (c : ServiceClass) (ps : List Nat) : Bool :=
  !s.bnk.cores.isEmpty && ps.any (fun p => isT2 p
    && (let k := s.core (t2Place p).1; k.run.isSome && k.serving != some c))

/-! ## Uncorrectable errors (R227, R228, R230) -/

/-- A page move whose source read failed is abandoned (R199, R227). -/
def State.abandonMove (s : State) (e : UncorrInfo) : State :=
  match e.source, e.uaddr with
  | .tier, some u =>
    { s with tmv := { s.tmv with moving := s.tmv.moving.filter (fun m => m.upage != u.toNat / 0x10000) } }
  | _, _ => s

/-- The first address of the column word of an error. -/
def columnOf (e : UncorrInfo) : Nat := bankAddr e.bank e.row.toNat (32 * e.col.toNat)

/-- What the consumer of an uncorrectable read does beside what every one does: a page move is abandoned, the host read
that meets the column word completes with UNCORR, an admission ends with CHECK. -/
def State.uncorrConsumer (s : State) (e : UncorrInfo) : State :=
  if s.castSource e.source then s.abandonMove e
  else if e.source = .host then { s with mdv := { s.mdv with hostErr := columnOf e :: s.mdv.hostErr } }
  else if e.source = .conductor ∧ s.cnd.adm = .admitting then
    ({ s with staged := none, cnd := { s.cnd with adm := .refused } }).raise .cnd 1
  else s

/-- The status of the host's read of these addresses: UNCORR where a column word that it meets has a double error, or has
failed on the interface (R228, R368). -/
def State.hostStatus (s : State) (ps : List Nat) : Nat :=
  if (s.badCols ps).any s.doubleCol || ps.any (fun p => s.mdv.hostErr.contains (p / 32 * 32)) then 3 else 0

/-- The failed transfers that a host read has met are over. -/
def State.hostErrMet (s : State) (ps : List Nat) : State :=
  { s with mdv := { s.mdv with hostErr := s.mdv.hostErr.filter (fun c => !ps.any (fun p => p / 32 * 32 == c)) } }

/-- A foil slot fails its check twice (R311): recorded in FOL, and the phase stops if a cast runs. -/
def State.foilError (s : State) (e : UncorrInfo) : State :=
  let f := s.fol
  let s := { s with fol := { f with crc := addHi f.crc 1 } }
  let s := if recordFree s .fol (bitAt f.fault 0)
    then s.putFault .fol (faultWord 0x40 0 0 0x3FF 1) (e.uaddr.map (·.toNat)) else s
  (s.raise .fol 3).phaseStop

/-- The record and the cause of an uncorrectable error in a store of the array, in block `b`. -/
def State.storeError (s : State) (b : Blk) (bit : Nat) (v : Word) (addr : Option Nat) : State :=
  let s := if recordFree s b (bitAt (s.faultOf b) 0) then s.putFault b v addr else s
  s.raise b bit

/-- UNCORRECTABLE_ERROR (R227, R228, R311), and that of a tile store or G-buffer (R82), of a lane program store (R136) and
of the store of a bank core (R239), which stop the phase as a memory error does. The raw data goes to its consumer
unmarked (R24), so no data changes. -/
def execUncorrectableError (e : UncorrInfo) (s : State) : Out :=
  let a : State := match e.source with
    | .foil => s.foilError e
    | .tileStore c off | .gbuffer c off =>
      (s.storeError .ary 4 (faultWord 0x40 0 0 c.toNat 1) (some off.toNat)).phaseStop
    | .program c op => (s.storeError .vec 3 (faultWord 0x40 0 0 c.toNat (2 ^ 4 * op.toNat + 1)) none).phaseStop
    | .bankStore =>
      let s := s.phaseStop
      { s with mdv := { s.mdv with stopCores := e.bank :: s.mdv.stopCores } }
    | _ => (s.meetUncorr e).uncorrConsumer e
  whenB s.mainOn s a

/-- UNCORR_PHASE_STOP (R227): the first beat edge after the error. -/
def execUncorrPhaseStop (s : State) : Out :=
  match s.mdv.uncorr with
  | none => .next s
  | some b =>
    let t := s.uncorrNow
    whenB (decide (b < s.bea.count.toNat)) s { t with mdv := { t.mdv with uncorr := none, stopCores := [] } }

/-! ## Scrub (R219) -/

/-- MDV_CFG in force. -/
def State.mdvCfg (s : State) : Word := s.mdv.cfg.current

/-- The hours of a scrub pass; 0 disables scrub. -/
def State.scrubHours (s : State) : Nat := fldN s.mdvCfg 24 8

/-- Scrub one column word of a sealed row: a single-bit error is corrected, rewritten and counted, a double error is
recorded (R228). -/
def State.scrubColumn (s : State) (p : Nat) : State :=
  match readSyndrome (s.syndAt p) with
  | .clean => s
  | .single pos => (s.correctColumn p pos).countCe .bankCore
  | .double => s.meetUncorr (s.doubleAt .scrub none p)

/-- SCRUB_READ (R219): the row with this number in device-offset order, if scrub stands at it. Unsealed rows and rows
inside a working window are skipped. -/
def execScrubRead (row : Nat) (s : State) : Out :=
  let p := t2Base + 2048 * row
  let q := t2Place p
  let skip := s.unsealedAt p || s.inWindow q.1 q.2.1
  let a := if skip then s else ((List.range 64).map (fun i => p + 32 * i)).foldl State.scrubColumn s
  let a := { a with mdv := { a.mdv with scrubNext := (row + 1) % (15360 * 65536) } }
  whenB (s.mainOn && s.scrubHours != 0 && row == s.mdv.scrubNext) s a

/-! ## Row repair (R229) -/

/-- Bank number, row and HARD of a repair request, if its bank is in range. -/
def repairTarget (v : Word) : Option Repair :=
  let dev := fldN v 31 5
  let die := fldN v 26 5
  if dev < 24 ∧ die < 20 then some ⟨640 * dev + 32 * die + fldN v 21 5, fldN v 5 16, bitAt v 62⟩ else none

/-- The spares left in a row's subarray. -/
def State.sparesAt (s : State) (bank row : Nat) : Nat :=
  4 - ((s.mdv.repairs ++ s.flash.hard).filter (fun r => r.bank == bank && r.row / 1024 == row / 1024)).length

/-- A repair is refused or finds no spare: the result, the cause, the record. -/
def State.repairFails (s : State) (result : BitVec 2) (code : Nat) (t : Option Repair) : State :=
  let s := { s with mdv := { s.mdv with result := result } }
  s.mdvFault code 4 ((t.map (·.bank)).getD 0) ((t.map (·.row)).getD 0) 6

/-- GO written to MDV_REPAIR, from a session that may set what it sets when `may`. -/
def State.startRepair (s : State) (v : Word) (may : Bool) : State :=
  let t := repairTarget v
  match t with
  | none => s.repairFails 2 0x03 t
  | some r =>
    if !s.stopped .mdv || s.mdv.busy || (r.hard && !may) then s.repairFails 2 0x03 t
    else
      let n := s.sparesAt r.bank r.row
      let s := { s with mdv := { s.mdv with spares := n } }
      if n = 0 then s.repairFails 3 0x04 t
      else { s with mdv := { s.mdv with repair := v &&& 0x4000000FFFFFFFE0, busy := true, result := 0 } }

/-- The column words of a row go to its spare corrected where the row is sealed, raw where it is not. -/
def State.correctRow (s : State) (p : Nat) : State :=
  ((List.range 64).map (fun i => p + 32 * i)).foldl (fun s c =>
    match readSyndrome (s.syndAt c) with | .single pos => s.correctColumn c pos | _ => s) s

/-- The repair in progress finishes: the row's words are on the spare, and the row is mapped to it. -/
def State.repairDone (s : State) : State :=
  match repairTarget s.mdv.repair with
  | none => s
  | some r =>
    let s := if s.mdv.diff.isEmpty then s else s.correctRow (bankAddr r.bank r.row 0)
    let a := { s with mdv := { s.mdv with busy := false, result := 1, spares := s.sparesAt r.bank r.row - 1 } }
    if r.hard then { a with flash := { a.flash with hard := a.flash.hard ++ [r] } }
    else { a with mdv := { a.mdv with repairs := a.mdv.repairs ++ [r] } }

/-- REPAIR_COMPLETE (R229): the row keeps its content and its seal bit. A repair runs only while MDV_FN is STOPPED. -/
def execRepairComplete (s : State) : Out := whenB (s.mdv.busy && s.stopped .mdv) s s.repairDone

/-! ## Training and temperature -/

/-- Every channel is trained; the devices that fail keep their bit clear (R210). -/
def State.trainDevices (s : State) (trained : BitVec 24) : State :=
  ({ s with mdv := { s.mdv with trained := trained } }).raiseIf (trained != 0xFFFFFF) .mdv 4

/-- The hottest die of a device. -/
def State.devTemp (s : State) (d : Nat) : BitVec 8 := smGet 0 s.mdv.temp d

/-- The 16 ms refresh window is in force on a device (R213). -/
def State.fastRefresh (s : State) (d : Nat) : Bool := bitAt s.mdvCfg 0 || decide (85 ≤ (s.devTemp d).toNat)

/-- The activity limits of a device and of one of its dies (R222). -/
def State.activeLimits (s : State) (d : Nat) : Nat × Nat := if bitAt s.mdv.hot d then (80, 4) else (160, 8)

/-- MEMORY_DIE_TEMPERATURE_CROSSING (R213, R222). -/
def execMemoryDieTemperatureCrossing (dev : Nat) (temp : BitVec 8) (s : State) : Out :=
  let m := s.mdv
  let hot := decide (95 ≤ temp.toNat)
  let bit : BitVec 24 := 1 <<< dev
  let a := { s with mdv := { m with
      temp := smPut 0 m.temp dev temp, hot := if hot then m.hot ||| bit else m.hot &&& ~~~ bit } }
  whenB (decide (dev < 24)) s (a.raiseIf (hot && !bitAt m.hot dev) .mdv 5)

end Sys2Proof.Machine
end

