-- ==== Sys2Proof/Machine/Bank.lean ====
section
/-! DEFINITION. The bank cores (R231 to R238, R247): fields and validity of a bank instruction, the arithmetic of the
wide registers, how a program steps, faults and ends, and every instruction. -/

namespace Sys2Proof.Machine

/-! ## Fields (R232) -/

/-- BD of format S. -/
def sBd (b : Body) : BitVec 4 := fld b 22 4
/-- BA of format S. -/
def sBa (b : Body) : BitVec 4 := fld b 18 4
/-- BB of format S. -/
def sBb (b : Body) : BitVec 4 := fld b 14 4
/-- IMM of format S, sign-extended. -/
def sImm (b : Body) : Word := (fld b 0 14).signExtend 64
/-- W of formats X and M. -/
def xW (b : Body) : BitVec 5 := fld b 21 5
/-- B of format X and BR of format M. -/
def xB (b : Body) : BitVec 4 := fld b 17 4
/-- SEL of format X. -/
def xSel (b : Body) : Nat := fldN b 15 2
/-- WA of format W. -/
def vA (b : Body) : BitVec 5 := fld b 16 5
/-- WB of format W. -/
def vB (b : Body) : BitVec 5 := fld b 11 5
/-- WC of format W. -/
def vC (b : Body) : BitVec 5 := fld b 6 5
/-- P, X[0] of format W. -/
def vP (b : Body) : Nat := fldN b 0 1
/-- KIND of format R. -/
def rKind (b : Body) : Nat := fldN b 23 3
/-- BD of format R. -/
def rBd (b : Body) : BitVec 4 := fld b 19 4
/-- BA of format R. -/
def rBa (b : Body) : BitVec 4 := fld b 15 4
/-- BB of format R. -/
def rBb (b : Body) : BitVec 4 := fld b 11 4

/-! ## Validity (R232, R233, R236) -/

/-- Every bit of the body outside the fields given as (low bit, width) is zero. -/
def onlyFields (b : Body) (l : List (Nat × Nat)) : Bool :=
  b &&& ~~~ (l.foldl (fun (m : Body) q => m ||| (BitVec.ofNat 26 (2 ^ q.2 - 1) <<< q.1)) 0) == 0

/-- A ROWOP is valid: its kind, and the registers that the kind does not use zero. -/
def rowopValid (b : Body) : Bool :=
  let k := rKind b
  decide (k < 7) && onlyFields b ((if 1 ≤ k ∧ k ≤ 5 then [(15, 4)] else []) ++ (if 3 ≤ k ∧ k ≤ 5 then [(11, 4)] else [])
    ++ [(23, 3), (19, 4)])

/-- A bank instruction is valid. -/
def bankValid (w : BitVec 32) : Bool :=
  let b : Body := fld w 0 26
  let op := fldN w 26 6
  if 1 ≤ op ∧ op ≤ 5 then onlyFields b [(14, 12)]
  else if op = 6 then onlyFields b [(18, 8), (0, 14)]
  else if op = 7 ∨ op = 8 then onlyFields b [(18, 8), (0, 6)]
  else if 9 ≤ op ∧ op ≤ 0xB then onlyFields b [(14, 8), (0, 14)]
  else if op = 0xC ∨ op = 0xF then onlyFields b [(15, 11)] && decide (xSel b < 2)
  else if op = 0xD ∨ op = 0xE then onlyFields b [(15, 11)]
  else if op = 0x10 ∨ op = 0x11 then decide (fldN b 0 2 < 2)
  else if op = 0x12 then fldN b 0 2 == 0
  else if op = 0x14 then rowopValid b
  else if op = 0x15 ∨ op = 0x16 then onlyFields b [(21, 5)]
  else if op = 0x23 then onlyFields b [(6, 20)]
  else if op = 0x25 ∨ op = 0x2D then onlyFields b [(16, 10)]
  else if 0x20 ≤ op ∧ op ≤ 0x2C then onlyFields b [(11, 15)]
  else if op = 0x2E then onlyFields b [(11, 15), (0, 1)]
  else if op = 0x2F ∨ op = 0x30 then onlyFields b [(16, 10), (0, 1)]
  else if op = 0x31 then onlyFields b [(6, 20), (0, 1)]
  else if op = 0x3F then onlyFields b [(18, 4)]
  else false

/-! ## Registers (R231) -/

/-- A scalar register; b0 reads zero. -/
def BankCore.reg (c : BankCore) (r : BitVec 4) : Word := if r = 0 then 0 else c.b[r.toNat]

/-- Write a scalar register; writes to b0 are discarded. -/
def BankCore.putReg (c : BankCore) (r : BitVec 4) (v : Word) : BankCore :=
  if r = 0 then c else { c with b := c.b.set r.toNat v }

/-- A wide register. -/
def BankCore.wide (c : BankCore) (r : BitVec 5) : Wide := c.w[r.toNat]

/-- Write a wide register. -/
def BankCore.putWide (c : BankCore) (r : BitVec 5) (v : Wide) : BankCore := { c with w := c.w.set r.toNat v }

/-! ## Lanes -/

/-- Lane `i` of width `n` of a wide register. -/
def laneAt (n : Nat) (w : Wide) (i : Nat) : BitVec n := fld w (n * i) n

/-- A wide register with lane `i` of width `n` replaced. -/
def putLane (n : Nat) (w : Wide) (i : Nat) (v : BitVec n) : Wide :=
  let m : Wide := BitVec.ofNat 256 (2 ^ n - 1) <<< (n * i)
  (w &&& ~~~ m) ||| (v.setWidth 256 <<< (n * i))

/-- A wide register from its eight 32-bit lanes. -/
def ofLanes (f : Nat → BitVec 32) : Wide := (List.range 8).foldl (fun w i => putLane 32 w i (f i)) 0

/-- The flags of a lane's result: NF also where an operand is non-finite (R234). -/
def laneFlags (ops : List (BitVec 32)) (r : FpOut) : FpFlags :=
  ⟨r.nv, r.dz, r.of, r.uf, r.nf || ops.any (fun v => !(f32Num v).isFin)⟩

/-- An FP32 operation over the eight lanes of its operands, with the flags it adds. -/
def fpLanes (ops : List Wide) (f : List (BitVec 32) → FpOut) : Wide × FpFlags :=
  let out (i : Nat) : List (BitVec 32) × FpOut := let l := ops.map (fun w => laneAt 32 w i); (l, f l)
  (ofLanes (fun i => (out i).2.bits),
   (List.range 8).foldl (fun a i => a.or (laneFlags (out i).1 (out i).2)) {})

/-! ## The compensated add (R235) -/

/-- The exponent of ulp(v). -/
def ulpExp (v : BitVec 32) : Int := let e := fldN v 23 8; if e = 0 then -149 else (e : Int) - 150

/-- One lane of KADD: the sum, the new error term and the flags. -/
def kaddLane (a b : BitVec 32) (e : BitVec 8) : BitVec 32 × BitVec 8 × FpFlags :=
  let na := f32Num a
  let nb := f32Num b
  let x := (na.add nb).add (Num.ofInt e.toInt (ulpExp a - 8))
  let r := fpRound x
  if !na.isFin || !nb.isFin || r.of then
    let t := fpAdd a b
    (t.bits, 0, ⟨t.nv, t.dz, t.of || r.of, t.uf, true⟩)
  else if x.isZero then
    ((if a = 0x80000000 ∧ b = 0x80000000 ∧ e = 0 then 0x80000000 else 0), 0, {})
  else
    let rest := (x.add (f32Num r.bits).negate).scale (8 - ulpExp r.bits)
    let q : Int := match rest with | .fin s m k => (roundInt none s m k).1 | _ => 0
    (r.bits, BitVec.ofInt 8 (max (-128) (min 127 q)), ⟨false, false, false, r.uf, false⟩)

/-- KADD over the eight lanes: w[WD], w[WC] and the flags. -/
def kadd (p : Nat) (a b c : Wide) : Wide × Wide × FpFlags :=
  let out (i : Nat) := kaddLane (laneAt 32 a i) (laneAt 32 b i) (laneAt 8 c (8 * p + i))
  (ofLanes (fun i => (out i).1),
   (List.range 8).foldl (fun w i => putLane 8 w (8 * p + i) (out i).2.1) c,
   (List.range 8).foldl (fun (f : FpFlags) i => f.or (out i).2.2) {})

/-! ## How a program steps and ends -/

/-- What an instruction does: it goes on with the core and the state it leaves, breaks a rule (R237), waits, or ends
the program. -/
inductive BankAct where
  | go (c : BankCore) (s : State)
  | fault (code row : Nat)
  | wait
  | finish (result : Word)

/-- The launch with enqueue number `seq`. -/
def State.launchOf (s : State) (seq : Nat) : Option Launch := s.bnk.launches.find? (fun l => l.seq == seq)

/-- The program of a launch on a bank. -/
def Launch.progOn (l : Launch) (bank : Nat) : Option Prog := l.progs.find? (fun p => p.bank == bank)

/-- Change the state of the program of launch `seq` on a bank. -/
def State.putProg (s : State) (seq bank : Nat) (st : ProgState) : State :=
  { s with bnk := { s.bnk with launches := s.bnk.launches.map (fun l =>
      if l.seq = seq then { l with progs := l.progs.map (fun p => if p.bank = bank then { p with state := st } else p) }
      else l) } }

/-- A program ends: its window ends, its flags are ORed into BNK_FLAGS, and it counts (R245, R251). -/
def State.endProgram (s : State) (bank : Nat) (r : BankRun) (result : Option Word) (fault : Bool) : State :=
  let c := s.core bank
  let s := (s.putCore bank { c with run := none }).putProg r.launch bank (.ended result fault c.flags)
  { s with bnk := { s.bnk with flags := s.bnk.flags ||| c.flags.bits, done := addHi s.bnk.done 1 } }

/-- The program faults before the instruction at its PC (R246). -/
def State.bankFault (s : State) (bank : Nat) (r : BankRun) (code row : Nat) : State :=
  let q := bankParts bank
  let v := putAt 56 8 code ||| putAt 52 4 r.tag.toNat ||| putAt 47 5 q.1 ||| putAt 42 5 q.2.1 ||| putAt 37 5 q.2.2
    ||| putAt 27 10 (s.core bank).pc ||| putAt 11 16 row ||| 1
  let s := if recordFree s .bnk (bitAt s.bnk.fault 0) then s.putFault .bnk v none else s
  (s.raise .bnk (if code = 0x36 then 4 else if code = 0x34 then 5 else 3)).endProgram bank r none true

/-- The instruction at an index of the bank programs of the cast. -/
def State.bprogAt (s : State) (i : Nat) : BitVec 32 := ((s.cast.bind (fun c => c.bprog[i]?))).getD 0

/-- The core after an instruction that does not branch. -/
def BankCore.next (c : BankCore) : BankCore := { c with pc := c.pc + 1 }

/-- The core and its run after an instruction has been executed. -/
def BankCore.counted (c : BankCore) : BankCore :=
  { c with ran := true, serving := none, run := c.run.map (fun r => { r with count := r.count + 1 }) }

/-- A bank instruction. It is executed if a program runs on the bank and stands at it; where the PC has left the
program or the budget is used up, whichever bank command meets it raises the fault (R237). A core whose read failed
executes nothing more (R227). -/
def bankCmd (op : BitVec 6) (bank : Nat) (body : Body) (act : BankCore → BankRun → State → BankAct) (s : State) : Out :=
  let c := s.core bank
  match c.run with
  | none => .next s
  | some r =>
    if s.mdv.stopCores.contains bank then .next s
    else if r.plen ≤ c.pc then .next (s.bankFault bank r 0x35 0)
    else if r.budget ≤ r.count then .next (s.bankFault bank r 0x36 0)
    else if s.bprogAt (r.pstart + c.pc) = op ++ body then
      match act c r s with
      | .go d t => .next (t.putCore bank d.counted)
      | .fault code row => .next (s.bankFault bank r code row)
      | .wait => .next s
      | .finish v => .next (s.endProgram bank r (some v) false)
    else .next s

/-! ## Scalar instructions -/

/-- A scalar operation on b[BA] and b[BB]. -/
def bankScalar (op : BitVec 6) (f : Word → Word → Word) (bank : Nat) (body : Body) (s : State) : Out :=
  bankCmd op bank body (fun c _ s => .go ((c.putReg (sBd body) (f (c.reg (sBa body)) (c.reg (sBb body)))).next) s) s

/-- BANK_ADD (R233). -/
def execBankAdd (bank : Nat) (body : Body) (s : State) : Out := bankScalar 0x01 (· + ·) bank body s
/-- BANK_SUB (R233). -/
def execBankSub (bank : Nat) (body : Body) (s : State) : Out := bankScalar 0x02 (· - ·) bank body s
/-- BANK_AND (R233). -/
def execBankAnd (bank : Nat) (body : Body) (s : State) : Out := bankScalar 0x03 (· &&& ·) bank body s
/-- BANK_OR (R233). -/
def execBankOr (bank : Nat) (body : Body) (s : State) : Out := bankScalar 0x04 (· ||| ·) bank body s
/-- BANK_XOR (R233). -/
def execBankXor (bank : Nat) (body : Body) (s : State) : Out := bankScalar 0x05 (· ^^^ ·) bank body s
/-- BANK_ADDI (R233). -/
def execBankAddi (bank : Nat) (body : Body) (s : State) : Out :=
  bankScalar 0x06 (fun a _ => a + sImm body) bank body s
/-- BANK_SHLI (R233). -/
def execBankShli (bank : Nat) (body : Body) (s : State) : Out :=
  bankScalar 0x07 (fun a _ => a <<< fldN body 0 6) bank body s
/-- BANK_SHRI (R233). -/
def execBankShri (bank : Nat) (body : Body) (s : State) : Out :=
  bankScalar 0x08 (fun a _ => a >>> fldN body 0 6) bank body s

/-- A branch: PC + 1 + sext(IMM) where the condition holds; a target below zero leaves the program as any other outside
it does. -/
def bankBranch (op : BitVec 6) (f : Word → Word → Bool) (bank : Nat) (body : Body) (s : State) : Out :=
  bankCmd op bank body (fun c _ s =>
    let t := (BitVec.ofNat 64 (c.pc + 1) + sImm body).toNat
    .go (if f (c.reg (sBa body)) (c.reg (sBb body)) then { c with pc := t } else c.next) s) s

/-- BANK_BEQ (R233). -/
def execBankBeq (bank : Nat) (body : Body) (s : State) : Out := bankBranch 0x09 (· == ·) bank body s
/-- BANK_BNE (R233). -/
def execBankBne (bank : Nat) (body : Body) (s : State) : Out := bankBranch 0x0A (· != ·) bank body s
/-- BANK_BLTU (R233). -/
def execBankBltu (bank : Nat) (body : Body) (s : State) : Out := bankBranch 0x0B BitVec.ult bank body s

/-! ## Transfers -/

/-- BANK_WBC (R233). -/
def execBankWbc (bank : Nat) (body : Body) (s : State) : Out :=
  bankCmd 0x0C bank body (fun c _ s =>
    let v : BitVec 32 := fld (c.reg (xB body)) (32 * xSel body) 32
    .go (c.putWide (xW body) (ofLanes (fun _ => v))).next s) s

/-- BANK_WINS (R233). -/
def execBankWins (bank : Nat) (body : Body) (s : State) : Out :=
  bankCmd 0x0D bank body (fun c _ s =>
    .go (c.putWide (xW body) (putLane 64 (c.wide (xW body)) (xSel body) (c.reg (xB body)))).next s) s

/-- BANK_WEXT (R233). -/
def execBankWext (bank : Nat) (body : Body) (s : State) : Out :=
  bankCmd 0x0E bank body (fun c _ s =>
    .go (c.putReg (xB body) (laneAt 64 (c.wide (xW body)) (xSel body))).next s) s

/-- BANK_WCRC (R233). -/
def execBankWcrc (bank : Nat) (body : Body) (s : State) : Out :=
  bankCmd 0x0F bank body (fun c _ s =>
    let n := if xSel body = 0 then 32 else 16
    .go (c.putReg (xB body) (crc64 (c.reg (xB body)) (leBytes n (c.wide (xW body)).toNat))).next s) s

/-! ## Memory (R236) -/

/-- The row that a memory instruction names. -/
def memRow (c : BankCore) (body : Body) : Nat := (c.reg (xB body)).toNat + fldN body 9 4

/-- The first byte in its row and the length of the access. -/
def memSpan (c : BankCore) (body : Body) : Nat × Nat :=
  let u := (c.reg (fld body 13 4)).toNat + fldN body 2 7
  if fldN body 0 2 = 0 then (32 * (u % 64), 32) else (16 * (u % 128), 16)

/-- The program may write the row: it lies in its working window (R237). -/
def BankRun.mayWrite (r : BankRun) (row : Nat) : Bool := decide (r.wrow ≤ row) && decide (row < r.wrow + r.wlen)

/-- BANK_LDW (R236). -/
def execBankLdw (bank : Nat) (body : Body) (s : State) : Out :=
  bankCmd 0x10 bank body (fun c _ s =>
    let row := memRow c body
    let m := memSpan c body
    if 65535 < row then .fault 0x31 row
    else
      let p := bankAddr bank row m.1
      let v := BitVec.ofNat 256 (leNat (s.readBytes p m.2))
      .go { (c.putWide (xW body) v).next with row := some row } (s.noteCode .bankCore none [p])) s

/-- A store of a wide register, where the row may be written. -/
def bankStore (bank : Nat) (body : Body) (c : BankCore) (r : BankRun) (s : State) : BankAct :=
  let row := memRow c body
  let m := memSpan c body
  if 65535 < row then .fault 0x31 row
  else if !r.mayWrite row then .fault 0x32 row
  else
    let p := bankAddr bank row m.1
    let t := s.storeRun .bankCore p (leBytes m.2 (c.wide (xW body)).toNat)
    .go { c.next with row := some row }
      (if s.storeBlocked ((List.range m.2).map (p + ·)) then t else t.unsettled [(p, m.2)])

/-- BANK_STW (R236). -/
def execBankStw (bank : Nat) (body : Body) (s : State) : Out := bankCmd 0x11 bank body (bankStore bank body) s

/-- BANK_STC (R236): a commit store waits while an uncorrectable error awaits its stop (R227). -/
def execBankStc (bank : Nat) (body : Body) (s : State) : Out :=
  bankCmd 0x12 bank body (fun c r s =>
    match bankStore bank body c r s with
    | .go d t => if s.mdv.uncorr.isSome then .wait else .go d t
    | x => x) s

/-! ## Row operations (R214, R215, R218, R220) -/

/-- A row's data, the difference of its check bits from their code by column, and its seal. -/
structure RowImage where
  data   : List Byte
  diff   : List (BitVec 10)
  sealed : Bool

/-- The 256 data bits of each column of a row's data. -/
def RowImage.columns (r : RowImage) : List Wide :=
  (List.range 64).map (fun i => BitVec.ofNat 256 (leNat (chunk 32 i r.data)))

/-- The stored check bits of each column. -/
def RowImage.checks (r : RowImage) : List (BitVec 10) := (r.columns.zip r.diff).map (fun q => checkBits q.1 ^^^ q.2)

/-- A row from its columns and stored check bits. -/
def RowImage.ofColumns (l : List (Wide × BitVec 10)) (sealed : Bool) : RowImage :=
  { data := l.flatMap (fun q => leBytes 32 q.1.toNat), diff := l.map (fun q => q.2 ^^^ checkBits q.1), sealed := sealed }

/-- A row as it stands. -/
def State.rowImage (s : State) (bank row : Nat) : RowImage :=
  { data := s.bytes (bankAddr bank row 0) 2048
    diff := (List.range 64).map (fun i => smGet 0 s.mdv.diff (rowKey bank row * 64 + i))
    sealed := !s.rowUnsealed (rowKey bank row) }

/-- Put a whole row: data, check bits and seal. -/
def State.putRow (s : State) (bank row : Nat) (r : RowImage) : State :=
  let s := s.putRun (bankAddr bank row 0) r.data
  let k := rowKey bank row
  ({ s with mdv := { s.mdv with diff := smPutRun 0 s.mdv.diff (k * 64) r.diff } }).putUnsealed k (!r.sealed)

/-- Two rows combined bit for bit, check bits included. -/
def RowImage.combine (fd : Wide → Wide → Wide) (fc : BitVec 10 → BitVec 10 → BitVec 10) (sealed : Bool)
    (a b : RowImage) : RowImage :=
  RowImage.ofColumns ((a.columns.zip b.columns).zip (a.checks.zip b.checks) |>.map
    (fun q => (fd q.1.1 q.1.2, fc q.2.1 q.2.2))) sealed

/-- The destination row of a row operation, from its sources as they stood. -/
def rowResult (kind : Nat) (d a b : RowImage) : RowImage :=
  match kind with
  | 0 => { data := List.replicate 2048 0, diff := List.replicate 64 0, sealed := true }
  | 1 => a
  | 2 => RowImage.combine (fun x _ => ~~~ x) (fun x _ => ~~~ x) false a a
  | 3 => RowImage.combine (· &&& ·) (· &&& ·) false a b
  | 4 => RowImage.combine (· ||| ·) (· ||| ·) false a b
  | 5 => RowImage.combine (· ^^^ ·) (· ^^^ ·) (a.sealed && b.sealed) a b
  | _ => { d with diff := List.replicate 64 0, sealed := true }

/-- The rows that a row operation names, the destination first. -/
def rowNames (c : BankCore) (body : Body) : List Nat :=
  let k := rKind body
  [(c.reg (rBd body)).toNat] ++ (if 1 ≤ k ∧ k ≤ 5 then [(c.reg (rBa body)).toNat] else [])
    ++ (if 3 ≤ k ∧ k ≤ 5 then [(c.reg (rBb body)).toNat] else [])

/-- BANK_ROWOP (R220, R237). -/
def execBankRowop (bank : Nat) (body : Body) (s : State) : Out :=
  bankCmd 0x14 bank body (fun c r s =>
    let l := rowNames c body
    let d := (c.reg (rBd body)).toNat
    match l.find? (fun x => decide (65535 < x)) with
    | some x => .fault 0x31 x
    | none =>
      if !r.mayWrite d then .fault 0x32 d
      else match l.find? (fun x => x / 1024 != d / 1024) with
        | some x => .fault 0x33 x
        | none =>
          let img := s.rowImage bank
          let v := rowResult (rKind body) (img d) (img (l.getD 1 d)) (img (l.getD 2 d))
          .go { c.next with row := none } ((s.putRow bank d v).unsettled [(bankAddr bank d 0, 2048)])) s

/-! ## The chain (R247) -/

/-- The die of a bank. -/
def dieOf (bank : Nat) : Nat := bank % 640 / 32

/-- The program of the launch on a bank is pending or running. -/
def State.progAlive (s : State) (seq bank : Nat) : Bool :=
  match (s.launchOf seq).bind (fun l => l.progOn bank) with
  | some p => (match p.state with | .ended _ _ _ => false | _ => true)
  | none => false

/-- A bank is in the launch. -/
def State.inLaunch (s : State) (seq bank : Nat) : Bool := ((s.launchOf seq).bind (fun l => l.progOn bank)).isSome

/-- BANK_CHPUT (R247): the word is on its way to the next bank up. -/
def execBankChput (bank : Nat) (body : Body) (s : State) : Out :=
  bankCmd 0x15 bank body (fun c r s =>
    let up := bank + 32
    if dieOf bank = 19 ∨ !s.inLaunch r.launch up ∨ 64 ≤ r.sent then .fault 0x34 0
    else
      let d := s.core up
      let s := s.putCore up { d with flight := d.flight ++ [(r.launch, c.wide (xW body))] }
      let s := { s with bnk := { s.bnk with chain := addHi s.bnk.chain 1 } }
      .go { c.next with run := some { r with sent := r.sent + 1 } } s) s

/-- The oldest inbox word of a launch. -/
def BankCore.oldest (c : BankCore) (seq : Nat) : Option (Nat × Wide) := c.inbox.find? (fun q => q.1 == seq)

/-- BANK_CHGET (R247). -/
def execBankChget (bank : Nat) (body : Body) (s : State) : Out :=
  bankCmd 0x16 bank body (fun c r s =>
    if dieOf bank = 0 then .fault 0x34 0
    else match c.oldest r.launch with
      | some q => .go { (c.putWide (xW body) q.2).next with inbox := c.inbox.erase q } s
      | none =>
        if s.progAlive r.launch (bank - 32) || c.flight.any (fun q => q.1 == r.launch) then .wait
        else .fault 0x34 0) s

/-- CHAIN_WORD_ARRIVAL (R247): the oldest word on its way reaches the inbox. -/
def execChainWordArrival (bank : Nat) (s : State) : Out :=
  let c := s.core bank
  match c.flight with
  | [] => .next s
  | q :: t => .next (s.putCore bank { c with inbox := c.inbox ++ [q], flight := t })

/-! ## Wide arithmetic -/

/-- A wide instruction: its result from w[WA], w[WB] and w[WC], and its flags. -/
def bankWide (op : BitVec 6) (f : Wide → Wide → Wide → Wide × FpFlags) (bank : Nat) (body : Body) (s : State) : Out :=
  bankCmd op bank body (fun c _ s =>
    let r := f (c.wide (vA body)) (c.wide (vB body)) (c.wide (vC body))
    .go { (c.putWide (fld body 21 5) r.1).next with flags := c.flags.or r.2 } s) s

/-- A two-operand FP32 instruction. -/
def fp2 (f : BitVec 32 → BitVec 32 → FpOut) (a b _c : Wide) : Wide × FpFlags :=
  fpLanes [a, b] (fun l => f (l.getD 0 0) (l.getD 1 0))

/-- An integer instruction over the int32 lanes. -/
def int2 (f : BitVec 32 → BitVec 32 → BitVec 32) (a b _c : Wide) : Wide × FpFlags :=
  (ofLanes (fun i => f (laneAt 32 a i) (laneAt 32 b i)), {})

/-- BANK_FADD (R233). -/
def execBankFadd (bank : Nat) (body : Body) (s : State) : Out := bankWide 0x20 (fp2 fpAdd) bank body s
/-- BANK_FSUB (R233). -/
def execBankFsub (bank : Nat) (body : Body) (s : State) : Out := bankWide 0x21 (fp2 fpSub) bank body s
/-- BANK_FMUL (R233). -/
def execBankFmul (bank : Nat) (body : Body) (s : State) : Out := bankWide 0x22 (fp2 fpMul) bank body s
/-- BANK_FFMA (R233). -/
def execBankFfma (bank : Nat) (body : Body) (s : State) : Out :=
  bankWide 0x23 (fun a b c => fpLanes [a, b, c] (fun l => fpFma (l.getD 0 0) (l.getD 1 0) (l.getD 2 0))) bank body s
/-- BANK_FDIV (R233). -/
def execBankFdiv (bank : Nat) (body : Body) (s : State) : Out := bankWide 0x24 (fp2 fpDiv) bank body s
/-- BANK_FSQRT (R233). -/
def execBankFsqrt (bank : Nat) (body : Body) (s : State) : Out :=
  bankWide 0x25 (fun a _ _ => fpLanes [a] (fun l => fpSqrt (l.getD 0 0))) bank body s
/-- BANK_FMIN (R233). -/
def execBankFmin (bank : Nat) (body : Body) (s : State) : Out := bankWide 0x26 (fp2 fpMin) bank body s
/-- BANK_FMAX (R233). -/
def execBankFmax (bank : Nat) (body : Body) (s : State) : Out := bankWide 0x27 (fp2 fpMax) bank body s
/-- BANK_IADD (R233). -/
def execBankIadd (bank : Nat) (body : Body) (s : State) : Out := bankWide 0x28 (int2 (· + ·)) bank body s
/-- BANK_ISUB (R233). -/
def execBankIsub (bank : Nat) (body : Body) (s : State) : Out := bankWide 0x29 (int2 (· - ·)) bank body s
/-- BANK_WAND (R233). -/
def execBankWand (bank : Nat) (body : Body) (s : State) : Out := bankWide 0x2A (fun a b _ => (a &&& b, {})) bank body s
/-- BANK_WOR (R233). -/
def execBankWor (bank : Nat) (body : Body) (s : State) : Out := bankWide 0x2B (fun a b _ => (a ||| b, {})) bank body s
/-- BANK_WXOR (R233). -/
def execBankWxor (bank : Nat) (body : Body) (s : State) : Out := bankWide 0x2C (fun a b _ => (a ^^^ b, {})) bank body s
/-- BANK_WMOV (R233). -/
def execBankWmov (bank : Nat) (body : Body) (s : State) : Out := bankWide 0x2D (fun a _ _ => (a, {})) bank body s

/-- BANK_WCAT (R233). -/
def execBankWcat (bank : Nat) (body : Body) (s : State) : Out :=
  let p := vP body
  bankWide 0x2E (fun a b _ => (ofLanes (fun i => laneAt 16 a (8 * p + i) ++ laneAt 16 b (8 * p + i)), {})) bank body s

/-- WHI and WLO: half of every lane of w[WA], from bit `lo`, into eight 16-bit lanes of w[WD]. -/
def bankHalf (op : BitVec 6) (lo : Nat) (bank : Nat) (body : Body) (s : State) : Out :=
  bankCmd op bank body (fun c _ s =>
    let d : BitVec 5 := fld body 21 5
    let v := (List.range 8).foldl (fun w i =>
      putLane 16 w (8 * vP body + i) (fld (laneAt 32 (c.wide (vA body)) i) lo 16)) (c.wide d)
    .go (c.putWide d v).next s) s

/-- BANK_WHI (R233). -/
def execBankWhi (bank : Nat) (body : Body) (s : State) : Out := bankHalf 0x2F 16 bank body s
/-- BANK_WLO (R233). -/
def execBankWlo (bank : Nat) (body : Body) (s : State) : Out := bankHalf 0x30 0 bank body s

/-- BANK_KADD (R235). The error terms are written back first, the sum last. -/
def execBankKadd (bank : Nat) (body : Body) (s : State) : Out :=
  bankCmd 0x31 bank body (fun c _ s =>
    let r := kadd (vP body) (c.wide (vA body)) (c.wide (vB body)) (c.wide (vC body))
    let d := (c.putWide (vC body) r.2.1).putWide (fld body 21 5) r.1
    .go { d.next with flags := c.flags.or r.2.2 } s) s

/-- BANK_END (R233). -/
def execBankEnd (bank : Nat) (body : Body) (s : State) : Out :=
  bankCmd 0x3F bank body (fun c _ _ => .finish (c.reg (sBa body))) s

end Sys2Proof.Machine
end

