-- ==== Sys2Proof/Machine/Places.lean ====
section
/-! DEFINITION. Places, tier-map entries, quotas and the crucible (R181 to R193). A place is named by P-address bits
[44:16], as a tier-map entry names it. -/

namespace Sys2Proof.Machine

/-! ## Tier-map entries (R185) -/

/-- V. -/
def eValid (e : Word) : Bool := bitAt e 0
/-- ACCT. -/
def eAcct (e : Word) : Nat := fldN e 2 4
/-- LIVE. -/
def eLive (e : Word) : Nat := fldN e 6 29
/-- HOME. -/
def eHome (e : Word) : Nat := fldN e 35 29

/-- Entry `k` of the TMAP segment of a cast. -/
def State.tmapAt (s : State) (c : CastImg) (k : Nat) : Word := s.imageWord (c.tmap.addr + 8 * k)

/-- Store eight bytes of the image at their place under the load map. -/
def State.putImageWord (s : State) (u : Nat) (v : Word) : State :=
  s.storeBytes .tier (some u) ((List.range 8).map (fun i => (unstripe (u + i), BitVec.ofNat 8 (v.toNat / 256 ^ i))))

/-- Rewrite LIVE of entry `k` in place (R185). -/
def State.putLive (s : State) (c : CastImg) (k live : Nat) : State :=
  s.putImageWord (c.tmap.addr + 8 * k) (setFld (s.tmapAt c k) 6 29 live)

/-- The valid entries of the tier map, with their U-pages. -/
def State.mapped (s : State) (c : CastImg) : List (Nat × Word) :=
  ((List.range c.tmap.count).map (fun k => (k, s.tmapAt c k))).filter (fun e => eValid e.2)

/-! ## Places (R181, R183) -/

/-- TMV_CFG in force. -/
def State.tmvCfg (s : State) : Word := s.tmv.cfg.current

/-- The pool apertures, if T3EN is 1 (R183). -/
def State.pool (s : State) : Option (Nat × Nat) :=
  if bitAt s.tmvCfg 7 then some (fldN s.tmvCfg 8 8, fldN s.tmvCfg 16 8) else none

/-- The aperture of a T3 page, if it is one. -/
def pageAp (p : Nat) : Option Nat :=
  if 0x10000000 ≤ p ∧ p < 0x20000000 then some ((p - 0x10000000) / 0x100000) else none

/-- A page of a T3 pool aperture. -/
def State.inPool (s : State) (p : Nat) : Bool :=
  match pageAp p, s.pool with
  | some a, some (lo, hi) => decide (lo ≤ a) && decide (a ≤ hi)
  | _, _ => false

/-- The tier of a place; none where the page is no place. -/
def State.tierOf (s : State) (p : Nat) : Option Nat :=
  if p < 0x4000 then (if p / 16 < s.sizCores ∧ p % 16 < 6 then some 0 else none)
  else if 0x4000 ≤ p ∧ p < 0x4BE0 then some 1
  else if 0x1000000 ≤ p ∧ p < 0x2E00000 then some 2
  else if 0x4000000 ≤ p ∧ p < 0x5E00000 then some 2
  else if s.inPool p then some 3
  else none

/-- A fixed home: a T3 page outside the pool (R183). -/
def State.fixedHome (s : State) (p : Nat) : Bool := (pageAp p).isSome && !s.inPool p

/-- The number of places of a tier (R181). -/
def State.places (s : State) (t : Nat) : Nat :=
  match t with
  | 0 => 6 * s.sizCores
  | 1 => 3040
  | 2 => 0x1E00000
  | _ => match s.pool with | some (lo, hi) => (hi + 1 - lo) * 0x100000 | none => 0

/-- The band of a T2 page and whether the page lies in the linear view (R182). -/
def bandOf (p : Nat) : Option (Nat × Bool) :=
  if 0x1000000 ≤ p ∧ p < 0x2E00000 then some ((p - 0x1000000) % 0x140000, true)
  else if 0x4000000 ≤ p ∧ p < 0x5E00000 then some ((p - 0x4000000) / 24, false)
  else none

/-- The bands that homes make linear, in no order. -/
def linearBands (l : List (Nat × Word)) : List Nat :=
  l.filterMap (fun e => match bandOf (eHome e.2) with | some (n, true) => some n | _ => none)

/-! ## Quotas and the crucible (R190, R191) -/

/-- Pages of account `a` living in tier `t`, fixed homes excluded. -/
def State.living (s : State) (l : List (Nat × Word)) (a t : Nat) : Nat :=
  (l.filter (fun e => eAcct e.2 == a && s.tierOf (eLive e.2) == some t)).length

/-- The mapped pages of the cast that is running or held. -/
def State.pages (s : State) : List (Nat × Word) :=
  match s.tmv.map, s.cast with
  | .running, some c | .held, some c => s.mapped c
  | _, _ => []

/-- The U-address that the load map places at a linear-view address: the striped view read backwards (R32, R208). -/
def restripe (p : Nat) : Nat :=
  let o := p - t2Base
  4096 * (24 * (o % devSize / 4096) + o / devSize) + o % 4096

/-- The U-pages that live at an address, in either view of T2. -/
def State.upagesAt (s : State) (p : Nat) : List Nat :=
  (s.pages.filter (fun e => eLive e.2 == p / 0x10000
    || (isT2 p && eLive e.2 == (stripeBase + restripe p) / 0x10000))).map (·.1)

/-- An access by P-address touches the pages that live at its addresses (R192); it does not go through the tier map. -/
def State.touchPlaces (s : State) (ps : List Nat) : State :=
  match s.tmv.map with
  | .running | .held =>
    let ks := noDups ((ps.zipIdx.filter (fun q => q.2 == 0 || q.1 % 4096 == 0)).flatMap (fun q => s.upagesAt q.1))
    { s with tmv := { s.tmv with touch := ks.foldl (fun m k => smPut 0 m k s.bea.count) s.tmv.touch } }
  | _ => s

/-- An access by P-address meets a page in move, at its old place, and waits (R188). -/
def State.placeMoves (s : State) (ps : List Nat) : Bool :=
  !s.tmv.moving.isEmpty
    && (ps.zipIdx.filter (fun q => q.2 == 0 || q.1 % 4096 == 0)).any (fun q => (s.upagesAt q.1).any s.inMove)

/-- u(a, t). -/
def State.used (s : State) (a t : Nat) : Nat := s.living s.pages a t

/-- q(a, t). -/
def quotaOf (q : SMap Nat) (a t : Nat) : Nat := smGet 0 q (4 * a + t)

/-- The sum of an account's figure over the sixteen accounts. -/
def overAccounts (f : Nat → Nat) : Nat := (List.range 16).foldl (fun n a => n + f a) 0

/-- k_t for quotas `q`: none where the quotas exceed the places. -/
def State.crucible (s : State) (q : SMap Nat) (t : Nat) : Option Nat :=
  let sum := overAccounts (fun a => quotaOf q a t)
  if sum ≤ s.places t then some (s.places t - sum) else none

/-- c_t for the pages `l` and the quotas `q`. -/
def State.crucibleUse (s : State) (l : List (Nat × Word)) (q : SMap Nat) (t : Nat) : Nat :=
  overAccounts (fun a => s.living l a t - quotaOf q a t)

/-- Raise the recorded peaks to the crucible use now (R207). -/
def State.notePeaks (s : State) : State :=
  let l := s.pages
  let peak := (List.range 4).foldl (fun m t =>
    smPut 0 m t (max (smGet 0 m t) (s.crucibleUse l s.tir.quota t))) s.tir.peak
  { s with tir := { s.tir with peak := peak } }

/-- Pinned accounts: WGT, OPT, VER (R192). -/
def pinned (a : Nat) : Bool := a == 0 || a == 1 || a == 9

end Sys2Proof.Machine
end

