-- ==== Sys2Proof/Machine/Conductor.lean ====
section
/-! DEFINITION. The Conductor (chapter 3): fetch, the instructions, waits, mould transfers, exceptions and the end of a
cast. -/

namespace Sys2Proof.Machine

/-! ## Fields of an instruction (R62) -/

/-- RD, and RS1 of format F: [25:21]. -/
def iRd (b : Body) : BitVec 5 := fld b 21 5
/-- RS1, and RS2 of format F: [20:16]. -/
def iRs1 (b : Body) : BitVec 5 := fld b 16 5
/-- RS2 of format A: [15:11]. -/
def iRs2 (b : Body) : BitVec 5 := fld b 11 5
/-- FN: [10:0]. -/
def iFn (b : Body) : BitVec 11 := fld b 0 11
/-- IMM: [15:0]. -/
def iImm (b : Body) : BitVec 16 := fld b 0 16
/-- IMM sign-extended. -/
def iSext (b : Body) : Word := (iImm b).signExtend 64
/-- IMM zero-extended. -/
def iZext (b : Body) : Word := (iImm b).setWidth 64

/-- A general register; g0 reads zero (R58). -/
def State.g (s : State) (r : BitVec 5) : Word := if r = 0 then 0 else s.cnd.g[r.toNat]

/-- Write a general register; writes to g0 are discarded (R58). -/
def State.putG (s : State) (r : BitVec 5) (v : Word) : State :=
  if r = 0 then s else { s with cnd := { s.cnd with g := s.cnd.g.set r.toNat v } }

/-- Write a summary register. -/
def State.putSm (s : State) (n : BitVec 4) (v : Word) : State :=
  { s with cnd := { s.cnd with sm := s.cnd.sm.set n.toNat v } }

/-! ## Program flow -/

/-- Where execution lands at an index: reaching the first instruction after the body of the innermost open loop counts
a pass, which repeats the body or leaves the loop (R65, R66). Only the innermost loop is asked: an inner body that
reaches past the end of its enclosing body passes that end unnoticed (log entry 106). -/
def landing : List LoopFrame → Nat → Nat × List LoopFrame
  | [], pc => (pc, [])
  | f :: t, pc =>
    if pc = f.stop then (if 1 < f.left then (f.start, { f with left := f.left - 1 } :: t) else landing t pc)
    else (pc, f :: t)

/-- Continue at index `pc`. -/
def State.goto (s : State) (pc : Nat) : State :=
  let l := landing s.cnd.loops pc
  { s with cnd := { s.cnd with pc := BitVec.ofNat 24 l.1, past := decide (2 ^ 24 ≤ l.1), loops := l.2, wait := .none } }

/-- The index of the next instruction. -/
def State.pc1 (s : State) : Nat := s.cnd.pc.toNat + 1

/-- Continue at the next instruction. -/
def State.advance (s : State) : State := s.goto s.pc1

/-- The Conductor waits; its PC stays at the instruction. -/
def State.await (s : State) (w : Wait) : State := { s with cnd := { s.cnd with wait := w } }

/-- An exception (R77): recorded with its code, the cause set, fetching stops. Codes 0x05, 0x07 and 0x08 raise ADDR. -/
def State.exception (s : State) (code : Nat) (instr : BitVec 32) (word : Option AWord) : State :=
  let c := s.cnd
  let w : AWord := word.getD 0
  let s := { s with cnd := { c with
      exc := putAt 56 8 code ||| putAt 44 12 c.mould.toNat ||| putAt 0 24 c.pc.toNat
      excInstr := instr, excHi := fld w 64 64, excLo := fld w 0 64, ending := 4, wait := .none } }
  (s.setFnState .cnd .stopping).raise .cnd (if code = 5 ∨ code = 7 ∨ code = 8 then 5 else 4)

/-- The conductor instruction at index `i` of CCODE. -/
def State.ccodeAt (s : State) (c : CastImg) (i : Nat) : BitVec 32 := fld (s.imageWord (c.ccode.addr + 4 * i)) 0 32

/-- The MAJ values of the instruction set (R63). -/
def knownMaj (m : Nat) : Bool :=
  (decide (1 ≤ m) && decide (m ≤ 0x14)) || (decide (0x18 ≤ m) && decide (m ≤ 0x1B))
    || (decide (0x20 ≤ m) && decide (m ≤ 0x24))

/-- The Conductor may execute: it is in RUN, and waits for nothing but possibly a pending summary. -/
def State.mayExecute (s : State) : Bool :=
  s.running .cnd && (match s.cnd.wait with | .none | .summary _ => true | _ => false)

/-- The instruction that a command names is executed if it is the one at PC. A fetch past the end of CCODE raises ADDR,
and one of an undefined MAJ raises BADOP, whichever conductor command meets it (R63, R66, log entry 26). CND_EXC_INSTR
holds zero after a fetch past the end, where there is no instruction (log entry 109). -/
def conduct (maj : BitVec 6) (body : Body) (f : BitVec 32 → State → State) (s : State) : Out :=
  match s.cast with
  | none => .next s
  | some c =>
    if s.mayExecute then
      if s.cnd.past ∨ c.ccode.count ≤ s.cnd.pc.toNat then .next (s.exception 0x08 0 none)
      else
        let w := s.ccodeAt c s.cnd.pc.toNat
        if !knownMaj (fldN w 26 6) then .next (s.exception 0x01 w none)
        else if w = maj ++ body then .next (f w s)
        else .next s
    else .next s

/-- A register instruction: its result, then the next instruction. -/
def conductReg (maj : BitVec 6) (body : Body) (v : State → Word) (s : State) : Out :=
  conduct maj body (fun _ s => (s.putG (iRd body) (v s)).advance) s

/-! ## Arithmetic (R63) -/

/-- 1 or 0. -/
def flagWord (b : Bool) : Word := if b then 1 else 0

/-- The ALU functions; none for the FN values that raise BADOP. -/
def aluFn (fn : BitVec 11) (a b : Word) : Option Word :=
  let n := fldN b 0 6
  match fn.toNat with
  | 0x0 => some (a + b) | 0x1 => some (a - b) | 0x2 => some (a &&& b) | 0x3 => some (a ||| b)
  | 0x4 => some (a ^^^ b) | 0x5 => some (a <<< n) | 0x6 => some (a >>> n) | 0x7 => some (a.sshiftRight n)
  | 0x8 => some (a * b) | 0x9 => some (BitVec.ofNat 64 (a.toNat * b.toNat / 2 ^ 64))
  | 0xA => some (flagWord (a.slt b)) | 0xB => some (flagWord (a.ult b))
  | 0xC => some (if a.slt b then a else b) | 0xD => some (if a.slt b then b else a)
  | 0xE => some (if a.ult b then a else b) | 0xF => some (if a.ult b then b else a)
  | _ => none

/-- ALU (R63). -/
def execAlu (body : Body) (s : State) : Out :=
  conduct 0x01 body (fun w s =>
    match aluFn (iFn body) (s.g (iRs1 body)) (s.g (iRs2 body)) with
    | some v => (s.putG (iRd body) v).advance
    | none => s.exception 0x01 w none) s

/-- ADDI (R63). -/
def execAddi (body : Body) (s : State) : Out := conductReg 0x02 body (fun s => s.g (iRs1 body) + iSext body) s
/-- ANDI (R63). -/
def execAndi (body : Body) (s : State) : Out := conductReg 0x03 body (fun s => s.g (iRs1 body) &&& iZext body) s
/-- ORI (R63). -/
def execOri (body : Body) (s : State) : Out := conductReg 0x04 body (fun s => s.g (iRs1 body) ||| iZext body) s
/-- XORI (R63). -/
def execXori (body : Body) (s : State) : Out := conductReg 0x05 body (fun s => s.g (iRs1 body) ^^^ iZext body) s

/-- The shift of SHI by its kind; none for 0b11. -/
def shiFn (kind : BitVec 2) (a : Word) (n : Nat) : Option Word :=
  if kind = 0 then some (a <<< n) else if kind = 1 then some (a >>> n)
  else if kind = 2 then some (a.sshiftRight n) else none

/-- SHI (R63): [15:14] the kind, [13:6] must be zero. -/
def execShi (body : Body) (s : State) : Out :=
  conduct 0x06 body (fun w s =>
    match shiFn (fld body 14 2) (s.g (iRs1 body)) (fldN body 0 6) with
    | some v => if fldN body 6 8 = 0 then (s.putG (iRd body) v).advance else s.exception 0x01 w none
    | none => s.exception 0x01 w none) s

/-- SLTI (R63). -/
def execSlti (body : Body) (s : State) : Out :=
  conductReg 0x07 body (fun s => flagWord ((s.g (iRs1 body)).slt (iSext body))) s

/-- MOVZ (R63): [20:18] must be zero. -/
def execMovz (body : Body) (s : State) : Out :=
  conduct 0x08 body (fun w s =>
    if fldN body 18 3 = 0 then (s.putG (iRd body) (iZext body <<< (16 * fldN body 16 2))).advance
    else s.exception 0x01 w none) s

/-- MOVK (R63): [20:18] must be zero. -/
def execMovk (body : Body) (s : State) : Out :=
  conduct 0x09 body (fun w s =>
    if fldN body 18 3 = 0 then
      (s.putG (iRd body) (setFld (s.g (iRd body)) (16 * fldN body 16 2) 16 (iImm body).toNat)).advance
    else s.exception 0x01 w none) s

/-! ## Loads and stores (R64) -/

/-- The U-address of a load or store. -/
def State.ldstAddr (s : State) (body : Body) : Nat := (s.g (iRs1 body) + iSext body).toNat

/-- The address lies behind a twin aperture while ALONE acts (R337). -/
def State.behindTwin (s : State) (u : Nat) : Bool := match s.paddr u with | some p => s.dropsWrite p | none => false

/-- The address is a multiple of 8 and mapped, and may be read: not through a twin aperture under ALONE (R337). -/
def State.loadable (s : State) (u : Nat) : Bool :=
  u % 8 == 0 && (s.translRun u 8).isSome && !s.behindTwin u

/-- The load goes out: to T3 it is a transaction (R302). -/
def State.startLoad (s : State) (u : Nat) : State :=
  match s.transl u with
  | some p => if isT3 p then s.startTrans false (p / 64 * 64) 64 .conductor else s
  | none => s

/-- LD (R64). A page in move is waited for (R188). -/
def execLd (body : Body) (s : State) : Out :=
  conduct 0x0A body (fun w s =>
    let u := s.ldstAddr body
    if s.meetsMove u 8 then s
    else if s.loadable u then (s.startLoad u).await (.load (iRd body) u) else s.exception 0x07 w none) s

/-- A transaction of the Conductor is pending. -/
def State.loadPending (s : State) : Bool :=
  (s.lnk.trans ++ s.lnk.stalled).any (fun t => match t.who with | .conductor => !t.write | _ => false)

/-- LD_DATA_RETURN (R64): the value at the address when the data returns. -/
def execLdDataReturn (s : State) : Out :=
  match s.cnd.wait with
  | .load rd u =>
    whenB (s.running .cnd && !s.loadPending && !s.meetsMove u 8) s
      (((s.noteRead 1 u 8).putG rd ((s.readU64 u).getD 0)).advance)
  | _ => .next s

/-- The line of T3 that a store of 8 bytes touches, whose other bytes are read first (log entry 120). -/
def State.storeLines (s : State) (u : Nat) : List Nat :=
  partLines (((s.translRun u 8).getD []).filter (fun p => !s.dropsWrite p))

/-- ST (R64): posted. A page in move is waited for (R188). -/
def execSt (body : Body) (s : State) : Out :=
  conduct 0x0B body (fun w s =>
    let u := s.ldstAddr body
    let l := s.storeLines u
    if u % 8 ≠ 0 ∨ s.refusedTo conductorKey l then (s.forget conductorKey).exception 0x07 w none
    else if s.meetsMove u 8 then s
    else
      match s.missing conductorKey l with
      | a :: t => s.fetch conductorKey (a :: t)
      | [] =>
        match s.writeU .conductor 1 0x3FF u (leBytes 8 (s.g (iRd body)).toNat) with
        | .ok t => ((t.unsettled (consRuns ((s.translRun u 8).getD []))).forget conductorKey).advance
        | .fault _ => s.exception 0x07 w none) s

/-! ## Summary and special registers (R59, R60) -/

/-- Wait while a register of the mask is pending; then act (R60). -/
def State.onceValid (s : State) (mask : BitVec 16) (a : State) : State :=
  if s.anyPending mask then s.await (.summary mask) else a

/-- The mask of one register. -/
def oneSm (n : BitVec 4) : BitVec 16 := 1 <<< n.toNat

/-- RDSM (R63). -/
def execRdsm (body : Body) (s : State) : Out :=
  conduct 0x0C body (fun w s =>
    let n : BitVec 4 := fld body 0 4
    if iRs1 body = 0 ∧ fldN body 4 12 = 0 then
      s.onceValid (oneSm n) ((s.putG (iRd body) (s.smAt n)).advance)
    else s.exception 0x01 w none) s

/-- A special register; none for a number not in the table (R59). -/
def State.special (s : State) (n : Nat) : Option Word :=
  match n with
  | 0 => some s.cnd.step
  | 1 => some s.cnd.run
  | 2 => some (s.cnd.mould.setWidth 64)
  | 3 => some s.cnd.mentry
  | 4 => some ((s.cast.map (·.seed)).getD 0)
  | 5 => some s.bea.count
  | 6 => some (s.cnd.part.setWidth 64)
  | 7 => some (BitVec.ofNat 64 ((s.cast.map (·.base)).getD 0))
  | _ => none

/-- RDSP (R59). -/
def execRdsp (body : Body) (s : State) : Out :=
  conduct 0x0D body (fun w s =>
    match s.special (fldN body 0 6) with
    | some v =>
      if iRs1 body = 0 ∧ fldN body 6 10 = 0 then (s.putG (iRd body) v).advance else s.exception 0x01 w none
    | none => s.exception 0x01 w none) s

/-- SMW (R63). -/
def execSmw (body : Body) (s : State) : Out :=
  conduct 0x0E body (fun w s =>
    let n : BitVec 4 := fld body 0 4
    if iRd body = 0 ∧ fldN body 4 12 = 0 then
      s.onceValid (oneSm n) ((s.putSm n (s.g (iRs1 body))).advance)
    else s.exception 0x01 w none) s

/-- Zero the registers of a mask. -/
def State.clearSm (s : State) (mask : BitVec 16) : State :=
  { s with cnd := { s.cnd with sm := Vector.ofFn (fun i => if bitAt mask i.val then 0 else s.cnd.sm[i]) } }

/-- SMCLR (R63). -/
def execSmclr (body : Body) (s : State) : Out :=
  conduct 0x0F body (fun w s =>
    if iRd body = 0 ∧ iRs1 body = 0 then s.onceValid (iImm body) ((s.clearSm (iImm body)).advance)
    else s.exception 0x01 w none) s

/-! ## Branches and loops (R65, R66) -/

/-- The condition of a BRF; none for 0b111. -/
def brfTaken (cond : BitVec 3) (a b : Word) : Option Bool :=
  match cond.toNat with
  | 0 => some (a == b) | 1 => some (a != b) | 2 => some (a.slt b) | 3 => some (!a.slt b)
  | 4 => some (a.ult b) | 5 => some (!a.ult b) | 6 => some true | _ => none

/-- The first index after the body of the innermost open loop. -/
def State.loopEnd (s : State) : Option Nat := s.cnd.loops.head?.map (·.stop)

/-- A taken BRF (R66): a target past CCODE raises ADDR, unless it ends the iteration; one outside the innermost body
raises BADOP. -/
def State.branchTo (s : State) (t count : Nat) (w : BitVec 32) : State :=
  match s.loopEnd with
  | some e =>
    if t ≠ e ∧ count ≤ t then s.exception 0x08 w none
    else if e < t then s.exception 0x09 w none
    else s.goto t
  | none => if count ≤ t then s.exception 0x08 w none else s.goto t

/-- The CCODE count of the running cast. -/
def State.ccodeCount (s : State) : Nat := (s.cast.map (·.ccode.count)).getD 0

/-- BRF (R66): RS1 [25:21], RS2 [20:16], COND [15:13], OFF [12:0]. -/
def execBrf (body : Body) (s : State) : Out :=
  conduct 0x10 body (fun w s =>
    match brfTaken (fld body 13 3) (s.g (iRd body)) (s.g (iRs1 body)) with
    | none => s.exception 0x0B w none
    | some false => s.advance
    | some true => s.branchTo (s.pc1 + fldN body 0 13) s.ccodeCount w) s

/-- LOOP (R65): COUNT [25:14], LEN [13:0]; the first point that applies decides. -/
def execLoop (body : Body) (s : State) : Out :=
  conduct 0x11 body (fun w s =>
    let count := fldN body 14 12
    let len := fldN body 0 14
    let pc := s.cnd.pc.toNat
    if len = 0 then s.advance
    else if s.ccodeCount < pc + 1 + len then s.exception 0x08 w none
    else if count = 0 then s.goto (pc + 1 + len)
    else if 4 ≤ s.cnd.loops.length then s.exception 0x09 w none
    else { s with cnd := { s.cnd with
        pc := BitVec.ofNat 24 (pc + 1), past := decide (2 ^ 24 ≤ pc + 1), wait := .none
        loops := ⟨pc + 1, pc + 1 + len, count⟩ :: s.cnd.loops } }) s

/-! ## Waits (R70) -/

/-- WAITB (R70). -/
def execWaitb (body : Body) (s : State) : Out :=
  conduct 0x12 body (fun _ s =>
    if body = 0 then s.advance else s.await (.waitB (s.bea.count + body.setWidth 64))) s

/-- WAITB_EXPIRE (R70). -/
def execWaitbExpire (s : State) : Out :=
  match s.cnd.wait with
  | .waitB till => whenB (s.running .cnd && decide (till.toNat ≤ s.bea.count.toNat)) s s.advance
  | _ => .next s

/-- A WAITA whose beat has passed completes with LATE; one within its beat completes on time (R70, R4). -/
def State.metLate (s : State) (till : Word) : State :=
  (s.raiseIf (decide (till.toNat < s.bea.count.toNat)) .cnd 3).advance

/-- WAITA (R70). RD and IMM are not named, and are ignored (log entry 27). -/
def execWaita (body : Body) (s : State) : Out :=
  conduct 0x13 body (fun _ s =>
    let till := s.cnd.run + s.g (iRs1 body)
    if till.toNat ≤ s.bea.count.toNat then s.metLate till else s.await (.waitA till)) s

/-- WAITA_EXPIRE (R70). A wait whose beat passed during a stop is met late (R78). -/
def execWaitaExpire (s : State) : Out :=
  match s.cnd.wait with
  | .waitA till => whenB (s.running .cnd && decide (till.toNat ≤ s.bea.count.toNat)) s (s.metLate till)
  | _ => .next s

/-- The queue levels of F, B and H. -/
def State.levels (s : State) : List Nat := [s.sheet.qF.length, s.sheet.qB.length, s.sheet.qH.length]

/-- The condition of a WAITQ (R70). -/
def State.queuesMet (s : State) (mask : BitVec 3) (done : Bool) (level : Nat) : Bool :=
  (s.levels.zip [0, 1, 2]).all (fun p => !bitAt mask p.2 || decide (p.1 ≤ level))
    && (!done || s.sheet.issued.all (fun w => w.secs &&& mask == 0))

/-- WAITQ (R70): MASK [25:23], DONE [22], [21:8] must be zero, LEVEL [7:0]. -/
def execWaitq (body : Body) (s : State) : Out :=
  conduct 0x14 body (fun w s =>
    if fldN body 8 14 = 0 then
      let mask : BitVec 3 := fld body 23 3
      let done := bitAt body 22
      let level := fldN body 0 8
      if s.queuesMet mask done level then s.advance else s.await (.waitQ mask done level)
    else s.exception 0x01 w none) s

/-- WAITQ_MET (R70). -/
def execWaitqMet (s : State) : Out :=
  match s.cnd.wait with
  | .waitQ mask done level => whenB (s.running .cnd && s.queuesMet mask done level) s s.advance
  | _ => .next s

/-! ## Enqueueing (R67) -/

/-- An AWORDS entry. -/
def State.awordAt (s : State) (c : CastImg) (i : Nat) : AWord :=
  let a := c.awords.addr + 16 * i
  s.imageWord (a + 8) ++ s.imageWord a

/-- Enqueue one word, then continue; refused, it raises an exception; stalled, the Conductor waits. -/
def State.enqueueOne (s : State) (w : AWord) (instr : BitVec 32) : State :=
  match s.enqueue w with
  | .ok t => t.advance
  | .stalled => s.await (.enqOne w)
  | .refused c => s.exception c instr (some w)

/-- Enqueue a run of entries from `i`: the words before a bad index are enqueued (R67). -/
def State.enqueueRun (c : CastImg) (instr : BitVec 32) : Nat → Nat → State → State
  | 0, _, s => s.advance
  | n + 1, i, s =>
    let k := i % 2 ^ 64
    if c.awords.count ≤ k then s.exception 0x05 instr none
    else
      let w := s.awordAt c k
      match s.enqueue w with
      | .ok t => State.enqueueRun c instr n (k + 1) t
      | .stalled => s.await (.enqRun k (n + 1))
      | .refused e => s.exception e instr (some w)

/-- The AWORDS entry that an instruction names, enqueued after a change of its bits. -/
def State.enqueueEntry (s : State) (i : Nat) (f : AWord → AWord) (instr : BitVec 32) : State :=
  match s.cast with
  | some c => if c.awords.count ≤ i then s.exception 0x05 instr none else s.enqueueOne (f (s.awordAt c i)) instr
  | none => s

/-- The entry index of AWI and AWIP. -/
def State.awIndex (s : State) (body : Body) : Nat := (s.g (iRs1 body) + iZext body).toNat

/-- AWI (R67). -/
def execAwi (body : Body) (s : State) : Out :=
  conduct 0x18 body (fun w s =>
    if iRd body = 0 then s.enqueueEntry (s.awIndex body) id w else s.exception 0x01 w none) s

/-- AWIP (R67): field C comes from g[RD]. -/
def execAwip (body : Body) (s : State) : Out :=
  conduct 0x19 body (fun w s =>
    s.enqueueEntry (s.awIndex body) (fun x => fld x 32 96 ++ fld (s.g (iRd body)) 0 32) w) s

/-- AWN (R67). -/
def execAwn (body : Body) (s : State) : Out :=
  conduct 0x1A body (fun w s =>
    match s.cast with
    | some c =>
      if iRd body = 0 then State.enqueueRun c w (iImm body).toNat (s.g (iRs1 body)).toNat s
      else s.exception 0x01 w none
    | none => s) s

/-- AWR (R67). -/
def execAwr (body : Body) (s : State) : Out :=
  conduct 0x1B body (fun w s =>
    if iRd body = 0 ∧ iFn body = 0 then s.enqueueOne (s.g (iRs1 body) ++ s.g (iRs2 body)) w
    else s.exception 0x01 w none) s

/-- ENQUEUE_RESUME (R69): a stalled enqueue proceeds if it can. -/
def execEnqueueResume (s : State) : Out :=
  match s.cast, s.cnd.wait with
  | some c, .enqOne w =>
    whenB (s.running .cnd) s (s.enqueueOne w (s.ccodeAt c s.cnd.pc.toNat))
  | some c, .enqRun i n =>
    whenB (s.running .cnd) s (State.enqueueRun c (s.ccodeAt c s.cnd.pc.toNat) n i s)
  | _, _ => .next s

/-! ## Moulds (R71 to R74) -/

/-- A mould of the running cast. -/
def State.mouldAt (s : State) (m : Nat) : Option Mould := s.cast.bind (fun c => c.moulds[m]?)

/-- The mould being left. -/
def State.mouldNow (s : State) : Mould := (s.mouldAt s.cnd.mould.toNat).getD ⟨0, 0, false, false⟩

/-- Leaving a STEP_END mould that is no abort path advances the step and closes its record (R74, R345). -/
def State.leaveMould (s : State) (m : Mould) : State :=
  if m.stepEnd && !m.abort then ({ s with cnd := { s.cnd with step := s.cnd.step + 1 } }).closeRecord 0 else s

/-- A late entry counts its overrun (R71, R345). -/
def State.countOverrun (s : State) (n : Nat) : State :=
  if n = 0 then s
  else
    let l := s.cnd.late
    let s := { s with cnd := { s.cnd with late := addLo (addHi l 1) n } }
    (s.countRecord 10 n).raise .cnd 3

/-- Enter mould `m` at entry beat `e`. -/
def State.enterMould (s : State) (m : Nat) (d : Mould) (e : Nat) : State :=
  { s with cnd := { s.cnd with
      mould := BitVec.ofNat 12 m, mentry := BitVec.ofNat 64 e, pc := BitVec.ofNat 24 d.code, past := false, fresh := 7,
      wait := .none } }

/-- Transfer to mould `m` (R71, R74): refused inside a loop or past the MOULD count, and inside a loop with the code of
the loop where both hold (log entry 108). -/
def State.transfer (s : State) (m : Nat) (instr : BitVec 32) : State :=
  if !s.cnd.loops.isEmpty then s.exception 0x09 instr none
  else match s.mouldAt m with
  | none => s.exception 0x06 instr none
  | some d =>
    let old := s.mouldNow
    let due := s.cnd.mentry.toNat + old.beats
    let x := s.bea.count.toNat
    let s := (s.countOverrun (x - due)).leaveMould old
    let s := s.enterMould m d (max due x)
    if d.abort then (s.cutPass.closeRecord 1).raise .cnd 7 else s

/-- MJMP (R71). -/
def execMjmp (body : Body) (s : State) : Out :=
  conduct 0x20 body (fun w s =>
    if fldN body 12 14 = 0 then s.transfer (fldN body 0 12) w else s.exception 0x01 w none) s

/-- The condition of an MBR; none for the COND values that raise BADOP (R72). -/
def mbrTaken (cond : BitVec 4) (sm g : Word) : Option Bool :=
  match cond.toNat with
  | 1 => some (sm == 0) | 2 => some (sm != 0) | 3 => some (sm == g) | 4 => some (sm != g)
  | 5 => some (sm.ult g) | 6 => some (!sm.ult g) | 7 => some (sm &&& g != 0) | 8 => some (sm &&& g == 0)
  | _ => none

/-- MBR (R72): COND [25:22], SM [21:18], [17] zero, RS [16:12] zero for ZERO and NONZERO, MOULD [11:0]. The index of one
that is not taken is not checked (log entry 107). -/
def execMbr (body : Body) (s : State) : Out :=
  conduct 0x21 body (fun w s =>
    let cond : BitVec 4 := fld body 22 4
    let n : BitVec 4 := fld body 18 4
    let rs : BitVec 5 := fld body 12 5
    if bitAt body 17 then s.exception 0x01 w none
    else match mbrTaken cond (s.smAt n) (s.g rs) with
    | none => s.exception 0x0B w none
    | some taken =>
      if (cond = 1 ∨ cond = 2) ∧ rs ≠ 0 then s.exception 0x01 w none
      else s.onceValid (oneSm n) (if taken then s.transfer (fldN body 0 12) w else s.advance)) s

/-- MSEL (R71): the index is IMM[11:0] + g[RS1]. -/
def execMsel (body : Body) (s : State) : Out :=
  conduct 0x22 body (fun w s =>
    if iRd body = 0 ∧ fldN body 12 4 = 0 then
      s.transfer ((fld body 0 12).setWidth 64 + s.g (iRs1 body)).toNat w
    else s.exception 0x01 w none) s

/-! ## Ending (R75, R78, R79) -/

/-- The Conductor stops fetching and drains; WHY will be `why`. -/
def State.beginEnd (s : State) (why : BitVec 4) : State :=
  let s := { s with cnd := { s.cnd with ending := why } }
  s.setFnState .cnd .stopping

/-- MEND (R75). -/
def execMend (body : Body) (s : State) : Out :=
  conduct 0x23 body (fun w s =>
    if body ≠ 0 then s.exception 0x01 w none
    else if !s.cnd.loops.isEmpty then s.exception 0x09 w none
    else (s.advance.beginEnd 1).raise .cnd 8) s

/-- HALT (R75). -/
def execHalt (body : Body) (s : State) : Out :=
  conduct 0x24 body (fun w s =>
    if iRd body ≠ 0 ∨ iRs1 body ≠ 0 then s.exception 0x01 w none
    else if !s.cnd.loops.isEmpty then s.exception 0x09 w none
    else
      let s := { s.advance with cnd := { s.advance.cnd with halt := iImm body } }
      (s.beginEnd 3).raise .cnd 6) s

/-- Every queue is empty and every issued word has completed. -/
def State.drained (s : State) : Bool :=
  s.sheet.qF.isEmpty && s.sheet.qB.isEmpty && s.sheet.qH.isEmpty && s.sheet.issued.isEmpty

/-- CONDUCTOR_STOPPED (R75, R77, R78, R85): the drain is over. A cast stopped by STOP is not held. -/
def execConductorStopped (s : State) : Out :=
  let stop : State := (s.setFnState .cnd .stopped).setFnState .ary .stopped
  let stop : State := { stop with cnd := { stop.cnd with why := 2, ending := 0 } }
  whenB (s.fnState .cnd == .stopping && s.drained) s
    (if s.cnd.ending = 2 then stop.closeRecord 8 else s.endCast s.cnd.ending)

/-- STOP written to CND_FN (R78): it cancels an admission, or stops the Conductor at the instruction boundary; a wait
in progress is kept for the resumption. -/
def State.conductorStop (s : State) : State :=
  if s.cnd.adm == .admitting || s.cnd.adm == .admitted then s.cancelAdmission
  else if s.running .cnd then s.beginEnd 2 else s

/-- GO written to CND_FN (R78, R85): it resumes a cast stopped by STOP, if R51 allows. -/
def State.conductorGo (s : State) : State :=
  if s.castRuns && s.cnd.why == 2 && (s.fn.get .cnd).mayGo then
    let s := { s.setFnState .cnd .run with cnd := { s.cnd with why := 0 } }
    s.autoGo .ary
  else s

/-- A write of 1 to CND_QUENCH (R79): pending until the next beat edge, if there is anything to quench. -/
def State.askQuench (s : State) : State :=
  if s.castRuns then { s with cnd := { s.cnd with quench := true } } else s

end Sys2Proof.Machine
end

