-- ==== Sys2Proof/Machine/Sync.lean ====
section
/-! DEFINITION. The words of the beat class that concern one module (R44, R48) and NOP (R14). FBAR stands with the
collectives. -/

namespace Sys2Proof.Machine

/-- NOP (R14): the word waits its WAITB beats and does nothing else. -/
def execNop (a : ArrayArgs) (s : State) : Out := arrayCmd 0xFF a (fun _ s => s) (fun _ s => s) s

/-- The beat that a WAITABS names: the start beat plus A:B, A high (R44). -/
def State.waitabsBeat (s : State) (a : ArrayArgs) : Word := s.cnd.run + (a.a ++ a.b)

/-- WAITABS (R44): it issues no earlier than its beat, and sets BEA_CAUSE.LATE if that beat has passed (R4). -/
def execWaitabs (a : ArrayArgs) (s : State) : Out :=
  let till := s.waitabsBeat a
  if till.toNat ≤ s.bea.count.toNat then
    arrayCmd 0xC0 a (fun _ s => s.raiseIf (decide (till.toNat < s.bea.count.toNat)) .bea 4) (fun _ s => s) s
  else .next s

/-- The sections that a word of the beat class needs, by the partition in force. -/
def State.secsNow (s : State) (w : AWord) : BitVec 3 := wordSecs s.sheet.set.current.part w

/-- The sections of an SBAR reach it: they leave their queues and are held (R44). -/
def State.reachSbar (s : State) (secs need : BitVec 3) (e : QEnt) : State :=
  let h := (s.taken secs e).sheet
  let old := s.sheet.issued.any (fun w => w.seq == e.seq)
  let issued := if old then
      s.sheet.issued.map (fun w => if w.seq = e.seq then { w with secs := w.secs ||| secs } else w)
    else h.issued
  let sbars := if old then h.sbars.map (fun b => if b.seq = e.seq then { b with got := b.got ||| secs } else b)
    else h.sbars ++ [⟨e.seq, need, secs⟩]
  { s with sheet := { h with issued := issued, sbars := sbars } }

/-- The sections in `secs`, if an SBAR with the bits of `w` stands at their head and may be reached. -/
def State.trySbar (w : AWord) (secs : BitVec 3) (s : State) : State :=
  let need := s.secsNow w
  match s.headOf secs with
  | some e => if e.word = w && secs &&& need == secs then s.reachSbar secs need e else s
  | none => s

/-- SBAR (R44): each named section whose stream has come to the word waits at it. In the unified partition the Sheet
is one stream, in the pair of queues F and B. -/
def execSbar (a : ArrayArgs) (s : State) : Out :=
  let w := arrayWord 0xC1 a
  let s' := if s.sheet.set.current.part = 1 then s.trySbar w 3 else (s.trySbar w 1).trySbar w 2
  .next (s'.trySbar w 4)

/-- A barrier word completes and its sections resume. -/
def State.release (s : State) (seq : Nat) : State :=
  match s.sheet.issued.find? (fun w => w.seq == seq) with
  | some w => s.completeWord w
  | none => s

/-- SBAR_RELEASE (R44): every named section has reached the word. -/
def execSbarRelease (seq : Nat) (s : State) : Out :=
  match s.sheet.sbars.find? (fun b => b.seq == seq) with
  | some b =>
    let t := { s with sheet := { s.sheet with sbars := s.sheet.sbars.filter (fun x => x.seq != seq) } }
    whenB (b.got == b.need) s (t.release seq)
  | none => .next s

/-- PART (R48): the switch begins once the word has issued and no earlier word of the Sheet is left. -/
def execPart (a : ArrayArgs) (s : State) : Out :=
  arrayCmd 0xC3 a (fun e s =>
    let target : BitVec 2 := fld a.c 0 2
    let w : PartSwitch :=
      { seq := e.seq, target := target, same := target == s.sheet.set.current.part, beat0 := none, stuck := false,
        dropped := false, n := s.fn.ary.epoch }
    ({ s with sheet := { s.sheet with switch := some w } }).switchBegin) (fun _ s => s) s

/-- Every unit of the Sheet reports the epoch n + 1 of a switch: the staged settings become current (R50). -/
def State.applySwitch (s : State) (w : PartSwitch) : State :=
  let t := s.sheet.set
  let s := { s with sheet := { s.sheet with set := { t with before := some t.current, current := t.staged } } }
  s.putFn .ary { s.fn.ary with applied := w.n + 1, mixed := false }

/-- A unit has not applied the epoch: the switch waits on the host (R48). -/
def State.stickSwitch (s : State) (w : PartSwitch) : State :=
  ({ s with sheet := { s.sheet with switch := some { w with stuck := true, beat0 := none } } }).raise .ary 5

/-- PART_APPLY_CHECK (R48): beat 9 of the switch. Whether every unit applies the epoch is free (log entry 23). -/
def execPartApplyCheck (s : State) : Out :=
  match s.sheet.switch with
  | some w =>
    match s.switchBeat w with
    | some n =>
      let t := if Config.unitsApply s.fresh then s.drawn.applySwitch w else s.drawn.stickSwitch w
      whenB (!w.same && decide (9 ≤ n) && s.fn.ary.mixed) s t
    | none => .next s
  | none => .next s

end Sys2Proof.Machine
end

