-- ==== Sys2Proof/Machine/Cast.lean ====
section
/-! DEFINITION. The cast image, its admission and its start (R33 to R41, R58, R186 to R201), and the writes of
CND_CAST_BASE and CND_RUN (R39, R81). -/

namespace Sys2Proof.Machine

/-! ## Reading the image under the load map -/

/-- A byte of the image. One that the load map does not map reads as zero: so do the FLAGS bytes that check 2 reads at a
CND_CAST_BASE near the end of the range, which then ask for no privilege (log entry 102). -/
def State.imageByte (s : State) (u : Nat) : Byte := if u < t2Size then s.readByte (unstripe u) else 0

/-- Bytes of the image. -/
def State.imageBytes (s : State) (u n : Nat) : List Byte := (List.range n).map (fun i => s.imageByte (u + i))

/-- A little-endian number of `n` bytes in the image. -/
def State.imageNum (s : State) (u n : Nat) : Nat := leNat (s.imageBytes u n)

/-- Every byte of a range is zero. -/
def State.imageZero (s : State) (u n : Nat) : Bool := (List.range n).all (fun i => s.imageByte (u + i) == 0)

/-! ## Segments (R35, R36) -/

/-- A segment entry as the table holds it. -/
structure SegEntry where
  type   : Nat
  count  : Nat
  offset : Nat
  bytes  : Nat
  check  : Nat
  zeros  : Bool
  deriving DecidableEq, Repr

/-- Entry `i` of SEG_TABLE. -/
def State.segAt (s : State) (base i : Nat) : SegEntry :=
  let u := base + 0x100 + 32 * i
  { type := s.imageNum u 1, zeros := s.imageZero (u + 1) 3, count := s.imageNum (u + 4) 4,
    offset := s.imageNum (u + 8) 8, bytes := s.imageNum (u + 16) 8, check := s.imageNum (u + 24) 8 }

/-- The entries below SEG_COUNT. -/
def State.segs (s : State) (base : Nat) : List SegEntry := (List.range (s.imageNum (base + 10) 2)).map (s.segAt base)

/-- Entry size and limit of a segment type; none for an invalid type (R36, R136, R239). -/
def segKind (t : Nat) : Option (Nat × Nat) :=
  match t with
  | 0x01 => some (4, 16777216) | 0x02 => some (16, 268435456) | 0x03 => some (4, 4096)
  | 0x04 => some (4, 16384) | 0x05 => some (32, 65536) | 0x06 => some (8, 268435456)
  | 0x07 => some (8, 64) | 0x08 => some (16, 16777216) | 0x09 => some (16, 4096)
  | 0x0A => some (512, 4) | 0x0B => some (16, 4096)
  | _ => none

/-- One segment entry is in order, its CHECK included. A segment of no bytes lies wherever its OFFSET says. -/
def State.segOk (s : State) (base castBytes : Nat) (e : SegEntry) : Bool :=
  match segKind e.type with
  | none => false
  | some (size, limit) =>
    e.zeros && decide (e.count ≤ limit) && e.offset % 4096 == 0
      && e.bytes == (e.count * size + 4095) / 4096 * 4096
      && (e.bytes == 0 || (decide (4096 ≤ e.offset) && decide (e.offset + e.bytes ≤ castBytes)))
      && (crc64 0 (s.imageBytes (base + e.offset) e.bytes)).toNat == e.check

/-- Two segments do not overlap and differ in type; one of no bytes overlaps nothing. -/
def segApart (a b : SegEntry) : Bool :=
  a.type != b.type && (a.bytes == 0 || b.bytes == 0 || decide (a.offset + a.bytes ≤ b.offset) || decide (b.offset + b.bytes ≤ a.offset))

/-- The entries are pairwise apart. -/
def segsApart : List SegEntry → Bool
  | [] => true
  | e :: t => t.all (segApart e) && segsApart t

/-- The segment of a type, by its U-address; an absent one is empty. -/
def segOf (base : Nat) (l : List SegEntry) (t : Nat) : Segment :=
  match l.find? (fun e => e.type == t) with
  | some e => ⟨base + e.offset, e.count⟩
  | none => ⟨base, 0⟩

/-- CCODE, MOULD and TMAP are present with entries (R36). -/
def segsPresent (l : List SegEntry) : Bool :=
  [1, 9, 6].all (fun t => l.any (fun e => e.type == t && e.count != 0))

/-! ## The image as admission copies it -/

/-- A mould entry. -/
def State.mouldEntry (s : State) (u : Nat) : Mould :=
  let f := s.imageNum (u + 8) 2
  ⟨s.imageNum u 4, s.imageNum (u + 4) 4, f % 2 == 1, f / 2 % 2 == 1⟩

/-- The entries of a segment, each read by `f` from its address. -/
def entries {α : Type} (g : Segment) (size : Nat) (f : Nat → α) : List α :=
  (List.range g.count).map (fun i => f (g.addr + size * i))

/-- The quotas of a QUOTA segment, by 4a + t (R190). -/
def State.quotas (s : State) (g : Segment) : SMap Nat :=
  (entries g 8 (fun u => s.imageNum u 8)).foldl (fun m v => smPut 0 m (v / 2 ^ 58) (v % 2 ^ 32)) []

/-- The image at `base`, with the copies of R36. -/
def State.imageAt (s : State) (base : Nat) : CastImg :=
  let l := s.segs base
  let seg := segOf base l
  { base := base, bytes := s.imageNum (base + 0x10) 8, flags := BitVec.ofNat 32 (s.imageNum (base + 0xC) 4),
    firstMould := s.imageNum (base + 0x1C) 4, firstStep := BitVec.ofNat 64 (s.imageNum (base + 0xB0) 8),
    seed := BitVec.ofNat 64 (s.imageNum (base + 0xB8) 8),
    ccode := seg 1, awords := seg 2, tmap := seg 6, migr := seg 8,
    moulds := entries (seg 9) 16 s.mouldEntry,
    desc := entries (seg 5) 32 (fun u => BitVec.ofNat 256 (s.imageNum u 32)),
    eprog := entries (seg 3) 4 (fun u => BitVec.ofNat 32 (s.imageNum u 4)),
    bprog := entries (seg 4) 4 (fun u => BitVec.ofNat 32 (s.imageNum u 4)),
    quota := s.quotas (seg 7),
    slots := entries (seg 11) 16 (fun u =>
      ⟨BitVec.ofNat 64 (s.imageNum u 8), BitVec.ofNat 64 (s.imageNum (u + 8) 8), false, false⟩),
    fmtt := entries (seg 10) 512 (fun u =>
      (List.range 256).map (fun i => BitVec.ofNat 16 (s.imageNum (u + 2 * i) 2))) }

/-! ## Checks 3 to 7 (R39) -/

/-- R33: the image lies on a 64 KiB boundary and wholly below 0x01E0_0000_0000. -/
def baseOk (base bytes : Nat) : Bool :=
  base % 0x10000 == 0 && bytes % 0x10000 == 0 && decide (4096 ≤ bytes) && decide (base + bytes ≤ t2Size)

/-- The header with HDR_CHECK taken as zero. -/
def State.headerBytes (s : State) (base : Nat) : List Byte :=
  s.imageBytes base 0xC0 ++ List.replicate 8 0 ++ s.imageBytes (base + 0xC8) (0x300 - 0xC8)

/-- Check 3: MAGIC, FORMAT_REV, HDR_CHECK, reserved bytes, BEAT_NS and R33. -/
def State.check3 (s : State) (base : Nat) : Bool :=
  let n := s.imageNum (base + 10) 2
  s.imageNum base 8 == 0x31305453_41434E59 && s.imageNum (base + 8) 2 == 1
    && decide (1 ≤ n) && decide (n ≤ 16)
    && decide (s.imageNum (base + 12) 4 < 8)
    && s.imageNum (base + 0x18) 4 == 1000
    && s.imageZero (base + 0xC8) 56 && s.imageZero (base + 0x100 + 32 * n) (32 * (16 - n))
    && s.imageZero (base + 0x300) 3328
    && (crc64 0 (s.headerBytes base)).toNat == s.imageNum (base + 0xC0) 8
    && baseOk base (s.imageNum (base + 0x10) 8)

/-- One entry of REQ_SIZE against the Size Table (R2, R17, R18, R34). -/
def State.sizeOk (s : State) (base k : Nat) : Bool :=
  let r := s.imageNum (base + 0x20 + 8 * k) 8
  if k = 0 then r / 2 ^ 48 == 0x594E
  else if k ≤ 3 then r == (s.sizEntry k).toNat
  else decide (r ≤ (s.sizEntry k).toNat)

/-- Check 4. -/
def State.check4 (s : State) (base : Nat) : Bool := (List.range 18).all (s.sizeOk base)

/-- Check 5: the segment table and each segment's CHECK. -/
def State.check5 (s : State) (base : Nat) : Bool :=
  let l := s.segs base
  l.all (s.segOk base (s.imageNum (base + 0x10) 8)) && segsApart l && segsPresent l

/-- One mould entry (R38). -/
def State.mouldOk (s : State) (c : CastImg) (u : Nat) : Bool :=
  decide (s.imageNum u 4 < c.ccode.count) && s.imageNum (u + 4) 4 != 0 && decide (s.imageNum (u + 8) 2 < 4)
    && s.imageZero (u + 10) 6

/-- The mould table (R38). -/
def State.mouldsOk (s : State) (c : CastImg) (g : Segment) : Bool :=
  (entries g 16 (s.mouldOk c)).all id
    && (match c.moulds[c.firstMould]? with | some m => !m.abort | none => false)

/-- R37: the tier map sends every page of the image to its place under the load map. -/
def State.selfMapped (s : State) (c : CastImg) : Bool :=
  (List.range (c.bytes / 0x10000)).all (fun i =>
    let k := c.base / 0x10000 + i
    decide (k < c.tmap.count) && (let e := s.tmapAt c k; eValid e && eHome e == 0x4000000 + k))

/-- One tier-map entry (R185, R186): a home is a place, or a fixed home in an open aperture. -/
def State.entryOk (s : State) (e : Word) : Bool :=
  if eValid e then
    !bitAt e 1 && eLive e == eHome e
      && ((s.tierOf (eHome e)).isSome
          || (match pageAp (eHome e) with | some a => !s.inPool (eHome e) && s.apOpen a | none => false))
  else e == 0

/-- No repetition. -/
def noRepeat : List Nat → Bool
  | [] => true
  | a :: t => !t.contains a && noRepeat t

/-- No two homes of one band lie in different views (R182). -/
def viewsAgree (l : List (Nat × Word)) : Bool :=
  let lin := linearBands l
  l.all (fun e => match bandOf (eHome e.2) with | some (n, false) => !lin.contains n | _ => true)

/-- TMV_CFG names a valid pool with every aperture open (R183, R206). -/
def State.poolOk (s : State) : Bool :=
  match s.pool with
  | none => true
  | some (lo, hi) =>
    decide (32 ≤ lo) && decide (lo ≤ hi) && (List.range (hi + 1 - lo)).all (fun i => s.apOpen (lo + i))

/-- The tier map (R37, R185, R186). -/
def State.mapOk (s : State) (c : CastImg) : Bool :=
  let l := s.mapped c
  s.selfMapped c && (List.range c.tmap.count).all (fun k => s.entryOk (s.tmapAt c k))
    && noRepeat (l.map (fun e => eHome e.2)) && viewsAgree l && s.poolOk

/-- The quotas (R190, R191). -/
def State.quotaOk (s : State) (c : CastImg) (g : Segment) : Bool :=
  let l := entries g 8 (fun u => s.imageNum u 8)
  l.all (fun v => v / 2 ^ 32 % 2 ^ 26 == 0) && noRepeat (l.map (fun v => v / 2 ^ 58))
    && (List.range 4).all (fun t => match s.crucible c.quota t with
        | some k => decide (s.crucibleUse (s.mapped c) c.quota t ≤ k)
        | none => false)

/-- A page that a MIGR entry may name: mapped, no fixed home, no image page (R189, R194). -/
def State.mayMigrate (s : State) (c : CastImg) (k : Nat) : Bool :=
  let e := s.tmapAt c k
  eValid e && !s.fixedHome (eHome e) && !c.imagePage k

/-- One MIGR entry (R194). -/
def State.migrOk (s : State) (c : CastImg) (u : Nat) : Bool :=
  let first := s.imageNum u 4
  let n := s.imageNum (u + 4) 4
  decide (first < 2 ^ 28) && decide (n < 2 ^ 24) && decide (s.imageNum (u + 8) 1 < 4)
    && decide (s.imageNum (u + 9) 1 < 2) && s.imageZero (u + 10) 6 && decide (first + n ≤ c.tmap.count)
    && (List.range n).all (fun i => s.mayMigrate c (first + i))

/-- The first U-page of a slot's buffer: A or B (R201). -/
def Slot.page (t : Slot) (b : Bool) : Nat := if b then fldN t.lo 32 28 else fldN t.lo 0 28
/-- MAXLEN. -/
def Slot.maxLen (t : Slot) : Nat := fldN t.hi 0 32
/-- ELASTIC. -/
def Slot.elastic (t : Slot) : Nat := fldN t.hi 32 8

/-- A slot entry (R201). -/
def State.slotOk (s : State) (c : CastImg) (t : Slot) : Bool :=
  fldN t.lo 28 4 == 0 && fldN t.lo 60 4 == 0 && fldN t.hi 40 24 == 0
    && decide (t.elastic ≤ 50) && (t.elastic == 0 || bitAt c.flags 2)
    && [false, true].all (fun b => decide (t.page b < c.tmap.count)
        && (let e := s.tmapAt c (t.page b); eValid e && eAcct e == 10))

/-- Check 6: moulds, tier map, quotas, migration schedule and slots. -/
def State.check6 (s : State) (c : CastImg) : Bool :=
  let seg := segOf c.base (s.segs c.base)
  s.mouldsOk c (seg 9) && s.mapOk c && s.quotaOk c (seg 7) && (entries (seg 8) 16 (s.migrOk c)).all id
    && c.slots.all (s.slotOk c)

/-- Check 7: MIRROR needs a soldered twin, or ALONE (R337). -/
def State.check7 (s : State) (c : CastImg) : Bool :=
  !bitAt c.flags 0 || s.twn.pair == .soldered || s.alone

/-- Check 8: the start beat is in the future. -/
def State.check8 (s : State) : Bool := decide (s.bea.count.toNat < s.cnd.run.toNat)

/-! ## Admission -/

/-- Admission is refused with the cause of bit `n` of CND_CAUSE; the staging copies are discarded. -/
def State.refuseCast (s : State) (n : Nat) : State :=
  ({ s with staged := none, cnd := { s.cnd with adm := .refused } }).raise .cnd n

/-- Admission is complete (R41, R81). -/
def State.stageCast (s : State) (c : CastImg) : State :=
  { s with staged := some c, cnd := { s.cnd with adm := .admitted }, tmv := { s.tmv with map := .admitted } }

/-- The places of a range of the image. -/
def imagePlaces (u n : Nat) : List Nat := ((List.range n).filter (fun i => decide (u + i < t2Size))).map (fun i => unstripe (u + i))

/-- Admission reads a range of the image: errors are corrected and counted or recorded, with SRC 1 (R217, R228). -/
def State.noteImage (s : State) (u n : Nat) : State :=
  if s.mdv.diff.isEmpty && s.mdv.unsealed.isEmpty && s.mdv.lost.isEmpty then s
  else s.noteMem .conductor (some u) (imagePlaces u n)

/-- A range of the image holds an uncorrectable error. -/
def State.imageDouble (s : State) (u n : Nat) : Bool :=
  !s.mdv.diff.isEmpty && (s.badCols (imagePlaces u n)).any s.doubleCol

/-- The ranges that the segment checks read. -/
def State.segRanges (s : State) (base : Nat) : List (Nat × Nat) := (s.segs base).map (fun e => (base + e.offset, e.bytes))

/-- The state after reading the segments. -/
def State.noteSegs (s : State) (base : Nat) : State :=
  (s.segRanges base).foldl (fun s r => s.noteImage r.1 r.2) s

/-- CAST_ADMISSION (R39): checks 3 to 8 in order, once the module is in PS0 (R389). An uncorrectable error ends it at check
3, in the header, or at check 5, in a segment. -/
def execCastAdmission (s : State) : Out :=
  let base := s.cnd.castBase.toNat
  let c := s.imageAt base
  let h := s.noteImage base 4096
  let t := h.noteSegs base
  whenB (s.cnd.adm == .admitting && s.sys.ps == 0 && s.sys.entering.isNone && s.running .mdv && !s.rst.arrayBusy) s
    (if s.imageDouble base 4096 || !s.check3 base then h.refuseCast 1
     else if !s.check4 base then h.refuseCast 0
     else if (s.segRanges base).any (fun r => s.imageDouble r.1 r.2) || !s.check5 base then t.refuseCast 1
     else if !s.check6 c then t.refuseCast 1
     else if !s.check7 c then t.refuseCast 1
     else if !s.check8 then t.refuseCast 3
     else t.stageCast c)

/-- A write of CND_CAST_BASE (R81). -/
def State.putCastBase (s : State) (v : Word) : State :=
  if s.noCast then { s with cnd := { s.cnd with castBase := fld v 0 48 } } else s.raise .cnd 2

/-- The header FLAGS that need OPERATOR or OWNER are set (check 2 of R39). -/
def State.flagsNeedOperator (s : State) : Bool :=
  let f := s.imageNum (s.cnd.castBase.toNat + 12) 4
  f / 2 % 2 == 1 || f / 4 % 2 == 1

/-- A write of CND_RUN that passes checks 1 and 2 starts admission (R39). -/
def State.putRunBeat (s : State) (v : Word) : State :=
  if s.stopped .cnd && s.noCast then { s with cnd := { s.cnd with run := v, adm := .admitting } }
  else s.raise .cnd 2

/-! ## Start (R41, R58, R85) -/

/-- CAST_START (R41): the edge of the start beat. The Conductor's epoch advances, and the Sheet and the tier manager
enter RUN where R51 allows. -/
def execCastStart (s : State) : Out :=
  match s.staged with
  | none => .next s
  | some c =>
    let f := s.fn.cnd
    let t := (s.loadCast c).putFn .cnd
      { state := .run, epoch := f.applied + 1, applied := f.applied + 1, mixed := false }
    whenB (s.cnd.adm == .admitted && decide (s.cnd.run.toNat ≤ s.bea.count.toNat) && !s.rst.arrayBusy) s
      (((t.autoGo .ary).autoGo .tmv).notePeaks.openRecord)

end Sys2Proof.Machine
end

