-- ==== Sys2Proof/Machine/Random.lean ====
section
/-! DEFINITION. The counter generator, Philox 4×32 with 10 rounds, and the key and counter of a draw (R151 to R153). -/

namespace Sys2Proof.Machine

/-- The four counter words. -/
structure Ctr where
  c0 : BitVec 32
  c1 : BitVec 32
  c2 : BitVec 32
  c3 : BitVec 32
  deriving DecidableEq, Repr

/-- High and low halves of a 64-bit product. -/
def mulHiLo (a b : BitVec 32) : BitVec 32 × BitVec 32 :=
  let p := a.setWidth 64 * b.setWidth 64
  (fld p 32 32, fld p 0 32)

/-- One round (R151). -/
def philoxRound (c : Ctr) (k0 k1 : BitVec 32) : Ctr :=
  let a := mulHiLo 0xD2511F53 c.c0
  let b := mulHiLo 0xCD9E8D57 c.c2
  ⟨b.1 ^^^ c.c1 ^^^ k0, b.2, a.1 ^^^ c.c3 ^^^ k1, a.2⟩

/-- How the keys advance between rounds. -/
def philoxKeys (k : BitVec 32 × BitVec 32) : BitVec 32 × BitVec 32 := (k.1 + 0x9E3779B9, k.2 + 0xBB67AE85)

/-- A round, after which the keys advance. -/
def philoxStep (p : Ctr × BitVec 32 × BitVec 32) : Ctr × BitVec 32 × BitVec 32 :=
  (philoxRound p.1 p.2.1 p.2.2, philoxKeys p.2)

/-- Philox 4×32-10 (R151). -/
def philox (c : Ctr) (k0 k1 : BitVec 32) : Ctr := ((List.range 10).foldl (fun p _ => philoxStep p) (c, k0, k1)).1

/-- Draw words 0 to 3 of a use (R152). -/
def drawWords (seed step : Word) (tensor use : Nat) (e : Nat) : Ctr :=
  philox ⟨BitVec.ofNat 32 e, BitVec.ofNat 32 (2 ^ 16 * (tensor % 2 ^ 16) + e / 2 ^ 32 % 2 ^ 16), fld step 0 32,
          BitVec.ofNat 32 (2 ^ 24 * (use % 256) + fldN step 32 24)⟩ (fld seed 0 32) (fld seed 32 32)

/-- One of the four words. -/
def Ctr.word (c : Ctr) (i : Nat) : BitVec 32 :=
  match i with
  | 0 => c.c0 | 1 => c.c1 | 2 => c.c2 | _ => c.c3

/-- The element number of element `n` of a slot at `slot`, in a tensor at `u` (R153). -/
def elementNumber (slot u n : Nat) : Nat :=
  (1024 * (((slot + 2 ^ 48 - u % 2 ^ 48) % 2 ^ 48) / 64) + n) % 2 ^ 48

end Sys2Proof.Machine
end

