-- ==== Sys2Proof/Machine/Operands.lean ====
section
/-! DEFINITION. Tile descriptors (R89 to R92), slot addresses, reading a slot as exact values, converting values into a
slot (R101, R123 to R126, R309), slag masks (R258 to R261), and the step order of a word (R99). -/

namespace Sys2Proof.Machine

/-! ## Descriptors -/

/-- A tile descriptor (R89, R90) with the index that named it. -/
structure Desc where
  index  : Nat
  layout : Nat
  mx     : Bool
  foil   : Nat
  tfOk   : Bool
  tf     : Nat
  uaddr  : Nat
  tq     : Nat
  tp     : Nat
  tc     : Nat
  tr     : Nat
  ocol   : Int
  orow   : Int
  mparam : Nat
  zero3  : Nat
  cvf    : Nat
  sround : Bool
  slagm  : Bool
  bcast  : Bool
  halo   : Nat
  amode  : Nat
  ae     : Int
  rp     : Nat
  top0   : Nat
  deriving DecidableEq, Repr

/-- The fields of a 256-bit entry. -/
def descOf (index : Nat) (w : Wide) : Desc :=
  { index := index, layout := fldN w 61 3, mx := bitAt w 56, foil := fldN w 53 3, tfOk := bitAt w 52
    tf := fldN w 48 4, uaddr := fldN w 0 48, tq := fldN w 112 16, tp := fldN w 96 16, tc := fldN w 80 16
    tr := fldN w 64 16, ocol := sext 32 (fldN w 160 32), orow := sext 32 (fldN w 128 32), mparam := fldN w 240 16
    zero3 := fldN w 232 8, cvf := fldN w 227 5, sround := bitAt w 226, slagm := bitAt w 225, bcast := bitAt w 224
    halo := fldN w 220 4, amode := fldN w 218 2, ae := sext 10 (fldN w 208 10), rp := fldN w 192 16
    top0 := fldN w 48 16 }

/-- An entry of the T1 descriptor table (R36). -/
def State.descWide (s : State) (i : Nat) : Wide := BitVec.ofNat 256 (leNat (s.bytes (descBase + 32 * i) 32))

/-- The descriptor with index `i`. -/
def State.desc (s : State) (i : Nat) : Desc := descOf i (s.descWide i)

/-- COUNT of the DESC segment of the cast. -/
def State.descCount (s : State) : Nat :=
  match s.cast with
  | some c => c.desc.length
  | none => 0

/-- The format of a descriptor. -/
def Desc.fm (d : Desc) : Fm := fmOf d.tf

/-- The slot size of a descriptor. -/
def Desc.size (d : Desc) : Nat := slotSize d.fm d.mx d.foil

/-- Check 4 of a word on a descriptor: an invalid zero (R13, R89, R90). -/
def Desc.zeroBad (d : Desc) (readsAmode : Bool) : Bool := !d.tfOk || (readsAmode && d.amode == 0)

/-- Check 5 of a word on a descriptor: a reserved value, an invalid combination, the layout rules, an unloaded
codebook (R89 to R92, R114, R309). -/
def Desc.reservedBad (loaded : BitVec 4) (d : Desc) : Bool :=
  decide (3 < d.layout) || decide (4 < d.foil) || d.zero3 != 0 || (d.layout != 2 && (d.cvf != 0 || d.halo != 0))
    || d.size == 0 || (d.fm.isCb && !bitAt loaded (d.tf - 12)) || d.uaddr % 64 != 0 || (d.layout == 3 && d.tr != 1)
    || (d.rp != 0 && decide (d.rp < if d.layout = 1 then d.tr else d.tc))

/-- The address of slot (i, j) of plane p at section row r and column k (R92). -/
def Desc.slotAt (d : Desc) (c : CoreAt) (i j p : Nat) : Int :=
  let off : Int := if d.bcast then 0 else 64 * ((c.r : Int) * d.orow + (c.k : Int) * d.ocol)
  let n := if d.layout = 1 then (p * d.tc + j) * (if d.rp = 0 then d.tr else d.rp) + i
    else (p * d.tr + i) * (if d.rp = 0 then d.tc else d.rp) + j
  (d.uaddr : Int) + off + (d.size * n : Nat)

/-- The slot of a vector descriptor that holds element `e` (R92). -/
def Desc.vecSlot (d : Desc) (c : CoreAt) (e : Nat) : Int := d.slotAt c 0 (e / 1024) 0

/-! ## Slots that a step needs (R99) -/

/-- A slot that a core needs at a step: its address, its size, whether it is written, the descriptor, and whether the
slag mask that decides on it names no mask (R260). -/
structure Need where
  u     : Int
  n     : Nat
  write : Bool
  desc  : Nat
  bad   : Bool
  deriving DecidableEq, Repr

/-- The slot leaves the U-range (R92). -/
def outsideU (u : Int) (n : Nat) : Bool := decide (u < 0) || decide (2 ^ 44 < u.toNat + n)

/-- A write to the slot would meet a read-only aperture (R300). -/
def State.roSlot (s : State) (u n : Nat) : Bool :=
  match s.paddr u, s.paddr (u + n - 1) with
  | some a, some z => [a, z].any (fun p => isT3 p && !s.apWritable p && !s.dropsWrite p)
  | _, _ => false

/-- The first U-address of a range that the hub cannot read for the word: one that is not translated, or in a line that
its target has refused. -/
def State.lostFor (s : State) (u n : Nat) : Option Nat :=
  (s.firstUnmapped u n).or (if s.slotRefused u n then some u else none)

/-- The slot is a translation fault. -/
def State.needFails (s : State) (q : Need) : Bool :=
  q.bad || outsideU q.u q.n || (s.firstLost q.write q.u.toNat q.n).isSome || (q.write && s.roSlot q.u.toNat q.n)
    || (!q.write && s.slotRefused q.u.toNat q.n)

/-- A U-address as a fault record shows it. -/
def recAddr (u : Int) : Nat := (u % (2 ^ 48 : Nat)).toNat

/-- One step of a word (R99): the result tile it belongs to, the slots each core needs, what each core does. `σ` is the
state with whatever the word carries beside it. -/
structure WStep (σ : Type) where
  tile  : Nat
  needs : CoreAt → List Need
  act   : CoreAt → σ → σ

/-- What is left after a word's steps: the state, the tiles of the steps carried out, and the core and slot of the
faulting step if there is one. -/
structure Ran (σ : Type) where
  st   : σ
  did  : List Nat
  stop : Option (CoreAt × Need)

/-- The first need of a step that fails, over the cores in ascending section index (R99). -/
def State.stepFault (s : State) (cores : List CoreAt) (needs : CoreAt → List Need) : Option (CoreAt × Need) :=
  cores.findSome? (fun c => ((needs c).find? s.needFails).map (fun q => (c, q)))

/-- Carry out steps in order up to the faulting step; a step acts on every participating core, in ascending section
index, or on none (R99; log entry 31). -/
def runSteps {σ : Type} (view : σ → State) (cores : List CoreAt) : List (WStep σ) → σ → Ran σ
  | [], s => ⟨s, [], none⟩
  | t :: ts, s =>
    match (view s).stepFault cores t.needs with
    | some q => ⟨s, [], some q⟩
    | none =>
      let r := runSteps view cores ts (cores.foldl (fun s c => t.act c s) s)
      { r with did := t.tile :: r.did }

/-- The flaw of a translation fault. -/
def faultFlaw (q : CoreAt × Need) : Flaw := ⟨0x20, 2, q.1.c, 2 ^ 16 * q.2.desc, some (recAddr q.2.u)⟩

/-! ## Reading slots -/

/-- An entry of a codebook (R114). -/
def State.book (s : State) (n i : Nat) : BitVec 16 := smGet 0 s.fmt.books (256 * n + i)

/-- The bytes of a slot. -/
def State.slotBytes (s : State) (u n : Nat) : List Byte := ((s.translRun u n).getD []).map s.readByte

/-- A foil slot decoded by port L: its check value is recomputed, and a mismatch, which a second read does not mend,
stops the phase (R311, R328). -/
def State.foilCheck (s : State) (core foil u desc : Nat) (bs : List Byte) : State :=
  let n := dataBytes (foilElem foil).width + 32
  let f := { s.fol with tiles := addLo s.fol.tiles 1 }
  let s := { s with fol := f }
  if (crc32c (bs.take n)).toNat = leNat ((bs.drop n).take 4) then s
  else
    let s := { s with fol := { f with crc := addHi f.crc 1 } }
    let w : Word := faultWord 0x40 0 0 core (2 ^ 8 * desc + 1)
    let s := if recordFree s .fol (bitAt s.fol.fault 0) then s.putFault .fol w (some u) else s
    (s.raise .fol 3).phaseStop

/-- Read a slot of a descriptor for a core: its bytes, and the state with what the read leaves. -/
def State.readSlot (s : State) (src core : Nat) (d : Desc) (u : Int) : List Byte × State :=
  let bs := s.slotBytes u.toNat d.size
  let s := s.noteRead src u.toNat d.size
  (bs, if d.foil = 0 then s else s.foilCheck core d.foil u.toNat d.index bs)

/-- The exact values of a slot's 1,024 elements; those of an A128 slot under R124. -/
def State.valuesOf (s : State) (d : Desc) (bs : List Byte) : List Num :=
  if d.fm = .a128 then (accOfSlot bs).values else slotValues s.book d.fm d.mx d.foil bs

/-- Read a slot as exact values. -/
def State.readTile (s : State) (src core : Nat) (d : Desc) (u : Int) : List Num × State :=
  let r := s.readSlot src core d u
  (s.valuesOf d r.1, r.2)

/-- Element (y, x) of a tile taken from (x, y): the transposed tile (R254). -/
def transposeL {α : Type} (a : α) (l : List α) : List α :=
  (List.range 1024).map (fun n => l.getD (32 * (n % 32) + n / 32) a)

/-! ## Converting into slots -/

/-- What conversions add to the counters, and whether one of them overflowed to infinity or was tiny and inexact. -/
structure Counts where
  sat    : Nat := 0
  nanz   : Nat := 0
  nfrows : Nat := 0
  ovf    : Bool := false
  tiny   : Bool := false
  deriving DecidableEq, Repr

/-- Count conversions. -/
def countConvs (l : List Conv) : Counts :=
  { sat := (l.filter (·.sat)).length, nanz := (l.filter (·.nanz)).length
    ovf := l.any (fun c => c.beyond && !c.sat), tiny := l.any (fun c => c.tiny && c.inexact) }

/-- The rows of a slot with scales, packed: data, scales; and the converted elements. -/
def packScaled (f : Fm) (draws : Nat → Option Nat) (vals : List Num) : List Byte × List Conv :=
  let rows := (rowsOf 32 vals).zipIdx.map (fun p => mxRow (mxLay f) (fun x => draws (32 * p.2 + x)) p.1)
  (packElems f.width (rows.flatMap (fun r => r.2.map (·.bits))) ++ rows.map (fun r => BitVec.ofNat 8 r.1),
   rows.flatMap (·.2))

/-- The rows that hold a non-finite value. -/
def badRows (vals : List Num) : Nat := ((rowsOf 32 vals).filter (fun r => !r.all Num.isFin)).length

/-- The bytes of a foil slot (R309, R311). -/
def packFoil (tf : Fm) (foil : Nat) (d0 d1 : Nat → Option Nat) (vals : List Num) : List Byte × Counts :=
  let conv := vals.zipIdx.map (fun p => (mxLay tf).convert false (d0 p.2) p.1)
  let vs := conv.map (fun c => (mxLay tf).decode c.bits)
  let r := packScaled (foilElem foil) d1 vs
  let n := slotSize tf false foil
  let a := countConvs conv
  let b := countConvs r.2
  (padTo n (r.1 ++ leBytes 4 (crc32c r.1).toNat),
   { b with nfrows := badRows vs, ovf := a.ovf || b.ovf, tiny := a.tiny || b.tiny })

/-- The bytes of a slot of values, under the rules of R123 to R126 and R309. -/
def packSlot (f : Fm) (mx : Bool) (foil : Nat) (d0 d1 : Nat → Option Nat) (vals : List Num) : List Byte × Counts :=
  if foil ≠ 0 then packFoil f foil d0 d1 vals
  else if mx then
    let r := packScaled f d0 vals
    (padTo (slotSize f true 0) r.1, countConvs r.2)
  else
    let l := vals.zipIdx.map (fun p => convertTo f (d0 p.2) p.1)
    (packElems f.width (l.map (·.bits)), countConvs l)

/-- The draw of an element of a slot for stochastic rounding, word `i` of use 0 (R126, R152, R309). -/
def State.draw (s : State) (d : Desc) (step : Word) (u : Nat) (i n : Nat) : Option Nat :=
  if d.sround then
    let seed := match s.cast with | some c => c.seed | none => 0
    some ((drawWords seed step d.index 0 (elementNumber u d.uaddr n)).word i).toNat
  else none

/-- Count conversions in FMT_CONV and, for a foil, in the registers of FOL (R123, R131, R309). -/
def State.noteConv (s : State) (foil : Bool) (c : Counts) : State :=
  let s := { s with fmt := { s.fmt with conv := addLo (addHi s.fmt.conv c.sat) c.nanz } }
  let s := s.raiseIf (decide (0 < c.nanz)) .fmt 0
  if foil then
    let f := s.fol
    let s := { s with fol := { f with tiles := addHi f.tiles 1, nfrows := addLo f.nfrows c.nfrows } }
    s.raiseIf (decide (0 < c.nfrows)) .fol 4
  else s

/-- The bytes of a slot of a descriptor about to be written at `u`, with its conversions counted. -/
def State.slotImage (s : State) (d : Desc) (step : Word) (u : Nat) (vals : List Num) : List Byte × State :=
  let r := packSlot d.fm d.mx d.foil (s.draw d step u 0) (s.draw d step u 1) vals
  (r.1, s.noteConv (d.foil != 0) r.2)

/-- The slot of a plain output whose elements are some stored and the rest kept. -/
def mergeElems (d : Desc) (draw : Nat → Option Nat) (old : List Byte) (vals : List (Option Num)) :
    List Byte × List Conv :=
  let conv := vals.zipIdx.map (fun p => p.1.map (convertTo d.fm (draw p.2)))
  let bits := (conv.zip (slotElems d.fm old)).map (fun p => match p.1 with | some c => c.bits | none => p.2)
  (packElems d.fm.width bits, conv.filterMap id)

/-- Which bytes of a slot hold part of an element of a list, given by whether each is meant. -/
def mineBytes (w : Nat) : List Bool → List Bool
  | a :: b :: c :: d :: t =>
    (if w = 6 then [a || b, b || c, c || d]
     else if w = 4 then [a || b, c || d]
     else List.replicate (w / 8) a ++ List.replicate (w / 8) b ++ List.replicate (w / 8) c ++ List.replicate (w / 8) d)
      ++ mineBytes w t
  | _ => []

/-- A core with a higher section index has written the byte in the word being carried out (R94). -/
def State.outranked (s : State) (core p : Nat) : Bool :=
  s.sheet.writers.any (fun w => decide (core < w.1) && decide (w.2.1 ≤ p) && decide (p < w.2.1 + w.2.2))

/-- Write bytes of a slot for a word, of which a core means those that `mine` marks; the rest stand as they were read. The
slot's faults have been looked for before the step. A byte that a core with a higher section index has written in the same
word keeps its value (R94); core numbers of a section rise with the section index. -/
def State.writeSome (s : State) (blk : Blk) (seq core : Nat) (u : Int) (bs : List Byte) (mine : List Bool) : State :=
  let ps := (s.translRun u.toNat bs.length).getD []
  let kept := if s.sheet.writers.all (fun w => decide (w.1 ≤ core)) || ps.length != bs.length then bs
    else (ps.zip bs).map (fun q => if s.outranked core q.1 then s.byte q.1 else q.2)
  match s.writeU (.word seq blk) 0 core u.toNat kept with
  | .ok t =>
    let own := consRuns (((ps.zip mine).filter (·.2)).map (·.1))
    { t with sheet := { t.sheet with writers := t.sheet.writers ++ own.map (fun r => (core, r.1, r.2)) } }
  | .fault _ => s

/-- Write all the bytes of a slot for a word. -/
def State.writeSlot (s : State) (blk : Blk) (seq core : Nat) (u : Int) (bs : List Byte) : State :=
  s.writeSome blk seq core u bs (List.replicate bs.length true)

/-- Convert values into a slot (R101). -/
def State.writeTile (s : State) (blk : Blk) (e : QEnt) (core : Nat) (d : Desc) (u : Int) (vals : List Num) : State :=
  let r := s.slotImage d e.step u.toNat vals
  r.2.writeSlot blk e.seq core u r.1

/-! ## Slag masks (R258 to R261) -/

/-- Whether the slot at `u` is written under the slag mask of its descriptor; none if MPARAM names no mask. -/
def State.maskTest (s : State) (d : Desc) (u : Int) : Option Bool :=
  if !d.slagm then some true
  else if s.descCount ≤ d.mparam then none
  else
    let w := s.descWide d.mparam
    let maddr := fldN w 0 48
    let mbase := fldN w 64 48
    if fldN w 48 16 ≠ 0 ∨ fldN w 112 16 ≠ 0x534C ∨ fldN w 160 32 ≠ 0 ∨ fldN w 192 64 ≠ 0 ∨ maddr % 8 ≠ 0 then none
    else if u < mbase then some true
    else
      let b := (u.toNat - mbase) / d.size
      if fldN w 128 32 ≤ b then some true
      else match s.transl (maddr + b / 8) with
        | some p => some (bitAt (s.readByte p) (b % 8))
        | none => none

/-- The addresses of the bitmap bytes for the slots of a core, each once, as runs (R261). -/
def State.maskRuns (s : State) (d : Desc) (us : List Int) : List (Nat × Nat) :=
  if !d.slagm || decide (s.descCount ≤ d.mparam) then []
  else
    let w := s.descWide d.mparam
    let mbase := fldN w 64 48
    let bytes := us.filterMap (fun u =>
      let b := (u.toNat - mbase) / d.size
      if (mbase : Int) ≤ u ∧ b < fldN w 128 32 then some (fldN w 0 48 + b / 8) else none)
    consRuns ((bytes.foldl (fun m b => smPut false m b true) []).map (·.1))

/-- The read of the bitmap bytes for its own slots, once per core, at issue (R187, R192, R217, R261). -/
def State.noteMasks (s : State) (d : Desc) (slots : List (List Int)) : State :=
  slots.foldl (fun s us => (s.maskRuns d us).foldl (fun s r => s.noteRead 0 r.1 r.2) s) s

/-- The need of a Z slot at its write-out: none when it is a slag tile. -/
def zNeed (d : Desc) (u : Int) (keep : Option Bool) : List Need :=
  match keep with
  | some false => []
  | some true => [⟨u, d.size, true, d.index, false⟩]
  | none => [⟨u, d.size, true, d.index, true⟩]

/-- The need of a slot that is read. -/
def rNeed (d : Desc) (u : Int) : Need := ⟨u, d.size, false, d.index, false⟩

/-- Add to ARY_SLAG: slag tiles above, idle cores below (R97, R101). -/
def State.slagTiles (s : State) (n : Nat) : State := { s with sheet := { s.sheet with slag := addHi s.sheet.slag n } }

/-- Cores that the core limit leaves out (R97). -/
def State.idleCores (s : State) (t : Sect) (limit : Nat) : State :=
  { s with sheet := { s.sheet with slag := addLo s.sheet.slag (s.sectCores t - min limit (s.sectCores t)) } }

/-- The canonical runs of a slot, as destinations (R79). -/
def State.slotDests (s : State) (u : Int) (n : Nat) : List (Nat × Nat) :=
  consRuns ((s.translRun u.toNat n).getD [])

end Sys2Proof.Machine
end

