-- ==== Sys2Proof/Machine/Groups.lean ====
section
/-! DEFINITION. Groups and how the blocks of a collective travel (chapter 14): the group table (R313), the owner,
rotation and direction of a tile (R321), the order of the blocks on each ring, the values they carry (R322), and the
scalar exchange (R324). -/

namespace Sys2Proof.Machine

/-! ## Groups (R313) -/

/-- A group entry. -/
structure Group where
  valid : Bool
  gid   : BitVec 13
  size  : Nat → Nat
  at_   : Nat → Nat
  plus  : Nat → BitVec 18
  minus : Nat → BitVec 18

/-- Entry `g` of a group table: word 4g is HDR, 4g + 1 + d is Dd. -/
def groupOf (m : SMap Word) (g : Nat) : Group :=
  let d (i : Nat) : Word := smGet 0 m (4 * g + 1 + i)
  { valid := bitAt (smGet 0 m (4 * g)) 63, gid := fld (smGet 0 m (4 * g)) 0 13
    size := fun i => fldN (d i) 39 13, at_ := fun i => fldN (d i) 52 12
    plus := fun i => fld (d i) 18 18, minus := fun i => fld (d i) 0 18 }

/-- J. -/
def Group.j (g : Group) : Nat := g.size 0 * g.size 1 * g.size 2

/-- m, the member index of a member with these coordinates. -/
def Group.index (g : Group) (k : Nat → Nat) : Nat := k 0 + g.size 0 * (k 1 + g.size 1 * k 2)

/-- This module's member index. -/
def Group.m (g : Group) : Nat := g.index g.at_

/-- The entry is usable. -/
def Group.usable (g : Group) : Bool :=
  g.valid && [0, 1, 2].all (fun d => decide (1 ≤ g.size d) && decide (g.size d ≤ 4096) && decide (g.at_ d < g.size d))
    && decide (g.j ≤ 262144)

/-- The coordinate of member `o` on dimension `d`. -/
def Group.coord (g : Group) (o d : Nat) : Nat :=
  (match d with | 0 => o | 1 => o / g.size 0 | _ => o / (g.size 0 * g.size 1)) % g.size d

/-- The group that the settings in force give an entry of the table; an index beyond the table names no usable one. -/
def State.groupAt (s : State) (g : Nat) : Group :=
  if g < 64 then groupOf s.fol.set.current g else groupOf [] 0

/-! ## Tiles (R321) -/

/-- The member that owns a tile. A broadcast's tiles belong to its root. -/
def Inst.owner (i : Inst) (g : Group) (n : Nat) : Nat :=
  match i.kind with
  | .reduceScatter => n / i.nz
  | .gather => n / i.nx
  | .broadcast root => root
  | _ => n % g.j

/-- The position of a tile with its owner; of a broadcast, its number (log entry 39). -/
def Inst.pos (i : Inst) (g : Group) (n : Nat) : Nat :=
  match i.kind with
  | .reduceScatter => n % i.nz
  | .gather => n % i.nx
  | .broadcast _ => n
  | _ => n / g.j

/-- The rotation of a tile. -/
def Inst.rot (i : Inst) (g : Group) (n : Nat) : Nat := i.pos g n % 3

/-- The tile travels in the minus direction. -/
def Inst.minusWay (i : Inst) (g : Group) (n : Nat) : Bool := i.pos g n / 3 % 2 == 1

/-- The tiles of the full vector. -/
def Inst.total (i : Inst) : Nat :=
  match i.kind with
  | .gather => i.nz
  | _ => i.nx

/-- The dimension of phase `p` of a reduction in rotation `r`. -/
def redDim (r p : Nat) : Nat := (r + p) % 3
/-- The dimension of phase `p` of a gather in rotation `r`. -/
def gathDim (r p : Nat) : Nat := (r + 2 - p) % 3

/-- One block on a ring: its tile, its phase and its step. -/
structure Item where
  n : Nat
  p : Nat
  s : Nat
  deriving DecidableEq, Repr

/-- A channel: gather or reduction, dimension, direction. -/
structure Chan where
  gath  : Bool
  d     : Nat
  minus : Bool
  deriving DecidableEq, Repr

/-- The number of a channel. -/
def Chan.key (c : Chan) : Nat := (if c.gath then 6 else 0) + 2 * c.d + c.minus.toNat

/-- Every channel. -/
def allChans : List Chan :=
  [false, true].flatMap (fun g => [0, 1, 2].flatMap (fun d => [⟨g, d, false⟩, ⟨g, d, true⟩]))

/-- A member shares this module's coordinates on some dimensions. -/
def Group.shares (g : Group) (o : Nat) (dims : List Nat) : Bool := dims.all (fun d => g.coord o d == g.at_ d)

/-- The tiles, ascending, of rotation `r` in a direction whose owner shares coordinates and stands at `c` on `d`. -/
def Inst.ringTiles (i : Inst) (g : Group) (r d c : Nat) (minus : Bool) (dims : List Nat) : List Nat :=
  (List.range i.total).filter (fun n => i.rot g n == r && i.minusWay g n == minus
    && (let o := i.owner g n; g.coord o d == c && g.shares o dims))

/-- The blocks of a reduction on a channel in the order they travel: sent to the neighbour, or received (R321). -/
def Inst.redItems (i : Inst) (g : Group) (c : Chan) (recv : Bool) : List Item :=
  let n := g.size c.d
  let k := g.at_ c.d
  let more : Nat := recv.toNat
  (List.range 3).flatMap (fun p =>
    let r := (c.d + 3 - p) % 3
    (List.range (n - 1)).flatMap (fun s0 =>
      let s := s0 + 1
      let at_ := if c.minus then (k + s + more) % n else (k + 2 * n - s - more) % n
      (i.ringTiles g r c.d at_ c.minus ((List.range p).map (redDim r))).map (fun t => ⟨t, p, s⟩)))

/-- The blocks of a gather on a channel in the order they travel (R321). -/
def Inst.gathItems (i : Inst) (g : Group) (c : Chan) (recv : Bool) : List Item :=
  let n := g.size c.d
  let k := g.at_ c.d
  (List.range 3).flatMap (fun p =>
    let r := (c.d + 1 + p) % 3
    let later := (List.range (2 - p)).map (fun q => gathDim r (p + 1 + q))
    (List.range (n - 1)).flatMap (fun s0 =>
      let far := if recv then s0 + 1 else s0
      let at_ := if c.minus then (k + far) % n else (k + n - far) % n
      (i.ringTiles g r c.d at_ c.minus later).map (fun t => ⟨t, p, s0 + 1⟩)))

/-- This member sends a broadcast's block on, or receives it, in a phase over `d` in a direction (R321). -/
def bcastHop (n k root : Nat) (minus recv : Bool) : Bool :=
  let a := (k + n - root) % n
  let b := (n - a) % n
  if minus then
    let far := (n - 1) / 2
    if recv then decide (1 ≤ b) && decide (b ≤ far) else decide (b < far)
  else
    let far := n / 2
    if recv then decide (1 ≤ a) && decide (a ≤ far) else decide (a < far)

/-- The blocks of a broadcast on a channel; its phases run in the order of a gather (log entry 39). -/
def Inst.bcastItems (i : Inst) (g : Group) (root : Nat) (c : Chan) (recv : Bool) : List Item :=
  (List.range 3).flatMap (fun p =>
    let r := (c.d + 1 + p) % 3
    let later := (List.range (2 - p)).map (fun q => gathDim r (p + 1 + q))
    if bcastHop (g.size c.d) (g.at_ c.d) (g.coord root c.d) c.minus recv && g.shares root later then
      ((List.range i.nx).filter (fun t => t % 3 == r)).map (fun t => ⟨t, p, 0⟩)
    else [])

/-- The blocks of an instance on a channel, in order. -/
def Inst.items (i : Inst) (g : Group) (c : Chan) (recv : Bool) : List Item :=
  match i.kind, c.gath with
  | .reduceScatter, false | .allReduce _, false => i.redItems g c recv
  | .gather, true | .allReduce _, true => i.gathItems g c recv
  | .broadcast root, true => i.bcastItems g root c recv
  | _, _ => []

/-! ## Values (R317, R322) -/

/-- The instance sums. -/
def InstKind.sums : InstKind → Bool
  | .reduceScatter => true
  | .allReduce op => op == 3
  | _ => false

/-- Combine two elements. -/
def InstKind.comb (k : InstKind) (a b : Int) : Int :=
  match k with
  | .allReduce 1 => max a b
  | .allReduce 2 => Int.ofNat (a.toNat ||| b.toNat)
  | _ => a + b

/-- Combine two tiles. -/
def InstKind.combine (k : InstKind) (a b : List Int) : List Int := (a.zip b).map (fun p => k.comb p.1 p.2)

/-- The bytes of an element of a partial sum of `leaves` contributions (R268). -/
def InstKind.width (k : InstKind) (leaves : Nat) : Nat :=
  if k.sums then (if leaves ≤ 1 then 1 else if leaves ≤ 256 then 2 else 4) else 1

/-- Elements as bytes, two's complement and little-endian. -/
def packInts (w : Nat) (l : List Int) : List Byte := l.flatMap (fun v => leBytes w (v % Int.ofNat (2 ^ (8 * w))).toNat)

/-- Bytes as unsigned elements. -/
def byteInts (l : List Byte) : List Int := l.map (fun b => Int.ofNat b.toNat)

/-- Elements of a partial sum out of its bytes. -/
def InstKind.unpack (k : InstKind) (w : Nat) (l : List Byte) : List Int :=
  if k.sums then (List.range (l.length / w)).map (fun i => sext (8 * w) (leNat (chunk w i l))) else byteInts l

/-- L of phase `p` in rotation `r`: the product of the sizes of the rings of the earlier phases. -/
def Group.before (g : Group) (r p : Nat) : Nat := ((List.range p).map (fun q => g.size (redDim r q))).foldl (· * ·) 1

/-- Leaves that a block carries at a step. -/
def Inst.leaves (i : Inst) (g : Group) (t : Item) : Nat := t.s * g.before (i.rot g t.n) t.p

/-- A block received in a reduction phase. -/
def Inst.rxAt (i : Inst) (n p : Nat) : Option (List Int) :=
  match smGet [] i.rx (4 * n + p) with
  | [] => none
  | l => some l

/-- An X tile of this member. -/
def Inst.ownAt (i : Inst) (n : Nat) : Option (List Int) :=
  match smGet [] i.own n with
  | [] => none
  | l => some l

/-- What this member contributes to tile `n` in phase `p`: its X tile, and from then on the sum that it has kept. -/
def Inst.contrib (i : Inst) (g : Group) (n : Nat) : Nat → Option (List Int)
  | 0 => i.ownAt n
  | p + 1 =>
    match i.contrib g n p with
    | none => none
    | some a =>
      if g.size (redDim (i.rot g n) p) = 1 then some a
      else (i.rxAt n p).map (fun b => i.kind.combine b a)

/-- The sum that leaves this member. -/
def Inst.outgoing (i : Inst) (g : Group) (t : Item) : Option (List Int) :=
  match i.contrib g t.n t.p with
  | none => none
  | some a => if t.s = 1 then some a else (i.rxAt t.n t.p).map (fun b => i.kind.combine b a)

/-- The slot bytes of the result of an owned tile. -/
def Inst.final (i : Inst) (g : Group) (n : Nat) : Option (List Byte) :=
  (i.contrib g n 3).map (packInts (if i.kind.sums then 4 else 1))

/-- The slot bytes of tile `n` of a gather or a broadcast, once this member has them. -/
def Inst.gathered (i : Inst) (g : Group) (n : Nat) : Option (List Byte) :=
  let bytes (o : Option (List Int)) : Option (List Byte) := o.map (packInts 1)
  if i.owner g n = g.m then
    match i.kind with
    | .gather => bytes (i.ownAt (n % i.nx))
    | .broadcast _ => bytes (i.ownAt n)
    | _ => i.final g n
  else bytes (i.rxAt n 3)

/-- The bytes of a block that may be sent. -/
def Inst.blockOut (i : Inst) (g : Group) (c : Chan) (t : Item) : Option (List Byte) :=
  if c.gath then i.gathered g t.n else (i.outgoing g t).map (packInts (i.kind.width (i.leaves g t)))

/-- The tiles of Z that this member writes, with the tile of the full vector that each holds. -/
def Inst.zTiles (i : Inst) (g : Group) : List (Nat × Nat) :=
  match i.kind with
  | .reduceScatter => (List.range i.nz).map (fun t => (t, g.m * i.nz + t))
  | _ => (List.range i.nz).map (fun t => (t, t))

/-- The bytes of tile `n` of the result, once known. -/
def Inst.result (i : Inst) (g : Group) (n : Nat) : Option (List Byte) :=
  match i.kind with
  | .reduceScatter => i.final g n
  | _ => i.gathered g n

/-! ## The scalar exchange (R318, R324, R45) -/

/-- Combine two values with their DIFFER bits. -/
def InstKind.scalarOp (k : InstKind) (a b : Word × Bool) : Word × Bool :=
  match k with
  | .scalar op =>
    let u (c : Bool) : Word := if c then a.1 else b.1
    match op with
    | 1 => (a.1 ||| b.1, false)
    | 2 => (a.1 &&& b.1, false)
    | 3 => (a.1 ^^^ b.1, false)
    | 4 => (a.1 + b.1, false)
    | 5 => (u (decide (b.1.toNat ≤ a.1.toNat)), false)
    | 6 => (u (decide (a.1.toNat ≤ b.1.toNat)), false)
    | 7 => (u (decide (b.1.toInt ≤ a.1.toInt)), false)
    | 8 => (u (decide (a.1.toInt ≤ b.1.toInt)), false)
    | _ => (a.1, a.2 || b.2 || a.1 != b.1)
  | _ => (if a.1.toNat < b.1.toNat then b.1 else a.1, false)

/-- What a scalar delivers: SAME answers whether the values differ. -/
def InstKind.scalarResult (k : InstKind) (v : Word × Bool) : Word :=
  match k with
  | .scalar 9 => if v.2 then 1 else 0
  | _ => v.1

/-- A value to send: the dimension, whether to the minus neighbour, and the value. -/
abbrev RingSend := Nat × Bool × Word × Bool

/-- Take the first value received from a side, out of an inbox. -/
def takeFrom (key : Nat) : List (Nat × Word × Bool) → Option ((Word × Bool) × List (Nat × Word × Bool))
  | [] => none
  | e :: t =>
    if e.1 = key then some (e.2, t)
    else match takeFrom key t with
      | some (v, r) => some (v, e :: r)
      | none => none

/-- The exchange enters dimension `d` with the value it has: it passes over rings of size 1 and sends the first value
to the plus neighbour. -/
def Ring.enter (g : Group) (r : Ring) : Nat → Nat → Ring × List RingSend
  | 0, _ => ({ r with done := true }, [])
  | left + 1, d =>
    if g.size d ≤ 1 then r.enter g left (d + 1)
    else ({ r with dim := d, step := 1, half := false, vp := r.acc, vm := r.acc }, [(d, false, r.acc.1, r.acc.2)])

/-- The next step of the ring under way, or the next dimension. -/
def Ring.next (g : Group) (r : Ring) : Ring × List RingSend :=
  if r.step < g.size r.dim / 2 then
    ({ r with step := r.step + 1, half := false }, [(r.dim, false, r.vp.1, r.vp.2)])
  else r.enter g (2 - r.dim) (r.dim + 1)

/-- Take one received value into the exchange, if the one it waits for has come. -/
def Ring.take (k : InstKind) (g : Group) (r : Ring) : Option (Ring × List RingSend) :=
  if r.done then none
  else match takeFrom (2 * r.dim + r.half.toNat) r.inbox with
    | none => none
    | some (v, rest) =>
      let r := { r with inbox := rest, acc := k.scalarOp r.acc v }
      if r.half then some (({ r with vm := v }).next g)
      else
        let r := { r with vp := v }
        if r.step ≤ (g.size r.dim - 1) / 2 then some ({ r with half := true }, [(r.dim, true, r.vm.1, r.vm.2)])
        else some (r.next g)

/-- Take every value that may be taken. -/
def Ring.run (k : InstKind) (g : Group) : Nat → Ring → Ring × List RingSend
  | 0, r => (r, [])
  | n + 1, r =>
    match r.take k g with
    | none => (r, [])
    | some (r, l) => let q := r.run k g n; (q.1, l ++ q.2)

/-- The exchange of a value starts. -/
def Ring.begin (g : Group) (v : Word) (r : Ring) : Ring × List RingSend := ({ r with acc := (v, false) }).enter g 3 0

end Sys2Proof.Machine
end

