-- ==== Sys2Proof/Machine/Tiers.lean ====
section
/-! DEFINITION. The tier manager (chapter 8): placing pages and evicting, page moves, MIGRATE, STEPADM, release. -/

namespace Sys2Proof.Machine

/-! ## Placing (R191 to R193) -/

/-- The pages of the cast with, for a page in move, its destination beside its live place: pages of account `a` that
claim a place of tier `t`. A page in move claims a place in both tiers until it has moved (log entry 29). -/
def State.claims (s : State) (l : List (Nat × Word)) (a t : Nat) : Nat :=
  s.living l a t + (s.tmv.moving.filter (fun m =>
    m.src != m.dst && s.tierOf m.dst == some t && s.tierOf m.src != some t
      && (l.any (fun e => e.1 == m.upage && eAcct e.2 == a)))).length

/-- c_t with the claims of pages in move. -/
def State.claimUse (s : State) (l : List (Nat × Word)) (t : Nat) : Nat :=
  overAccounts (fun a => s.claims l a t - quotaOf s.tir.quota a t)

/-- k_t of the running cast. -/
def State.crucibleNow (s : State) (t : Nat) : Nat := (s.crucible s.tir.quota t).getD 0

/-- The page numbers that hold a page or are about to. -/
def State.occupied (s : State) (l : List (Nat × Word)) : List Nat :=
  l.map (fun e => eLive e.2) ++ s.tmv.moving.map (·.dst)

/-- The first page of a list that is not occupied. -/
def firstFree (occ : List Nat) : List Nat → Option Nat
  | [] => none
  | p :: t => if occ.contains p then firstFree occ t else some p

/-- The striped pages from band `n` upward that are free, the first of them; linear bands are passed over. -/
def stripedFree (occ lin : List Nat) : Nat → Nat → Option Nat
  | 0, _ => none
  | fuel + 1, n =>
    if 1310720 ≤ n then none
    else if lin.contains n then stripedFree occ lin fuel (n + 1)
    else match firstFree occ ((List.range 24).map (fun j => 0x4000000 + 24 * n + j)) with
      | some p => some p
      | none => stripedFree occ lin fuel (n + 1)

/-- Ascending insertion without repeats. -/
def insertNat (a : Nat) : List Nat → List Nat
  | [] => [a]
  | b :: t => if a < b then a :: b :: t else if a = b then b :: t else b :: insertNat a t

/-- The lowest place of tier `t` that holds no page (R193). In T2 the linear view lies below the striped one. -/
def State.lowestFree (s : State) (l : List (Nat × Word)) (t : Nat) : Option Nat :=
  let occ := s.occupied l
  match t with
  | 0 => firstFree occ ((List.range s.sizCores).flatMap (fun c => (List.range 6).map (fun j => 16 * c + j)))
  | 1 => firstFree occ ((List.range 3040).map (fun j => 0x4000 + j))
  | 2 =>
    let lin := linearBands l
    let asc := lin.foldl (fun m n => insertNat n m) []
    match firstFree occ ((List.range 24).flatMap (fun d => asc.map (fun n => 0x1000000 + 0x140000 * d + n))) with
    | some p => some p
    | none => stripedFree occ lin (occ.length + asc.length + 1) 0
  | _ =>
    match s.pool with
    | some (lo, hi) =>
      firstFree occ ((List.range (min (0x100000 * (hi + 1 - lo)) (occ.length + 1))).map
        (fun j => 0x10000000 + 0x100000 * lo + j))
    | none => none

/-- The last-touch beat of a page (R192). -/
def State.touched (s : State) (k : Nat) : Nat := (smGet 0 s.tmv.touch k).toNat

/-- The older of two candidates: least last-touch beat, then lowest U-page. -/
def State.older (s : State) (a b : Nat × Word) : Nat × Word :=
  if s.touched b.1 < s.touched a.1 ∨ (s.touched b.1 = s.touched a.1 ∧ b.1 < a.1) then b else a

/-- oldest_evictable(t, page) of R193; the pages of the image never move (R189). -/
def State.victim (s : State) (l : List (Nat × Word)) (t page : Nat) : Option (Nat × Word) :=
  let ok (e : Nat × Word) : Bool :=
    let a := eAcct e.2
    s.tierOf (eLive e.2) == some t && !pinned a && e.1 != page && !s.inMove e.1 && !s.readOnlyPage e.1
      && decide (quotaOf s.tir.quota a t < s.living l a t)
  match l.filter ok with
  | [] => none
  | e :: r => some (r.foldl s.older e)

/-! ## Moving a page -/

/-- The canonical addresses of the 65,536 bytes of a place. -/
def State.placeBytes (s : State) (p : Nat) : List Nat :=
  (List.range 0x10000).filterMap (fun i => s.canon (0x10000 * p + i))

/-- Write the bytes of a page to a place as the tier manager: refused whole in a running working window (R225); a
write to T3 goes out as a transaction (R302). -/
def State.writePage (s : State) (seq p : Nat) (bs : List Byte) : State :=
  let ps := s.placeBytes p
  match s.windowHit ps with
  | some q => s.refuseWindow 2 q
  | none =>
    let s := s.storeBytes .tier none (ps.zip bs)
    if (pageAp p).isSome then s.startTrans true (0x10000 * p) 0x10000 (.word seq .tmv) else s

/-- The page has moved: its bytes at the new place, or zero, LIVE rewritten, the touch beat and the counts (R188,
R192, R206). -/
def State.landPage (s : State) (m : Move) : State :=
  match s.cast with
  | none => s
  | some c =>
    let from_ := s.placeBytes m.src
    let bs := if m.zero then List.replicate 0x10000 0 else from_.map s.readByte
    let s := if m.zero then s else s.noteMem .tier (some (0x10000 * m.upage)) from_
    let s := (s.writePage m.seq m.dst bs).putLive c m.upage m.dst
    let a := (s.tierOf m.src).getD 0
    let b := (s.tierOf m.dst).getD 0
    let mv := s.tmv.moves
    let t := s.tmv
    ({ s with tmv := { t with
        moves := if a < b then addHi mv 1 else if b < a then addLo mv 1 else mv
        touch := if b ≤ 2 then smPut 0 t.touch m.upage s.bea.count else t.touch } }).notePeaks

/-- A page may be written to a place: not one in an aperture with WR 0 (R300). -/
def State.placeWritable (s : State) (p : Nat) : Bool := (pageAp p).isNone || s.apWritable (0x10000 * p)

/-- The source of a move holds an uncorrectable error, so the move is abandoned (R199). -/
def State.sourceBad (s : State) (m : Move) : Bool :=
  !m.zero && !s.mdv.diff.isEmpty && (s.badCols (s.placeBytes m.src)).any s.doubleCol

/-- The error is recorded under R227; the page stays where it was (R199). -/
def State.noteSource (s : State) (m : Move) : State := s.noteMem .tier (some (0x10000 * m.upage)) (s.placeBytes m.src)

/-- The outcome of a placement: a place, or none, with the state after the evictions that it made. -/
abbrev Placed := State × Option Nat

/-- Whether page of account `a` may enter tier `t` without eviction (R191). -/
def State.mayEnter (s : State) (l : List (Nat × Word)) (a t : Nat) : Bool :=
  decide (s.claims l a t < quotaOf s.tir.quota a t) || decide (s.claimUse l t < s.crucibleNow t)

/-- place_in of R193, with `fuel` turns left over all levels. An eviction moves its page at once; one whose source cannot be
read or whose place cannot be written is not made. -/
def placeIn : Nat → Nat → Nat → Nat → State → Placed
  | 0, _, _, _, s => (s, none)
  | fuel + 1, page, acct, t, s =>
    let l := s.pages
    if t = 3 ∧ s.pool.isNone then (s, none)
    else if s.mayEnter l acct t then (s, s.lowestFree l t)
    else if 3 ≤ t then (s, none)
    else match s.victim l t page with
      | none => (s, none)
      | some v =>
        let old := eLive v.2
        match placeIn fuel v.1 (eAcct v.2) (t + 1) s with
        | (s, none) => (s, none)
        | (s, some d) =>
          if s.sourceBad ⟨v.1, old, d, false, 0⟩ then (s.noteSource ⟨v.1, old, d, false, 0⟩, none)
          else if !s.placeWritable d then (s, none)
          else
          let s := s.landPage ⟨v.1, old, d, false, 0⟩
          let s := { s with tmv := { s.tmv with evict := addLo s.tmv.evict 1 } }
          if s.claimUse s.pages t < s.crucibleNow t then (s, some old) else placeIn fuel page acct t s

/-- Every move of a MIGRATE word has been made or has failed; a word with WAIT may then complete (R196). -/
def State.movesDone (s : State) (seq : Nat) : State :=
  if s.tmv.queue.any (fun q => q.seq == seq) || s.tmv.moving.any (fun m => m.seq == seq) then s
  else s.onIssued seq (fun w => if w.hold = .moves seq then { w with hold := .none } else w)

/-- A placement fails: the page stays (R193, R198). -/
def State.moveFailed (s : State) (q : MoveReq) : State :=
  let s := { s with tmv := { s.tmv with evict := addHi s.tmv.evict 1 } }
  let v := faultWord 0x21 0x81 3 0x3FF (2 ^ 8 * (q.entry % 2 ^ 24) + 1)
  let s := if recordFree s .tmv (bitAt s.tmv.fault 0) then s.putFault .tmv v (some (0x10000 * q.upage)) else s
  s.raise .tmv 4

/-- A move that would write a read-only aperture is not made: TMV faults with ADDR (R300, log entry 121). -/
def State.moveBarred (s : State) (q : MoveReq) : State :=
  let v := faultWord 0x20 0x81 3 0x3FF (2 ^ 8 * (q.entry % 2 ^ 24) + 1)
  let s := if recordFree s .tmv (bitAt s.tmv.fault 0) then s.putFault .tmv v (some (0x10000 * q.upage)) else s
  s.raise .tmv 2

/-- A move begins: its source in T3 is read by a transaction (R302). -/
def State.beginMove (s : State) (m : Move) : State :=
  let s := { s with tmv := { s.tmv with moving := s.tmv.moving ++ [m] } }
  if (pageAp m.src).isSome && !m.zero then s.startTrans false (0x10000 * m.src) 0x10000 (.word m.seq .tmv) else s

/-- The queued move at the head begins, fails, or is not needed (R193, R196). -/
def State.startMove (s : State) (c : CastImg) (q : MoveReq) : State :=
  let e := s.tmapAt c q.upage
  if s.tierOf (eLive e) = some q.tier then
    if !q.zero then s
    else if s.placeWritable (eLive e) then s.beginMove ⟨q.upage, eLive e, eLive e, true, q.seq⟩ else s.moveBarred q
  else
    match placeIn (4 * (s.pages.length + 1)) q.upage (eAcct e) q.tier s with
    | (s, some d) =>
      if s.placeWritable d then s.beginMove ⟨q.upage, eLive (s.tmapAt c q.upage), d, q.zero, q.seq⟩ else s.moveBarred q
    | (s, none) => s.moveFailed q

/-- TMV_CFG.MOVES. -/
def State.moveLimit (s : State) : Nat := fldN s.tmvCfg 0 6

/-- PAGE_MOVE_START (R193): the oldest queued move, while the cast runs, when a move slot is free and its page is not in
move. -/
def execPageMoveStart (s : State) : Out :=
  match s.cast, s.tmv.queue with
  | some c, q :: rest =>
    let t := ({ s with tmv := { s.tmv with queue := rest } }).startMove c q
    whenB (s.running .tmv && s.castRuns && decide (s.tmv.moving.length < s.moveLimit) && !s.inMove q.upage
        && s.sys.ps == 0) s
      (t.movesDone q.seq)
  | _, _ => .next s

/-- A transaction of the tier manager for the place is pending. -/
def State.placePending (s : State) (p : Nat) : Bool :=
  (s.lnk.trans ++ s.lnk.stalled).any (fun t => !t.write && t.paddr / 0x10000 == p)

/-- PAGE_MOVE_COMPLETE (R188). A move whose source read fails is abandoned (R199). -/
def execPageMoveComplete (upage : Nat) (s : State) : Out :=
  match s.tmv.moving.find? (fun m => m.upage == upage) with
  | some m =>
    let t := if s.sourceBad m then s.noteSource m else s.landPage m
    let t := { t with tmv := { t.tmv with moving := t.tmv.moving.filter (fun x => x.upage != upage) } }
    whenB (!s.placePending m.src || m.zero) s (t.movesDone m.seq).tmvRest
  | none => .next s

/-! ## MIGRATE (R194 to R198) -/

/-- The moves that a MIGR entry queues, in ascending U-page order. -/
def State.entryMoves (s : State) (c : CastImg) (seq i : Nat) : List MoveReq :=
  let u := c.migr.addr + 16 * i
  let first := s.imageNum u 4
  (List.range (s.imageNum (u + 4) 4)).map (fun k =>
    ⟨first + k, s.imageNum (u + 8) 1 % 4, s.imageNum (u + 9) 1 % 2 == 1, seq, i⟩)

/-- The check of a MIGRATE word that fails first (R198). -/
def migrateFlaw (c : CastImg) (a : ArrayArgs) : Option Flaw :=
  let first := fldN a.a 0 24
  let n := fldN a.b 0 24
  if a.sec ≠ 3 then some ⟨0x01, 0, 0x3FF, 0, none⟩
  else if !flgOk a.flg 0x10 || fldN a.a 24 8 != 0 || fldN a.b 24 8 != 0 || a.c != 0 then
    some ⟨0x02, 0, 0x3FF, 0, none⟩
  else if n ≠ 0 ∧ c.migr.count < first + n then some (flawIndex 0x19 1 first)
  else none

/-- MIGRATE's effect: its moves are queued; with WAIT the word waits for them. -/
def State.migrate (s : State) (c : CastImg) (e : QEnt) (a : ArrayArgs) : State :=
  let first := fldN a.a 0 24
  let l := (List.range (fldN a.b 0 24)).flatMap (fun i => s.entryMoves c e.seq (first + i))
  let s := { s with tmv := { s.tmv with queue := s.tmv.queue ++ l } }
  if bitAt a.flg 4 && !l.isEmpty then (s.holdFor e.seq (.moves e.seq)).holdQueueH e.seq else s

/-- MIGRATE (R196). -/
def execMigrate (a : ArrayArgs) (s : State) : Out :=
  arrayCmd 0x81 a (fun e s =>
    match s.cast with
    | none => s
    | some c =>
      match migrateFlaw c a with
      | some f => s.refuse .tmv e f
      | none => s.migrate c e a) (refuseReserved .tmv) s

/-! ## STEPADM (R203, R204) -/

/-- The next buffer of a slot: true for B. -/
def Slot.next (t : Slot) : Bool := t.valid && !t.inUse

/-- limit(s) of R203. -/
def Slot.limit (t : Slot) : Nat := t.maxLen + t.maxLen * t.elastic / 100

/-- The header line of a slot's next buffer: LENGTH and TAG; none where it is not translated, or its target has refused
it. -/
def State.slotHeader (s : State) (t : Slot) : Option (Nat × Word) :=
  let u := 0x10000 * t.page t.next
  match s.readFor u 64 with
  | some l => some (leNat (l.take 8), BitVec.ofNat 64 (leNat ((l.drop 8).take 8)))
  | none => none

/-- A slot after its next buffer has become the one in use. -/
def Slot.turned (t : Slot) : Slot := { t with valid := true, inUse := t.next }

/-- The slots of a range with their indexes. -/
def slotRange (l : List Slot) (first n : Nat) : List (Nat × Slot) :=
  (List.range n).filterMap (fun i => (l[first + i]?).map (fun t => (first + i, t)))

/-- The check of a STEPADM word that fails first (R198). -/
def stepadmFlaw (slots : List Slot) (a : ArrayArgs) : Option Flaw :=
  let first := fldN a.a 0 12
  let n := fldN a.b 0 13
  if a.sec ≠ 3 then some ⟨0x01, 0, 0x3FF, 0, none⟩
  else if !flgOk a.flg 0 || fldN a.a 12 20 != 0 || fldN a.b 13 19 != 0 || a.c != 0 then
    some ⟨0x02, 0, 0x3FF, 0, none⟩
  else if n ≠ 0 ∧ slots.length < first + n then some (flawIndex 0x19 1 first)
  else none

/-- The result of a STEPADM in TIR_ADMIT: RESULT and STEP; SLOT is kept. -/
def State.putAdmit (s : State) (e : QEnt) (result : Nat) : State :=
  let w := (s.tir.lastAdm &&& 0xFFF0000000000000) ||| putAt 50 2 result ||| (e.step &&& 0x3FFFFFFFFFFFF)
  { s with tir := { s.tir with lastAdm := w } }

/-- STEPADM rejects: the lowest failing slot is recorded (R203). -/
def State.rejectStep (s : State) (e : QEnt) (slot len : Nat) (tag : Word) : State :=
  let s := s.putAdmit e 3
  let s := { s with tir := { s.tir with
      lastAdm := setFld s.tir.lastAdm 52 12 slot, lastLen := BitVec.ofNat 64 len, lastTag := tag } }
  (s.raise .tir 0).formSummary e.seq (putAt 63 1 1)

/-- STEPADM admits: every slot of the range turns (R203). -/
def State.passStep (s : State) (e : QEnt) (first n excess : Nat) : State :=
  let s := s.putAdmit e (if excess = 0 then 1 else 2)
  let l := (List.range s.tir.slots.length).map (fun i =>
    let t := s.tir.slots.getD i ⟨0, 0, false, false⟩
    if first ≤ i ∧ i < first + n then t.turned else t)
  let s := { s with tir := { s.tir with slots := l } }
  (s.raiseIf (excess != 0) .tir 2).formSummary e.seq (BitVec.ofNat 64 excess)

/-- The first slot whose header line is not read. -/
def State.slotFault (s : State) (l : List (Nat × Slot)) : Option (Nat × Slot) :=
  l.find? (fun p => (s.slotHeader p.2).isNone)

/-- The step admission over the slots of a range, each with its header. -/
def State.stepAdmission (s : State) (e : QEnt) (first n : Nat) : State :=
  let l := slotRange s.tir.slots first n
  match s.slotFault l with
  | some (i, t) =>
    (s.flaw .tmv e.word { flawIndex 0x20 2 i with addr := some (0x10000 * t.page t.next) }).formSummary e.seq 0
  | none =>
    let h := l.map (fun p => (p.1, p.2, (s.slotHeader p.2).getD (0, 0)))
    let s := l.foldl (fun s p => s.noteRead 2 (0x10000 * p.2.page p.2.next) 64) s
    match h.find? (fun p => decide (p.2.1.limit < p.2.2.1)) with
    | some (i, _, len, tag) => s.rejectStep e i len tag
    | none => s.passStep e first n (h.filter (fun p => decide (p.2.1.maxLen < p.2.2.1))).length

/-- The effect of STEPADM at issue. A slot count of zero is zero work (R12). -/
def stepadmEffect (a : ArrayArgs) (e : QEnt) (s : State) : State :=
  match stepadmFlaw s.tir.slots a with
  | some f => s.refuse .tmv e f
  | none => if fldN a.b 0 13 = 0 then s.formSummary e.seq 0 else s.stepAdmission e (fldN a.a 0 12) (fldN a.b 0 13)

/-- STEPADM (R203). -/
def execStepadm (a : ArrayArgs) (s : State) : Out := arrayCmd 0x82 a (stepadmEffect a) (refuseReserved .tmv) s

/-! ## Release (R200) -/

/-- The pages that do not live at home. -/
def State.strays (s : State) : List (Nat × Word) := s.pages.filter (fun e => eLive e.2 != eHome e.2)

/-- A write of RELEASE: release begins if a cast is held; pages in T3 are read back by transactions. -/
def State.startRelease (s : State) : State :=
  if s.cnd.adm == .held && !s.tmv.releasing then
    let s := { s with tmv := { s.tmv with releasing := true } }
    s.strays.foldl (fun s e =>
      if (pageAp (eLive e.2)).isSome then s.startTrans false (0x10000 * eLive e.2) 0x10000 (.word 0 .tmv) else s) s
  else s

/-- Put one page, kept in the tier manager's buffer, at its home; the move counts as every move does (R206). -/
def State.bringHome (s : State) (c : CastImg) (p : (Nat × Word) × List Byte) : State :=
  let s := (s.writePage 0 (eHome p.1.2) p.2).putLive c p.1.1 (eHome p.1.2)
  let a := (s.tierOf (eLive p.1.2)).getD 0
  let b := (s.tierOf (eHome p.1.2)).getD 0
  let mv := s.tmv.moves
  { s with tmv := { s.tmv with moves := if a < b then addHi mv 1 else if b < a then addLo mv 1 else mv } }

/-- Every stray page comes home at once, through the buffer of the tier manager. -/
def State.allHome (s : State) (c : CastImg) : State :=
  let l := s.strays.map (fun e => (e, (s.placeBytes (eLive e.2)).map s.readByte))
  let s := s.strays.foldl (fun s e => s.noteMem .tier (some (0x10000 * e.1)) (s.placeBytes (eLive e.2))) s
  l.foldl (fun s p => s.bringHome c p) s

/-- RELEASE_COMPLETE (R200): LIVE := HOME everywhere, the load map, ADMIT idle; TMV_FN returns to STOPPED. -/
def execReleaseComplete (s : State) : Out :=
  match s.cast with
  | some c =>
    let t := s.allHome c
    let t := { t with cast := none, cnd := { t.cnd with adm := .idle, part := 0 },
                      tmv := { t.tmv with map := .load, releasing := false } }
    whenB (s.tmv.releasing && s.tmv.moving.isEmpty
        && !(s.lnk.trans ++ s.lnk.stalled).any (fun x => match x.who with | .word _ .tmv => true | _ => false)) s
      (t.setFnState .tmv .stopped)
  | none => .next s

end Sys2Proof.Machine
end

