-- ==== Sys2Proof/Machine/Links.lean ====
section
/-! DEFINITION. The Fiosko links (chapter 13): ports and their training, control slots, retry, routing, and the
transactions of this module and of remote requesters. -/

namespace Sys2Proof.Machine

/-! ## Ports -/

/-- Lanes of a port at full width (R282). -/
def fullLanes (p : Nat) : Nat := if p < 6 then 8 else if p = 6 then 16 else 4

/-- The width that a set of passing lanes gives: lanes in use, and whether it is the degraded width (R282). -/
def widthOf (p : Nat) (lanes : BitVec 16) : Option (Nat × Bool) :=
  let n := fullLanes p
  let all (lo k : Nat) : Bool := (List.range k).all (fun i => bitAt lanes (lo + i))
  if all 0 n then some (n, false)
  else if all 0 (n / 2) || all (n / 2) (n / 2) then some (n / 2, true) else none

/-- Add to LNK_ERRn.AUTH. -/
def addAuth (w : Word) : Word := setFld w 0 16 (min (fldN w 0 16 + 1) 0xFFFF)
/-- Add to LNK_ERRn.RETRY. -/
def addRetry (w : Word) (n : Nat) : Word := setFld w 16 16 (min (fldN w 16 16 + n) 0xFFFF)

/-- Add to a 16-bit field of LNK_DROP. -/
def State.addDrop (s : State) (lo n : Nat) : State :=
  let d := s.lnk.drop
  { s with lnk := { s.lnk with drop := setFld d lo 16 (min (fldN d lo 16 + n) 0xFFFF) } }

/-- The session closes (R372). -/
def State.closeSession (s : State) : State :=
  if s.sec.session.isNone then s
  else
    let s := if (s.port 7).isUp then s.sendCtrl 7 none else s
    { s.putPort 7 { s.port 7 with key := none, group := [], ctrls := 0 } with sec := { s.sec with session := none } }

/-- Apertures 0 to 29 close: their OPEN bits clear (R330). -/
def State.closeTwinAps (s : State) : State :=
  { s with lnk := { s.lnk with aps := (List.range 30).foldl (fun m a => smPut 0 m a (setFld (smGet 0 m a) 63 1 0)) s.lnk.aps } }

/-- A twin word completes with a summary. -/
def State.endTwinWord (s : State) (seq : Nat) (v : Nat) : State := (s.formSummary seq (BitVec.ofNat 64 v)).freeHold seq

/-- The work on banks of a TMIRROR or a TVERIFY, which ends with the twin; a TVERIFY delivers its ingot count. -/
def State.twinWorkLost (s : State) : State :=
  match s.bnk.work with
  | some w =>
    match w.kind with
    | .mirror => { s with bnk := { s.bnk with work := none } }
    | .verify _ => ({ s with bnk := { s.bnk with work := none } }).endTwinWord w.ent.seq w.total
    | _ => s
  | none => s

/-- The twin words under way complete at once (R339): a TMIRROR counts every image not acknowledged as refused. What is in
flight counts as abandoned (R330). -/
def State.twinWordsLost (s : State) : State :=
  let t := s.twn
  let s := s.twinWorkLost
  let s := t.jobs.foldl (fun s j => s.endTwinWord j.seq (j.refused + j.unsent + j.tags.length)) s
  let s := match t.digest with | some (q, _, _) => s.endTwinWord q 3 | none => s
  let s := match t.verify with | some j => s.endTwinWord j.seq j.pairs.length | none => s
  { s with twn := { s.twn with jobs := [], digest := none, verify := none, digestIn := [], verifyIn := [],
                               refused := addHi t.refused t.inFlight } }

/-- The twin is lost while the pair is SOLDERED (R330, R339); a SOLDER received before then is forgotten. -/
def State.loseTwin (s : State) : State :=
  let s := { s with twn := { s.twn with gotS := false } }
  if s.twn.pair == .soldered then
    let s := s.closeTwinAps.twinWordsLost
    ({ s with twn := { s.twn with pair := .single } }).raise .twn 8
  else s

/-- What a port's going down takes with it: the session on P7 (R372), the pair on P6 (R330). -/
def State.portGone (s : State) (p : Nat) : State := if p = 7 then s.closeSession else if p = 6 then s.loseTwin else s

/-- A port goes down (R288). -/
def State.portDown (s : State) (p : Nat) : State :=
  ((s.putPort p { s.port p with state := 6, width := 0, degraded := false }).raise .lnk 0).portGone p

/-- A port retrains from phase 3; the group of data slots under way is lost with the link. -/
def State.retrain (s : State) (p : Nat) : State := s.putPort p { s.port p with state := 5, fails := 0, group := [] }

/-- A port in phase 3, in training or retraining. -/
def Port.inPhase3 (q : Port) : Bool := q.state == 2 || q.state == 5

/-- A neighbour change: the replay buffer is discarded and SEQ restarts (R289), and with it the counts of frames that
credits go by (log entry 116). -/
def State.neighbourChange (s : State) (p : Nat) (neigh : BitVec 18) (spare : Bool) : State :=
  let q := s.port p
  let t := (s.addDrop 16 q.replay.length).putPort p
    { q with neigh := neigh, nspare := spare, known := true, txSeq := 0, rxSeq := 0, replay := [], fails := 0,
             sentC := Vector.replicate 8 0, tookC := Vector.replicate 8 0 }
  let t := { t with held := t.held.filter (fun f => f.port != p) }
  let t := t.raise .lnk 10
  if p = 6 then t.loseTwin else t

/-- The port has a neighbour with this NEIGH: the first one, the same, or a change (R289). -/
def State.meetNeighbour (s : State) (p : Nat) (neigh : BitVec 18) (spare : Bool) : State :=
  let q := s.port p
  if q.known && q.neigh != neigh then s.neighbourChange p neigh spare
  else s.putPort p { q with neigh := neigh, nspare := spare, known := true }

/-- A port is protected by the settings in force (R375). -/
def State.portProt (s : State) (p : Nat) : Bool := decide (p < 7) && bitAt s.lnk.set.current.prot p

/-- LOOP_TRAINING_DONE (R290): phase 1 of a torus pair through its bypass; the result of both its ports. -/
def execLoopTrainingDone (pair : Nat) (lanes : BitVec 8) (s : State) : Out :=
  let one (s : State) (p : Nat) : State :=
    let q := s.port p
    if q.state != 1 then s
    else if (widthOf p (lanes.setWidth 16)).isSome then s.putPort p { q with looped := true }
    else (s.putPort p { q with state := 0, looped := false, width := 0, degraded := false }).raise .lnk 2
  .next (one (one s (2 * pair)) (2 * pair + 1))

/-- The random value R that this module sends in phase 3: a free value (log entry 7). -/
def State.ownRandom (s : State) (port : Nat) : List Byte := (List.range 16).map (fun i => Config.freeByte s.fresh (16 * port + i))

/-- The key and IV under which a protected port sends (R375): R_low is the value of the end with the lower NEIGH. How the IV
is taken beside the key, and how NEIGH is written, is log entry 114. -/
def State.linkKey (s : State) (neigh : BitVec 18) (mine theirs : List Byte) : List Byte × List Byte :=
  let salt := if s.ownId.toNat ≤ neigh.toNat then mine ++ theirs else theirs ++ mine
  let k := hkdf384 s.flash.fabric salt (textBytes "YN LINK " ++ leBytes 3 s.ownId.toNat) 36
  (k.take 32, k.drop 32)

/-- Phase 3 passes: the width, the neighbour, the protection and its new key, which restarts the count of control
slots. -/
def State.joinPort (s : State) (p n : Nat) (half : Bool) (neigh : BitVec 18) (spare : Bool) (r : List Byte) : State :=
  let prot := s.portProt p
  let key := if prot then some (s.linkKey neigh (s.ownRandom p) r) else none
  let t := s.meetNeighbour p neigh spare
  t.putPort p { t.port p with
    state := 3, width := BitVec.ofNat 5 n, degraded := half, prot := prot, fails := 0, key := key, group := [], ctrls := 0 }

/-- NEIGHBOUR_TRAINING_DONE (R290, R282, R375): the end of phase 3. -/
def execNeighbourTrainingDone (port : Nat) (lanes : BitVec 16) (neigh : BitVec 18) (spare : Bool) (r : List Byte)
    (s : State) : Out :=
  let a :=
    if s.portProt port && s.flash.fabric.isEmpty then (s.raise .lnk 2).raise .sec 6
    else match widthOf port lanes with
      | none => s.portDown port
      | some (n, half) => if s.portProt port then (s.joinPort port n half neigh spare r).drawn else s.joinPort port n half neigh spare r
  whenB ((s.port port).inPhase3) s a

/-- Every torus port that RING_TAKE_N serves is up. -/
def State.ringUp (s : State) : Bool := (List.range 6).all (fun p => (s.port p).isUp)

/-- A port comes up with its delay: frames queued to it leave. -/
def State.portUp (s : State) (p : Nat) (delay : BitVec 32) : State :=
  ((s.putPort p { s.port p with state := 4, delay := delay, annealed := s.bea.count, quiet := 0 }).raiseIf
    (s.port p).degraded .lnk 1).drain p

/-- DELAY_MEASURED (R290): phases 4 and 5; the port is up. -/
def execDelayMeasured (port : Nat) (delay : BitVec 32) (s : State) : Out :=
  let a := s.portUp port delay
  whenB ((s.port port).state == 3) s { a with lnk := { a.lnk with taking := a.lnk.taking && !a.ringUp } }

/-- PORT_RETRAIN_TIMEOUT (R288): the port has not come up again. -/
def execPortRetrainTimeout (port : Nat) (s : State) : Out :=
  let q := s.port port
  whenB (q.inPhase3 || q.state == 3) s (s.portDown port)

/-- PORT_LINK_LOSS (R291): the link is lost, and the port retrains from phase 3; the session on P7 closes, the pair on
P6 is lost. -/
def execPortLinkLoss (port : Nat) (s : State) : Out :=
  whenB (s.port port).isUp s ((s.retrain port).portGone port)

/-- An anneal of the port is due: ANNEAL_S seconds have passed since the last, at 10^6 beats a second, and the last 8 beats
have carried no data frame, or as many seconds more have passed (R292). -/
def State.annealDue (s : State) (port : Nat) : Bool :=
  let q := s.port port
  let n := 1000000 * fldN s.lnk.set.current.cfg 48 16
  let age := s.bea.count.toNat - q.annealed.toNat
  decide (0 < n) && decide (n ≤ age) && ((!q.busy && decide (8 ≤ q.quiet)) || decide (2 * n ≤ age))

/-- LINK_ANNEAL (R292): data slots are held as IDLE. -/
def execLinkAnneal (port : Nat) (s : State) : Out :=
  let q := s.port port
  whenB (q.state == 4 && s.annealDue port) s (s.putPort port { q with state := 7 })

/-- LINK_ANNEAL_END (R292): DELAY is measured again, and data slots carry frames again. -/
def execLinkAnnealEnd (port : Nat) (delay : BitVec 32) (s : State) : Out :=
  let q := s.port port
  whenB (q.state == 7) s ((s.putPort port { q with state := 4, delay := delay, annealed := s.bea.count, quiet := 0 }).drain port)

/-! ## LNK_CTRL (R291) -/

/-- TAKE: refused unless every torus port has passed phase 1; else the bypass opens and the torus ports train. -/
def State.takeIn (s : State) : State :=
  if s.lnk.take then s
  else if (List.range 6).all (fun p => (s.port p).looped) then
    let s := (List.range 6).foldl (fun s p => s.putPort p { s.port p with state := 2 }) s
    { s with lnk := { s.lnk with take := true, taking := true } }
  else s.raise .lnk 2

/-- RING_TAKE_N is released: the bypass closes and the torus ports are off. -/
def State.releaseRing (s : State) : State :=
  if s.lnk.take then
    let s := (List.range 6).foldl (fun s p => s.putPort p { s.port p with state := 0, width := 0, degraded := false }) s
    { s with lnk := { s.lnk with take := false, taking := false } }
  else s

/-- A release for a reason other than GIVE sets BYPASS (R291). -/
def State.loseRing (s : State) : State := if s.lnk.take then s.releaseRing.raise .lnk 3 else s

/-- RETRAIN: the ports of a mask retrain from phase 3; a torus port behind a closed bypass has no neighbour. -/
def State.retrainPorts (s : State) (mask : BitVec 8) : State :=
  (List.range 8).foldl (fun s p =>
    if bitAt mask p && decide (2 ≤ (s.port p).state.toNat) && (decide (6 ≤ p) || s.lnk.take) then s.retrain p else s) s

/-! ## Retry and control slots (R287, R288) -/

/-- A data frame is discarded: NAK names the first SEQ needed. Where it is the frame with that SEQ that has `failed`, its
eighth failure in a row retrains the port; a frame out of sequence is no failure of the SEQ needed. -/
def State.discardFrame (s : State) (p : Nat) (failed : Bool) : State :=
  let q := s.port p
  let s := s.emit (.nak p (s.rxNext p))
  if !failed then s
  else if 8 ≤ q.fails + 1 then s.retrain p else s.putPort p { q with fails := q.fails + 1 }

/-- FRAME_CRC_FAIL (R284, R286, R288). -/
def execFrameCrcFail (port : Nat) (why : FrameReject) (s : State) : Out :=
  whenB (s.port port).isUp s (s.discardFrame port (why != .outOfSequence))

/-- The frames of a replay buffer from a SEQ onward. -/
def replayFrom (seq : BitVec 11) : List SentFrame → List SentFrame
  | [] => []
  | f :: t => if f.seq = seq then f :: t else replayFrom seq t

/-- Replay from a SEQ onward, in order, as first sent; each frame counts (R288, R374). -/
def State.replayPort (s : State) (p : Nat) (seq : BitVec 11) : State :=
  let q := s.port p
  let l := replayFrom seq q.replay
  let s := s.putPort p { q with err := addRetry q.err l.length }
  let s := { s with lnk := { s.lnk with wire := s.lnk.wire ++ l.map (fun f => (p, frameSlot f.type f.h f.sent)) } }
  l.foldl (fun s f => s.emit (.frame p f.type f.h f.payload)) s

/-- The tag of the frames held on port `p` since its last control slot has been found good. -/
def State.tagGood (s : State) (p : Nat) : State :=
  { s with held := s.held.map (fun f => if f.port = p then { f with good := true } else f) }

/-- The GTAG of a protected port fails: the data frames before the control slot are discarded, and counted once
(R288). -/
def State.gtagFail (s : State) (p : Nat) : State :=
  let q := s.port p
  let s := { s with held := s.held.filter (fun f => f.port != p || f.good) }
  ((s.putPort p { q with err := addAuth q.err }).raise .lnk 11).discardFrame p true

/-- The port is protected: P7 while a session is open, the others as they were trained (R374, R375). -/
def State.isProtected (s : State) (p : Nat) : Bool := if p = 7 then s.sec.session.isSome else (s.port p).prot

/-- The stamp of a control slot, which P7 never carries and which crosses no domain (R293). -/
def State.stampOf (s : State) (port : Nat) (f : CtrlFrame) : Option Word :=
  if port = 7 ∨ fld f.neigh 12 6 ≠ fld s.ownId 12 6 then none else f.stamp.map (·.1)

/-- CTRL_FRAME (R284, R287 to R289): credits, corrected symbols, the neighbour's identity, the stamp, a NAK, the tag. -/
def execCtrlFrame (port : Nat) (f : CtrlFrame) (s : State) : Out :=
  let q := s.port port
  let a := s.putPort port { q with credits := f.credits, err := addHi q.err f.fecsym }
  let a := a.meetNeighbour port f.neigh f.spare
  let a := match s.stampOf port f with | some v => a.checkStamp port v | none => a
  let a := match f.nak with | some n => a.replayPort port n | none => a
  let a := if !a.isProtected port || f.gtagOk then a.tagGood port else a.gtagFail port
  whenB q.isUp s (a.drain port)

/-! ## Receiving data frames (R288, R294 to R297) -/

/-- The module consumes a frame that arrived on port `p` (R294). -/
def State.consumes (s : State) (p : Nat) (type : BitVec 4) (h : FrameHdr) : Bool :=
  s.isOwn h.dst || p == 6 || (p == 7 && classOf type == 3)

/-- LNK_CFG.MAXHOPS. -/
def State.maxHops (s : State) : Nat := fldN s.lnk.set.current.cfg 0 5

/-- The dimension of a port. -/
def dimOf (p : Nat) : Nat := if p < 6 then p / 2 else p

/-- Forward a frame that arrived on port `p` by the tables (R294 to R296). -/
def State.forward (s : State) (p : Nat) (type : BitVec 4) (h : FrameHdr) (payload : List Byte) : State :=
  if s.maxHops < h.hops.toNat + 1 then (s.addDrop 48 1).raise .lnk 4
  else
    let r := s.route h.dst
    let out := r.1.toNat
    if out ≤ 5 ∨ out = 7 then
      let vch := if r.2 then true else if dimOf out = dimOf p then h.vch else false
      s.sendPort out type { h with hops := h.hops + 1, vch := vch } payload
    else s.dropRoute

/-- The frames of a list that are the first of their port and channel, where their tag has been found good. -/
def firstHeld : List (Nat × Nat) → List HeldIn → List HeldIn
  | _, [] => []
  | seen, f :: t =>
    let rest := firstHeld ((f.port, f.chan) :: seen) t
    if f.good && !seen.contains (f.port, f.chan) then f :: rest else rest

/-- The frames held that may be acted on next. -/
def State.heldFirst (s : State) : List HeldIn := firstHeld [] s.held

/-- Data frames are acted on: LNK_FN is not STOPPED, and the module does not rest in PS2, in which ports carry control
slots only (R297, R388). -/
def State.framesFlow (s : State) : Bool := !s.stopped .lnk && s.sys.ps != 2

/-- `n` data frames of a channel on port `p` are taken in order: they count in SEQ and leave their buffers (R287,
R288). -/
def State.takeFrames (s : State) (p n c : Nat) : State :=
  let q := s.port p
  s.putPort p { q with rxSeq := q.rxSeq + BitVec.ofNat 11 n, fails := 0, busy := true
                       tookC := q.tookC.set! c (q.tookC.toList.getD c 0 + BitVec.ofNat 32 n) }

/-- `n` data frames have arrived in order on port `p`, as the command `cmd`. They are acted on at once, or held: while data
frames do not flow, while what they ask for waits, behind others, and on a protected port until the tag of their group
has been found good (R288, R297, R374). Held ones are acted on in the order of their channel (log entry 122). -/
def State.arrive (s : State) (p n c : Nat) (cmd : Instr) (waits : Bool) (act : State → State) : State :=
  let flows := s.framesFlow && !waits
  let f : HeldIn := ⟨p, n, c, true, cmd⟩
  if s.heldFirst.contains f then
    if flows then act ({ s with held := s.held.erase f }.takeFrames p n c) else s
  else if !(s.port p).isUp then s
  else if flows && !s.held.any (fun x => x.port == p && x.chan == c) && !s.isProtected p then act (s.takeFrames p n c)
  else { s with held := s.held ++ [{ f with good := !s.isProtected p }] }

/-- A data frame that arrives on a port. Out of sequence, or with a reserved LEN (log entry 112), it is discarded; in order
it is consumed by `act`, which may have to wait, or forwarded. Port L is not sequenced. -/
def State.receiveFrame (s : State) (p : Nat) (type : BitVec 4) (h : FrameHdr) (payload : List Byte) (cmd : Instr)
    (waits : Bool) (act : State → State) : State :=
  let mine := s.consumes p type h
  if p = 8 then act s
  else if !s.heldFirst.contains ⟨p, 1, channelOf type h.vch, true, cmd⟩ ∧ (s.port p).isUp ∧ (h.seq ≠ s.rxNext p ∨ 8 < h.len) then
    s.discardFrame p (decide (h.seq = s.rxNext p))
  else s.arrive p 1 (channelOf type h.vch) cmd (mine && waits) (fun s => if mine then act s else s.forward p type h payload)

/-! ## Serving remote requesters (R301, R302) -/

/-- An exposure window covers a range of P-addresses, for a request that arrived on port `p`. -/
def windowCovers (w : Word) (p : Nat) (write : Bool) (addr len : Nat) : Bool :=
  let base := 0x10000 * fldN w 32 29
  bitAt w 63 && (!write || bitAt w 62) && (!bitAt w 61 || p == 6)
    && decide (base ≤ addr) && decide (addr + len ≤ base + 0x10000 * fldN w 0 25)

/-- The range lies in T2, in one of its two views. -/
def rangeInT2 (addr len : Nat) : Bool :=
  (decide (t2Base ≤ addr) && decide (addr + len ≤ t2Base + t2Size))
    || (decide (stripeBase ≤ addr) && decide (addr + len ≤ stripeBase + t2Size))

/-- A request may be served. -/
def State.serves (s : State) (p : Nat) (write : Bool) (addr len : Nat) : Bool :=
  rangeInT2 addr len && (List.range 8).any (fun n => windowCovers (smGet 0 s.lnk.set.current.exp n) p write addr len)

/-- Answer a requester: on P6 to the twin, otherwise by the tables. -/
def State.answer (s : State) (p : Nat) (type : BitVec 4) (h : FrameHdr) (off : Nat) (last : Bool) (bs : List Byte) :
    State :=
  let r := s.ownHdr h.src h.tag.toNat off ((bs.length + 63) / 64) last
  if p = 6 then s.sendPort 6 type r bs else s.sendTo type r bs

/-- The data frames of a served read: 512 bytes each (R302). -/
def State.answerData (s : State) (p : Nat) (h : FrameHdr) : Nat → Nat → List Byte → State
  | 0, _, _ => s
  | n + 1, off, bs => (s.answer p 3 h off (decide (n = 0)) (bs.take 512)).answerData p h n (off + 1) (bs.drop 512)

/-- A request is refused with NACK (R301). -/
def State.refuseRemote (s : State) (p : Nat) (h : FrameHdr) : State :=
  let s := { s with lnk := { s.lnk with refused := addHi s.lnk.refused 1 } }
  (s.raise .lnk 6).answer p 7 h 0 true []

/-- The canonical addresses of a served range. -/
def State.remoteRun (s : State) (addr len : Nat) : List Nat := (s.canonRun addr len).getD []

/-- A request of a remote requester waits for memory: MDV_FN is STOPPED (R230), a bank runs a program (R223), or a page is
in move (R188). -/
def State.remoteWaits (s : State) (c : ServiceClass) (addr len : Nat) : Bool :=
  rangeInT2 addr len && (let ps := s.remoteRun addr len; s.stopped .mdv || s.bankBusy c ps || s.placeMoves ps)

/-- RREQ (R301, R302). -/
def execRreq (port : Nat) (h : FrameHdr) (addr len : Nat) (s : State) : Out :=
  let served := s.serves port false addr len
  .next (s.receiveFrame port 2 h (padTo 64 (reqHead addr len)) (.rreq port h addr len)
    (served && s.remoteWaits .hubRead addr len) (fun s =>
      if served then
        let ps := s.remoteRun addr len
        ((s.noteMem .remote none ps).touchPlaces ps).answerData port h ((len + 511) / 512) 0 (ps.map s.readByte)
      else s.refuseRemote port h))

/-- WREQ (R301, R302): the write is awaited; one that meets a running working window is refused whole (R225). -/
def execWreq (port : Nat) (h : FrameHdr) (addr len : Nat) (s : State) : Out :=
  .next (s.receiveFrame port 4 h (padTo 64 (reqHead addr len)) (.wreq port h addr len) false (fun s =>
    if s.serves port true addr len then
      let hit := s.windowHit (s.remoteRun addr len)
      let s := match hit with | some p => s.refuseWindow 6 p | none => s
      { s with lnk := { s.lnk with inWrites := s.lnk.inWrites ++ [⟨port, h.src, h.tag, addr, len, 0, hit.isSome⟩] } }
    else s.refuseRemote port h))

/-- The write of a remote requester that a WDATA frame belongs to. -/
def InWrite.of (w : InWrite) (p : Nat) (h : FrameHdr) : Bool := w.port == p && w.src == h.src && w.tag == h.tag

/-- The write that a WDATA frame belongs to, if there is one. -/
def State.inWrite (s : State) (p : Nat) (h : FrameHdr) : Option InWrite := s.lnk.inWrites.find? (fun w => w.of p h)

/-- Store the bytes of a WDATA frame. -/
def State.storeRemote (s : State) (addr : Nat) (payload : List Byte) : State :=
  let ps := s.remoteRun addr payload.length
  (s.storeBytes .remote none (ps.zip payload)).touchPlaces ps

/-- A WDATA frame waits for memory. -/
def State.dataWaits (s : State) (p : Nat) (h : FrameHdr) (payload : List Byte) : Bool :=
  match s.inWrite p h with
  | some w => !w.drop && s.remoteWaits .hubWrite (w.addr + 512 * h.off.toNat) payload.length
  | none => false

/-- WDATA (R302): its bytes are stored; the last of them is answered with WACK. -/
def execWdata (port : Nat) (h : FrameHdr) (payload : List Byte) (s : State) : Out :=
  .next (s.receiveFrame port 5 h payload (.wdata port h payload) (s.dataWaits port h payload) (fun s =>
    match s.inWrite port h with
    | none => s
    | some w =>
      let s := if w.drop then s else s.storeRemote (w.addr + 512 * h.off.toNat) payload
      let got := w.got + payload.length
      let rest := s.lnk.inWrites.filter (fun x => !x.of port h)
      if w.len ≤ got then ({ s with lnk := { s.lnk with inWrites := rest } }).answer port 6 h 0 true []
      else { s with lnk := { s.lnk with inWrites := rest ++ [{ w with got := got }] } }))

/-! ## This module's transactions (R298 to R303) -/

/-- The pending transaction of a TAG. -/
def State.transOf (s : State) (tag : BitVec 13) : Option Transaction := s.lnk.trans.find? (fun t => t.tag == tag.toNat)

/-- A transaction is gone; what has stalled may be sent. -/
def State.dropTrans (s : State) (tag : Nat) : State :=
  ({ s with lnk := { s.lnk with trans := s.lnk.trans.filter (fun t => t.tag != tag) } }).pump

/-- A word that waits for transactions has one less to wait for. -/
def State.transferDone (s : State) (id : Nat) : State :=
  { s with sheet := { s.sheet with issued := s.sheet.issued.map (fun w =>
      match w.hold with
      | .transfers l => { w with hold := let r := l.erase id; if r.isEmpty then .none else .transfers r }
      | _ => w) } }

/-- The lines that a transaction has read for a requester have come, or have been refused. -/
def State.linesCame (s : State) (t : Transaction) (key : Nat) (ok : Bool) : State :=
  { s with lnk := { s.lnk with
      got := s.lnk.got ++ (List.range (t.len / 64)).map (fun i => (key, t.paddr + 64 * i, ok)) } }

/-- A row that a TPULL has read goes to its bank, unless a running working window holds the row (R338, R225). -/
def State.pullRow (s : State) (t : Transaction) (bank row : Nat) : State :=
  let p := bankAddr bank row 0
  match s.windowHit [p] with
  | some q => s.refuseWindow 2 q
  | none => s.putRun p (s.bytes t.paddr t.len)

/-- The transaction belongs to the host's access with this number. -/
def ofAccess (t : Transaction) (id : Nat) : Bool := match t.who with | .host _ _ n _ => n == id | _ => false

/-- A transaction of the host's access with this number is still pending. -/
def State.accessPends (s : State) (id : Nat) : Bool := (s.lnk.trans ++ s.lnk.stalled).any (fun t => ofAccess t id)

/-- The other transactions of a host access that one target has refused are abandoned. -/
def State.dropAccess (s : State) (id : Nat) : State :=
  let gone := s.lnk.trans.filter (fun t => ofAccess t id)
  ({ s with lnk := { s.lnk with
      abandoned := s.lnk.abandoned ++ gone.map (fun (t : Transaction) => t.tag)
      trans := s.lnk.trans.filter (fun t => !ofAccess t id)
      stalled := s.lnk.stalled.filter (fun t => !ofAccess t id) } }).pump

/-- A transaction completes: a host access is answered with the last of its transactions, a pulled row is written, lines
have come for a word, a word's wait shortens. -/
def State.completeTrans (s : State) (t : Transaction) : State :=
  let s := (s.dropTrans t.tag).transferDone t.id
  match t.who with
  | .pull _ bank row => s.pullRow t bank row
  | .fetch key => s.linesCame t key true
  | .host op addr id ps =>
    if s.accessPends id then s
    else
      let st := if t.write then 0 else s.hostStatus ps
      (s.hostErrMet ps).lateAnswer (.access id) (oneFrame op.toNat st addr [] (if t.write then [] else ps.map s.readByte))
  | _ => s

/-- A response to an abandoned TAG is discarded; the last frame of it is counted (R303). -/
def State.lateResponse (s : State) (tag : Nat) (last : Bool) : State :=
  if s.lnk.abandoned.contains tag && last then
    ({ s with lnk := { s.lnk with abandoned := s.lnk.abandoned.erase tag } }).addDrop 0 1
  else s

/-- RDATA (R302): the bytes arrive; the last frame completes the transaction. -/
def execRdata (port : Nat) (h : FrameHdr) (payload : List Byte) (s : State) : Out :=
  .next (s.receiveFrame port 3 h payload (.rdata port h payload) false (fun s =>
    match s.transOf h.tag with
    | none => s.lateResponse h.tag.toNat h.last
    | some t =>
      if t.write then s
      else
        let s := s.putRun (t.paddr + 512 * h.off.toNat) payload
        let got := t.got + payload.length
        if t.len ≤ got then s.completeTrans t
        else { s with lnk := { s.lnk with trans := s.lnk.trans.map (fun x =>
            if x.tag = t.tag then { x with got := got } else x) } }))

/-- WACK (R302). -/
def execWack (port : Nat) (h : FrameHdr) (s : State) : Out :=
  .next (s.receiveFrame port 6 h [] (.wack port h) false (fun s =>
    match s.transOf h.tag with
    | none => s.lateResponse h.tag.toNat true
    | some t => if t.write then s.completeTrans t else s))

/-- The U-address that lives at a P-address, if a page of the cast lives there. -/
def State.uaddrOf (s : State) (p : Nat) : Option Nat :=
  (s.pages.find? (fun e => eLive e.2 == p / 0x10000)).map (fun e => 0x10000 * e.1 + p % 0x10000)

/-- The record of a word refused by a target: the word may have left already, and then only its block shows. -/
def State.refusedFlaw (s : State) (seq : Nat) (blk : Blk) (p : Nat) : State :=
  let w := s.sheet.issued.find? (fun w => w.seq == seq)
  let o : Nat := match w with | some w => w.opc.toNat | none => 0
  let v := match blk with
    | .twn => putAt 56 8 0x20 ||| putAt 48 8 o ||| 1
    | _ => faultWord 0x20 o 0 0x3FF 1
  let s := if recordFree s blk (bitAt (s.faultOf blk) 0) then s.putFault blk v (s.uaddrOf p) else s
  s.raise blk 2

/-- The page move whose source a target has refused to serve is abandoned; the page stays. -/
def State.moveRefused (s : State) (t : Transaction) : State :=
  if t.write then s
  else
    let gone := s.tmv.moving.filter (fun m => m.src == t.paddr / 0x10000)
    let s := { s with tmv := { s.tmv with moving := s.tmv.moving.filter (fun m => m.src != t.paddr / 0x10000) } }
    (gone.foldl (fun s m => s.movesDone m.seq) s).tmvRest

/-- The hub word at work on banks stops (R99): it begins no further ingot. -/
def State.stopWork (s : State) : State :=
  { s with bnk := { s.bnk with work := s.bnk.work.map (fun w =>
      { w with tasks := (w.tasks.filter (·.started)).map (fun k => { k with left := [] }) }) } }

/-- What a NACK does to its requester (R301, R300): a host access completes with ADDR and APCLOSED, the Conductor raises
ADDR, a word faults with ADDR. -/
def State.nacked (s : State) (t : Transaction) : State :=
  match t.who with
  | .host op addr id ps =>
    ((s.dropAccess id).raise .lnk 8).lateAnswer (.access id)
      (oneFrame op.toNat 4 addr [] (if t.write then [] else List.replicate ps.length 0))
  | .conductor =>
    if s.running .cnd then s.exception 0x07 (match s.cast with | some c => s.ccodeAt c s.cnd.pc.toNat | none => 0) none
    else s
  | .fetch key => s.linesCame t key false
  | .word seq blk => let s := s.refusedFlaw seq blk t.paddr; if blk = .tmv then s.moveRefused t else s
  | .pull seq _ _ => (s.refusedFlaw seq .twn t.paddr).stopWork

/-- NACK (R301). -/
def execNack (port : Nat) (h : FrameHdr) (s : State) : Out :=
  .next (s.receiveFrame port 7 h [] (.nack port h) false (fun s =>
    match s.transOf h.tag with
    | none => s.lateResponse h.tag.toNat true
    | some t =>
      let s := { s with lnk := { s.lnk with refused := addLo s.lnk.refused 1 } }
      ((s.raise .lnk 7).dropTrans t.tag).transferDone t.id |>.nacked t))

/-- TRANSACTION_STALL (R303): once for each transaction. -/
def execTransactionStall (tag : Nat) (s : State) : Out :=
  let warn := fldN s.lnk.set.current.cfg 8 32
  match s.lnk.trans.find? (fun t => t.tag == tag) with
  | none => .next s
  | some t =>
    let a := { s with lnk := { s.lnk with trans := s.lnk.trans.map (fun (x : Transaction) =>
        if x.tag = tag then { x with warned := true } else x) } }
    whenB (!t.warned && warn != 0 && decide (t.since.toNat + warn < s.bea.count.toNat)) s (a.raise .lnk 9)

end Sys2Proof.Machine
end

