-- ==== Sys2Proof/Machine/Collect.lean ====
section
/-! DEFINITION. The collective unit (chapter 14) and the fabric barrier (R45 to R47): the checks of collective words,
starting, carrying and ending instances, frames of TYPE RED, GATH and BAR, stalls. -/

namespace Sys2Proof.Machine

/-! ## Instances -/

/-- Some incomplete instance satisfies `p`; an abandoned one is not incomplete (log entry 40). -/
def Fol.openInst (f : Fol) (p : Inst → Bool) : Bool := f.insts.any (fun i => !i.abandoned && p i)

/-- The instance of the word with enqueue number `seq`. -/
def State.instOf (s : State) (seq : Nat) : Option Inst := s.fol.insts.find? (fun i => i.seq == seq)

/-- The state with an instance replaced. -/
def State.putInst (s : State) (i : Inst) : State :=
  { s with fol := { s.fol with insts := s.fol.insts.map (fun (x : Inst) => if x.seq = i.seq then i else x) } }

/-- What a word waits for in the collective unit has gone: its own instance, or the earlier ones of a group (R319). -/
def Fol.holdFree (f : Fol) (h : Hold) : Bool :=
  match h with
  | .inst q => !f.openInst (fun i => i.seq == q)
  | .group g q => !f.openInst (fun i => i.grp == g && decide (i.seq < q))
  | _ => false

/-- Words whose wait in the collective unit is over wait for nothing more. -/
def State.settleHolds (s : State) : State :=
  { s with sheet := { s.sheet with issued := s.sheet.issued.map (fun (w : Issued) =>
      if s.fol.holdFree w.hold then { w with hold := .none } else w) } }

/-- An instance is gone, complete or refused. -/
def State.dropInst (s : State) (seq : Nat) : State :=
  ({ s with fol := { s.fol with insts := s.fol.insts.filter (fun i => i.seq != seq) } }).settleHolds.folRest

/-- An instance completes and is counted (R319). -/
def State.completeInst (s : State) (seq : Nat) : State :=
  ({ s with fol := { s.fol with coll := addLo s.fol.coll 1 } }).dropInst seq

/-- A collective of this member faults: the instances in flight are abandoned and their Z left undefined (R325). -/
def State.abandonInsts (s : State) : State :=
  let s := (s.spoil ((s.fol.insts.filter Inst.inFlight).flatMap (·.dests))).drawn
  ({ s with fol := s.fol.abandon true }).settleHolds.folRest

/-- A collective meets a translation fault (R320, R99). -/
def State.instFault (s : State) (i : Inst) (desc u : Nat) : State :=
  (s.flaw .fol i.word { flawIndex 0x20 2 desc with addr := some u }).abandonInsts

/-! ## Carriage (R321 to R323) -/

/-- Send the frames of a block of an instance to a neighbour. -/
def State.sendFrames (s : State) (type : BitVec 4) (dst : BitVec 18) (gid : BitVec 13) (num : Nat) :
    Nat → Nat → List Byte → State
  | 0, _, _ => s
  | left + 1, n, bs =>
    let b := bs.take 512
    let off := num % 8 * 16 + n % 16
    let h := s.ownHdr dst gid.toNat off ((b.length + 63) / 64) (decide (left = 0))
    (s.sendTo type h b).sendFrames type dst gid num left (n + 1) (bs.drop 512)

/-- Send one block. -/
def State.sendBlock (s : State) (type : BitVec 4) (dst : BitVec 18) (g : Group) (i : Inst) (bs : List Byte) : State :=
  s.sendFrames type dst g.gid i.num ((bs.length + 511) / 512) 0 bs

/-- The neighbour that a channel leads to. -/
def Group.toward (g : Group) (d : Nat) (minus : Bool) : BitVec 18 := if minus then g.minus d else g.plus d

/-- The blocks of a channel that may be sent now: those next in order whose bytes this member has. -/
def Inst.ready (i : Inst) (g : Group) (c : Chan) : List (List Byte) :=
  (((i.items g c false).drop (smGet 0 i.sent c.key)).map (i.blockOut g c)).takeWhile (·.isSome) |>.filterMap id

/-- Send what may be sent on a channel. -/
def State.pumpChan (s : State) (g : Group) (seq : Nat) (c : Chan) : State :=
  match s.instOf seq with
  | none => s
  | some i =>
    let l := i.ready g c
    let s := l.foldl (fun s b => s.sendBlock (if c.gath then 9 else 8) (g.toward c.d c.minus) g i b) s
    s.putInst { i with sent := smPut 0 i.sent c.key (smGet 0 i.sent c.key + l.length) }

/-- The bytes written for a tile of Z: a free value where the overlap of X and Z leaves it undefined (R317). -/
def Inst.zBytes (i : Inst) (fresh t : Nat) (bs : List Byte) : List Byte :=
  if i.clash then (List.range bs.length).map (fun k => Config.freeByte fresh (8192 * t + k)) else bs

/-- Write the tiles of Z whose bytes this member has, up to the first translation fault; one in a page in move waits
(R188). -/
def State.pumpZ (s : State) (g : Group) (seq : Nat) : List (Nat × Nat) → State
  | [] => s
  | (t, n) :: rest =>
    match s.instOf seq with
    | none => s
    | some i =>
      if i.abandoned then s
      else if smGet false i.written t then s.pumpZ g seq rest
      else match i.result g n with
      | none => s.pumpZ g seq rest
      | some bs =>
        if s.meetsMove (i.zAddr + i.zSlot * t) bs.length then s.pumpZ g seq rest
        else match s.writeU (.word seq .fol) 6 0x3FF (i.zAddr + i.zSlot * t) (i.zBytes s.fresh t bs) with
        | .ok a =>
          let a := if i.clash then a.drawn else a
          (a.putInst { i with written := smPut false i.written t true }).pumpZ g seq rest
        | .fault u => s.instFault i (fldN (wC i.word) 0 16) u

/-- Send and write everything that a tile collective can. -/
def State.pumpTiles (s : State) (g : Group) (seq : Nat) : State :=
  let s := allChans.foldl (fun s c => s.pumpChan g seq c) s
  match s.instOf seq with
  | some i => s.pumpZ g seq (i.zTiles g)
  | none => s

/-- The frame of a scalar exchange (R324). -/
def scalarPayload (k : InstKind) (v : Word) (differ : Bool) : List Byte :=
  let tail := match k with
    | .barrier q => leBytes 4 q.toNat
    | .scalar op => leBytes 4 (if op = 9 then differ.toNat else 0)
    | _ => leBytes 4 0
  padTo 64 (leBytes 8 v.toNat ++ tail)

/-- The type of the frames of a scalar exchange. -/
def scalarType (k : InstKind) : BitVec 4 := match k with | .barrier _ => 10 | _ => 8

/-- Send the values of a scalar exchange. -/
def State.sendScalars (s : State) (g : Group) (i : Inst) (l : List RingSend) : State :=
  l.foldl (fun s v => s.sendBlock (scalarType i.kind) (g.toward v.1 v.2.1) g i
    (scalarPayload i.kind v.2.2.1 v.2.2.2)) s

/-- A barrier's result is held: the group maximum and the beat in which it came (R45, R46). -/
def State.barResult (s : State) (i : Inst) : State :=
  match i.kind with
  | .barrier _ =>
    if i.ring.done then
      { s with sheet := { s.sheet with fbars := s.sheet.fbars.map (fun (b : FbarHeld) =>
          if b.seq = i.seq && b.result.isNone then { b with result := some (i.ring.acc.1, s.bea.count) } else b) } }
    else s
  | _ => s

/-- A ring after some of its values have been taken, with what that sends. -/
def State.ringStep (s : State) (g : Group) (i : Inst) (p : Ring × List RingSend) : State :=
  let q := p.1.run i.kind g (p.1.inbox.length + 1)
  let i := { i with ring := q.1 }
  ((s.putInst i).sendScalars g i (p.2 ++ q.2)).barResult i

/-! ## Frames (R323, R324) -/

/-- The group entry that a GID names: the lowest usable one. -/
def State.gidGroup (s : State) (gid : BitVec 13) : Option Nat :=
  (List.range 64).find? (fun g => (s.groupAt g).usable && (s.groupAt g).gid == gid)

/-- The dimension and side that a frame of a group came from, by its source; where both neighbours are one module, by
the side of the port (log entry 41). -/
def Group.sideOf (g : Group) (port : Nat) (src : BitVec 18) (scalar : Bool) : Option (Nat × Bool) :=
  ([0, 1, 2].find? (fun d => decide (2 ≤ g.size d) && (src == g.plus d || src == g.minus d))).map (fun d =>
    (d, if g.plus d = g.minus d then !scalar && port % 2 == 0 else src == g.plus d))

/-- A frame is discarded and counted. -/
def State.discardColl (s : State) : State :=
  let c := s.fol.coll
  { s with fol := { s.fol with coll := setFld c 32 16 (min (fldN c 32 16 + 1) 0xFFFF) } }

/-- The kind is a scalar exchange. -/
def InstKind.isScalar : InstKind → Bool
  | .scalar _ | .barrier _ => true
  | _ => false

/-- A value of a scalar exchange arrives. A barrier value of another sequence is not counted (R47). -/
def State.scalarFrame (s : State) (g : Group) (i : Inst) (side : Nat × Bool) (pl : List Byte) : State :=
  let v : Word := BitVec.ofNat 64 (leNat (pl.take 8))
  let differ := match i.kind with
    | .scalar 9 => leNat ((pl.drop 8).take 1) % 2 == 1
    | _ => false
  let wrong := match i.kind with
    | .barrier q => leNat ((pl.drop 8).take 4) != q.toNat
    | _ => false
  if wrong then s.raise .bea 6
  else
    let r := { i.ring with inbox := i.ring.inbox ++ [(2 * side.1 + side.2.toNat, v, differ)] }
    s.ringStep g i (r, [])

/-- A frame of a block arrives on a channel; the last frame completes the block, the next in order. -/
def State.blockFrame (s : State) (g : Group) (i : Inst) (c : Chan) (last : Bool) (pl : List Byte) : State :=
  let got := smGet [] i.part c.key ++ pl
  if !last then s.putInst { i with part := smPut [] i.part c.key got }
  else
    let i := { i with part := smPut [] i.part c.key [] }
    match (i.items g c true)[smGet 0 i.recvd c.key]? with
    | none => s.putInst i
    | some t =>
      let v := if c.gath then byteInts got else i.kind.unpack (i.kind.width (i.leaves g t)) got
      let key := 4 * t.n + (if c.gath then 3 else t.p)
      let i := { i with rx := smPut [] i.rx key v, recvd := smPut 0 i.recvd c.key (smGet 0 i.recvd c.key + 1) }
      (s.putInst i).pumpTiles g i.seq

/-- A frame for an instance that has started. -/
def State.instFrame (s : State) (g : Group) (i : Inst) (f : HeldFrame) : State :=
  match g.sideOf f.port f.h.src i.kind.isScalar with
  | none => s
  | some side =>
    if i.kind.isScalar then (if f.type = scalarType i.kind then s.scalarFrame g i side f.payload else s)
    else if f.type = 10 then s
    else s.blockFrame g i ⟨f.type == 9, side.1, side.2⟩ f.h.last f.payload

/-- The instance of a group entry that a frame is for: instance numbers are compared modulo 8. -/
def State.frameInst (s : State) (g : Nat) (h : FrameHdr) : Option Inst :=
  s.fol.insts.find? (fun i => i.grp == g && i.num % 8 == h.off.toNat / 16)

/-- A collective frame arrives (R323): it acts on its instance, is held until that starts, or is discarded. -/
def State.collFrame (s : State) (f : HeldFrame) : State :=
  match s.gidGroup f.h.tag with
  | none => s.discardColl
  | some g =>
    let hold := { s with fol := { s.fol with held := s.fol.held ++ [f] } }
    match s.frameInst g f.h with
    | none => hold
    | some i => if i.abandoned then s.discardColl else if i.started then s.instFrame (s.groupAt g) i f else hold

/-- RED_FRAME (R323, R324). -/
def execRedFrame (port : Nat) (h : FrameHdr) (payload : List Byte) (s : State) : Out :=
  .next (s.receiveFrame port 8 h payload (.redFrame port h payload) false (fun s => s.collFrame ⟨port, 8, h, payload⟩))

/-- GATH_FRAME (R323). -/
def execGathFrame (port : Nat) (h : FrameHdr) (payload : List Byte) (s : State) : Out :=
  .next (s.receiveFrame port 9 h payload (.gathFrame port h payload) false (fun s => s.collFrame ⟨port, 9, h, payload⟩))

/-- BAR_FRAME (R324, R47). -/
def execBarFrame (port : Nat) (h : FrameHdr) (payload : List Byte) (s : State) : Out :=
  .next (s.receiveFrame port 10 h payload (.barFrame port h payload) false (fun s => s.collFrame ⟨port, 10, h, payload⟩))

/-! ## Starting an instance (R315, R316) -/

/-- Frames held for an instance act on it, in order. -/
def State.replayHeld (s : State) (i : Inst) : State :=
  let mine (f : HeldFrame) : Bool := s.gidGroup f.h.tag == some i.grp && i.num % 8 == f.h.off.toNat / 16
  let l := s.fol.held.filter mine
  let s := { s with fol := { s.fol with held := s.fol.held.filter (fun f => !mine f) } }
  l.foldl (fun s f => s.collFrame f) s

/-- The instance starts in the beat in progress. -/
def State.startScalar (s : State) (i : Inst) (v : Word) : State :=
  let g := s.groupAt i.grp
  let i := { i with started := true, beat := s.bea.count }
  (s.ringStep g i (i.ring.begin g v)).replayHeld i

/-- An instance with this number may start now (R315, R328). -/
def State.instRoom (s : State) (i : Inst) : Bool :=
  s.running .fol && decide (s.fol.flying < 16)
    && !s.fol.openInst (fun x => x.grp == i.grp && decide (x.num + 8 ≤ i.num))

/-- A collective word may start: its instance within the limits, the value that it reads delivered, and, in a section
of the Sheet, every earlier word of the section complete (R315, R316, R318). -/
def State.collMayStart (s : State) (secs : BitVec 3) (e : QEnt) : Bool :=
  (match s.instOf e.seq with | some i => s.instRoom i | none => s.running .fol || wOpc e.word == 0xB5)
    && e.srcs.all (fun p => p.2.isSome)
    && (secs == 4 || s.sheet.issued.all (fun w => w.secs &&& secs == 0))

/-! ## Checks (R320) -/

/-- The fields of a tile collective. -/
structure CollJob where
  x    : Desc
  z    : Desc
  kind : InstKind
  g    : Group

/-- The tiles of a descriptor. -/
def Desc.count (d : Desc) : Nat := d.tr * d.tc * d.tp

/-- The fields of a word. -/
def collJob (a : ArrayArgs) (k : InstKind) (s : State) : CollJob :=
  { x := s.desc (fldN a.b 0 16), z := s.desc (fldN a.c 0 16), kind := k, g := s.groupAt (fldN a.a 0 16) }

/-- LAYOUT, RP and BCAST of an operand (R317). -/
def Desc.collShape (d : Desc) : Bool := (d.layout == 0 || d.layout == 3) && d.rp == 0 && d.bcast

/-- A byte format that UMAX and BOR take. -/
def Fm.byteWise (f : Fm) : Bool := f == .int8 || f == .e4m3 || f == .e5m2 || f == .e8m0 || f.isCb

/-- The formats of R317, with the descriptor concerned. -/
def CollJob.formatBad (j : CollJob) : Option Nat :=
  let plain (d : Desc) : Bool := !d.mx && d.foil == 0
  let same := j.z.tf == j.x.tf && j.z.mx == j.x.mx && j.z.foil == j.x.foil
  let g32 := j.z.fm == .fp32 && plain j.z
  if !j.x.collShape then some j.x.index
  else if !j.z.collShape then some j.z.index
  else match j.kind with
    | .gather | .broadcast _ =>
      if j.x.fm == .a128 then some j.x.index else if same then none else some j.z.index
    | .allReduce 3 | .reduceScatter =>
      if j.x.fm != .int8 || !plain j.x then some j.x.index else if g32 then none else some j.z.index
    | _ => if !j.x.fm.byteWise || !plain j.x then some j.x.index else if same then none else some j.z.index

/-- The counts of R317 and ROOT. -/
def CollJob.countBad (j : CollJob) : Bool :=
  match j.kind with
  | .reduceScatter => j.x.count != j.g.j * j.z.count
  | .gather => j.z.count != j.g.j * j.x.count
  | .broadcast root => j.z.count != j.x.count || decide (j.g.j ≤ root)
  | _ => j.z.count != j.x.count

/-- FLG and the fields of a tile collective (R316, R317). -/
def collFields (a : ArrayArgs) (k : InstKind) : Bool :=
  flgOk a.flg 0x10 && fldN a.c 16 16 == 0
    && (match k with
        | .allReduce op => fldN a.a 20 12 == 0 && decide (1 ≤ op) && decide (op ≤ 3) && fldN a.b 16 16 == 0
        | .broadcast _ => fldN a.a 16 16 == 0
        | _ => fldN a.a 16 16 == 0 && fldN a.b 16 16 == 0)

/-- The checks of a tile collective in order. -/
def collChecks (a : ArrayArgs) (k : InstKind) (s : State) : Option Flaw :=
  let j := collJob a k s
  let grp := fldN a.a 0 16
  let big := [j.x, j.z].find? (fun d => decide (s.descCount ≤ d.index))
  let zero := [j.x, j.z].find? (fun d => d.zeroBad false)
  let res := [j.x, j.z].find? (Desc.reservedBad s.fmt.loaded)
  let at_ (o : Option Desc) : Nat := match o with | some d => d.index | none => 0
  firstFlaw
    [(!collFields a k, ⟨0x02, 0, 0x3FF, 0, none⟩),
     (decide (64 ≤ grp), flawIndex 0x10 1 grp),
     (big.isSome, flawIndex 0x10 1 (at_ big)),
     (zero.isSome, flawIndex 0x11 1 (at_ zero)),
     (res.isSome, flawIndex 0x12 1 (at_ res)),
     (j.formatBad.isSome, flawIndex 0x15 1 (j.formatBad.getD 0)),
     (j.countBad, flawIndex 0x13 1 j.x.index),
     (!j.g.usable, flawIndex 0x1A 1 grp)]

/-- A word fails a check: it is refused and its instance is gone. -/
def State.refuseColl (s : State) (e : QEnt) (f : Flaw) : State := (s.refuse .fol e f).dropInst e.seq

/-! ## Tile collectives (R317) -/

/-- The foil check of a slot that a collective reads (R311, R320). -/
def State.collFoil (s : State) (w : AWord) (d : Desc) (u : Nat) (bs : List Byte) : State :=
  let n := dataBytes (foilElem d.foil).width + 32
  if d.foil = 0 || (crc32c (bs.take n)).toNat == leNat ((bs.drop n).take 4) then s
  else
    let s := { s with fol := { s.fol with crc := addHi s.fol.crc 1 } }
    (s.flaw .fol w { flawIndex 0x40 3 d.index with addr := some u }).phaseStop

/-- This member's X tiles as it contributes them; none where one is not translated. -/
def State.readOwn (s : State) (j : CollJob) (w : AWord) : List Nat → SMap (List Int) → Except Nat (State × SMap (List Int))
  | [], m => .ok (s, m)
  | t :: rest, m =>
    let u := j.x.uaddr + j.x.size * t
    match s.lostFor u j.x.size, s.slotBytes u j.x.size with
    | some v, _ => .error v
    | none, bs =>
      let s := (s.noteRead 6 u j.x.size).collFoil w j.x u bs
      let v := if j.kind.sums then bs.map (fun b => b.toInt) else byteInts bs
      s.readOwn j w rest (smPut [] m t v)

/-- The X tiles that a member reads: a broadcast reads those of the root only. -/
def CollJob.reads (j : CollJob) : List Nat :=
  match j.kind with
  | .broadcast root => if root = j.g.m then List.range j.x.count else []
  | _ => List.range j.x.count

/-- X and Z overlap in a way that leaves Z undefined (R317). -/
def CollJob.clash (j : CollJob) : Bool :=
  let xn := j.x.size * j.x.count
  let zn := j.z.size * j.z.count
  let inPlace := match j.kind with
    | .gather => j.x.uaddr == j.z.uaddr + j.g.m * xn
    | .allReduce 1 | .allReduce 2 | .broadcast _ => j.x.uaddr == j.z.uaddr
    | _ => false
  !inPlace && decide (j.x.uaddr < j.z.uaddr + zn) && decide (j.z.uaddr < j.x.uaddr + xn)

/-- The instance as it starts. -/
def CollJob.begin (j : CollJob) (s : State) (i : Inst) (own : SMap (List Int)) : Inst :=
  { i with started := true, beat := s.bea.count, zAddr := j.z.uaddr, zSlot := j.z.size, nx := j.x.count,
           nz := j.z.count, clash := j.clash, own := own
           dests := s.slotDests j.z.uaddr (j.z.size * j.z.count) }

/-- The sections of an issued word wait behind it until it completes. -/
def State.holdSecs (s : State) (secs : BitVec 3) (seq : Nat) : State :=
  let h := s.sheet
  { s with sheet := { h with
      holdF := if bitAt secs 0 then some seq else h.holdF
      holdB := if bitAt secs 1 then some seq else h.holdB
      holdH := if bitAt secs 2 then some seq else h.holdH } }

/-- A tile collective that passed its checks starts; with WAIT its word completes with the instance (R319). -/
def State.startTiles (s : State) (j : CollJob) (e : QEnt) (a : ArrayArgs) (i : Inst) : State :=
  let s := if bitAt a.flg 4 then (s.holdFor e.seq (.inst e.seq)).holdSecs (secsOf a.sec) e.seq else s
  match s.readOwn j e.word j.reads [] with
  | .error u => (s.putInst (j.begin s i [])).instFault i j.x.index u
  | .ok (t, own) =>
    let i := j.begin s i own
    ((t.putInst i).pumpTiles j.g e.seq).replayHeld i

/-- The effect of CRSC, CAGR, CAR or CBCAST at its start. -/
def tilesEffect (a : ArrayArgs) (e : QEnt) (s : State) : State :=
  match s.instOf e.seq with
  | none => s
  | some i =>
    match collChecks a i.kind s with
    | some f => s.refuseColl e f
    | none => s.startTiles (collJob a i.kind s) e a i

/-! ## CSCAL and CWAIT (R318, R319) -/

/-- The checks of CSCAL in order. -/
def cscalChecks (a : ArrayArgs) (s : State) : Option Flaw :=
  let op := fldN a.a 16 4
  let g := fldN a.a 0 16
  firstFlaw
    [(!flgOk a.flg 0 || !bitAt a.flg 7 || fldN a.a 20 12 != 0 || fldN a.b 4 28 != 0 || a.c != 0 || op == 0
        || decide (9 < op), ⟨0x02, 0, 0x3FF, 0, none⟩),
     (decide (64 ≤ g), flawIndex 0x10 1 g),
     (!(s.groupAt g).usable, flawIndex 0x1A 1 g)]

/-- The effect of CSCAL at its start: its value enters the exchange. -/
def cscalEffect (a : ArrayArgs) (e : QEnt) (s : State) : State :=
  match s.instOf e.seq, cscalChecks a s with
  | some _, some f => s.refuseColl e f
  | some i, none => s.startScalar i ((e.srcs.head?.bind (·.2)).getD 0)
  | none, _ => s

/-- The checks of CWAIT in order. -/
def cwaitChecks (a : ArrayArgs) (s : State) : Option Flaw :=
  let g := fldN a.a 0 16
  firstFlaw
    [(!flgOk a.flg 0 || fldN a.a 16 16 != 0 || a.b != 0 || a.c != 0, ⟨0x02, 0, 0x3FF, 0, none⟩),
     (decide (64 ≤ g), flawIndex 0x10 1 g),
     (!(s.groupAt g).usable, flawIndex 0x1A 1 g)]

/-- The effect of CWAIT at its start: it waits for the earlier instances of its group, and its section behind it. -/
def cwaitEffect (a : ArrayArgs) (e : QEnt) (s : State) : State :=
  match cwaitChecks a s with
  | some f => s.refuse .fol e f
  | none => ((s.holdFor e.seq (.group (fldN a.a 0 16) e.seq)).holdSecs (secsOf a.sec) e.seq).settleHolds

/-! ## FBAR (R45 to R47) -/

/-- FBAR's group is not usable: it holds, and says so once (R320). -/
def State.barUnusable (s : State) (e : QEnt) (g : Nat) : State := s.flaw .fol e.word (flawIndex 0x1A 1 g)

/-- FBAR issues: the module arrives in this beat, its sections wait, and its arrival enters the exchange. -/
def fbarEffect (a : ArrayArgs) (e : QEnt) (s : State) : State :=
  let secs := secsOf a.sec
  let b : FbarHeld :=
    { seq := e.seq, secs := secs, group := fldN a.a 0 16, planned := s.cnd.run + a.b.setWidth 64, fseq := a.c,
      arrival := s.bea.count, result := none, warned := false }
  let s := ({ s with sheet := { s.sheet with fbars := s.sheet.fbars ++ [b] } }).swarfStart secs
  match s.instOf e.seq with
  | none => s
  | some i => if (s.groupAt b.group).usable then s.startScalar i s.bea.count else s.barUnusable e b.group

/-- FBAR may issue: its instance within the limits, the collective unit in RUN (R315, R328). -/
def State.barMayStart (s : State) (e : QEnt) : Bool :=
  match s.instOf e.seq with
  | some i => s.instRoom i
  | none => true

/-! ## The words as commands -/

/-- The effect of a collective word or an FBAR when it starts. -/
def collEffect (opc : BitVec 8) (a : ArrayArgs) : QEnt → State → State :=
  if opc = 0xB0 then cscalEffect a
  else if opc = 0xB5 then cwaitEffect a
  else if opc = 0xC2 then fbarEffect a
  else tilesEffect a

/-- A collective word or an FBAR may start. -/
def State.collReady (s : State) (opc : BitVec 8) (secs : BitVec 3) (e : QEnt) : Bool :=
  if opc = 0xC2 then s.barMayStart e else s.collMayStart secs e

/-- A command that issues a collective word: the word waits at issue until it may start (R315). -/
def collCmd (opc : BitVec 8) (a : ArrayArgs) (s : State) : Out :=
  let held := match s.issuing opc a with
    | some e => !s.collReady opc (secsOf a.sec) e
    | none => false
  if held then .next s
  else arrayCmd opc a (collEffect opc a) (fun e s => if opc = 0xC2 then s else refuseReserved .fol e s) s

/-- CSCAL (R318). -/
def execCscal (a : ArrayArgs) (s : State) : Out := collCmd 0xB0 a s
/-- CRSC (R317). -/
def execCrsc (a : ArrayArgs) (s : State) : Out := collCmd 0xB1 a s
/-- CAGR (R317). -/
def execCagr (a : ArrayArgs) (s : State) : Out := collCmd 0xB2 a s
/-- CAR (R317). -/
def execCar (a : ArrayArgs) (s : State) : Out := collCmd 0xB3 a s
/-- CBCAST (R317). -/
def execCbcast (a : ArrayArgs) (s : State) : Out := collCmd 0xB4 a s
/-- CWAIT (R319). -/
def execCwait (a : ArrayArgs) (s : State) : Out := collCmd 0xB5 a s
/-- FBAR (R45). -/
def execFbar (a : ArrayArgs) (s : State) : Out := collCmd 0xC2 a s

/-- The fields of a word. -/
def argsOf (w : AWord) : ArrayArgs := ⟨wSec w, BitVec.ofNat 14 (wWait w), wFlg w, wA w, wB w, wC w⟩

/-- A word that is an instance of its group. -/
def isInstance (opc : BitVec 8) : Bool := [0xB0, 0xB1, 0xB2, 0xB3, 0xB4, 0xC2].contains opc.toNat

/-- COLLECTIVE_START (R315): the word with this enqueue number, held at issue by the limits, starts. -/
def execCollectiveStart (seq : Nat) (s : State) : Out :=
  let head := [(3 : BitVec 3), 1, 2, 4].findSome? (fun secs =>
    match s.headOf secs with
    | some e => if e.seq == seq && isInstance (wOpc e.word) && secsOf (wSec e.word) == secs then some e else none
    | none => none)
  match head with
  | none => .next s
  | some e => collCmd (wOpc e.word) (argsOf e.word) s

/-- A member has sent every block that it sends and written every Z tile that it writes. -/
def Inst.finished (i : Inst) (g : Group) : Bool :=
  if i.kind.isScalar then i.ring.done
  else allChans.all (fun c => (i.items g c false).length == smGet 0 i.sent c.key)
    && (i.zTiles g).all (fun t => smGet false i.written t.1)

/-- COLLECTIVE_COMPLETE (R319): the instance completes; CSCAL delivers its result. Tiles that have waited for a page in
move are written first. -/
def execCollectiveComplete (seq : Nat) (s : State) : Out :=
  match s.instOf seq with
  | none => .next s
  | some i =>
    let bar := match i.kind with | .barrier _ => true | _ => false
    if i.kind.isScalar then
      whenB (i.inFlight && !bar && i.finished (s.groupAt i.grp)) s
        ((s.formSummary seq (i.kind.scalarResult i.ring.acc)).completeInst seq)
    else if i.inFlight then
      let t := s.pumpTiles (s.groupAt i.grp) seq
      .next (match t.instOf seq with
        | some k => if k.inFlight && k.finished (t.groupAt k.grp) then t.completeInst seq else t
        | none => t)
    else .next s

/-- COLLECTIVE_STALL (R325): once for each instance in flight longer than WARN beats. -/
def execCollectiveStall (seq : Nat) (s : State) : Out :=
  match s.instOf seq with
  | none => .next s
  | some i =>
    let bar := match i.kind with | .barrier _ => true | _ => false
    let warn := fldN s.bea.bar 8 32
    whenB (i.inFlight && !bar && !i.warned && warn != 0 && decide (i.beat.toNat + warn < s.bea.count.toNat)) s
      ((s.putInst { i with warned := true }).raise .fol 5)

/-! ## Release (R45 to R47) -/

/-- The release beat that every member computes. -/
def State.barBeat (s : State) (b : FbarHeld) (m : Word) : Nat := max b.planned.toNat (m.toNat + fldN s.bea.bar 0 8)

/-- Count a late release. -/
def State.countLate (s : State) (beats : Nat) : State :=
  if beats = 0 then s
  else ({ s with bea := { s.bea with late := addLo (addHi s.bea.late 1) beats } }).raise .bea 4

/-- FBAR_RELEASE (R45, R46): the release beat, or the beat in which the result came if that is later, is reached. -/
def execFbarRelease (seq : Nat) (s : State) : Out :=
  match s.sheet.fbars.find? (fun b => b.seq == seq) with
  | none => .next s
  | some b =>
    match b.result with
    | none => .next s
    | some (m, at_) =>
      let beat := max (s.barBeat b m) at_.toNat
      let h := s.sheet
      let c := s.bea.count
      let t := { s with sheet := { h with
          fbars := h.fbars.filter (fun x => x.seq != seq)
          lastF := if bitAt b.secs 0 then c else h.lastF
          lastB := if bitAt b.secs 1 then c else h.lastB
          lastH := if bitAt b.secs 2 then c else h.lastH } }
      let t := (t.countLate (beat - b.planned.toNat)).swarfRelease b.secs
      whenB (decide (beat ≤ c.toNat)) s ((t.release seq).completeInst seq)

/-- FBAR_HELD_WARNING (R47): once for each barrier held WARN beats after its planned beat. -/
def execFbarHeldWarning (seq : Nat) (s : State) : Out :=
  match s.sheet.fbars.find? (fun b => b.seq == seq) with
  | none => .next s
  | some b =>
    let warn := fldN s.bea.bar 8 32
    let t := { s with sheet := { s.sheet with fbars := s.sheet.fbars.map (fun (x : FbarHeld) =>
        if x.seq = seq then { x with warned := true } else x) } }
    whenB (!b.warned && warn != 0 && decide (b.planned.toNat + warn ≤ s.bea.count.toNat)) s (t.raise .bea 5)

end Sys2Proof.Machine
end

