-- ==== Sys2Proof/Machine/Matrix.lean ====
section
/-! DEFINITION. The matrix words (R95 to R104): their checks, their steps, their write-out and their summary. -/

namespace Sys2Proof.Machine

/-- What a matrix opcode does (R95). -/
inductive MatKind where
  | mul | mac | tacc | gload | gstore | gclr | ascore | arows | agscale
  deriving DecidableEq, Repr

/-- A matrix opcode: what it does, and whether X and Y are taken transposed. -/
structure MatOp where
  kind : MatKind
  tx   : Bool := false
  ty   : Bool := false
  deriving DecidableEq, Repr

/-- It forms products. -/
def MatKind.prod : MatKind → Bool
  | .mul | .mac | .tacc | .ascore => true
  | _ => false

/-- It uses the field X. -/
def MatKind.useX : MatKind → Bool
  | .gload | .gstore | .gclr => false
  | _ => true

/-- FLG[6:4] bits that the opcode defines (R95). -/
def MatKind.flags : MatKind → BitVec 8
  | .mul | .mac => 0x30
  | .tacc | .gstore => 0x20
  | .ascore => 0x30
  | .arows => 0x10
  | _ => 0

/-- The opcode reads AMODE of Z (R100). -/
def MatKind.readsAmode : MatKind → Bool
  | .mul | .mac | .tacc | .gclr | .ascore | .agscale => true
  | _ => false

/-- The fields of a matrix word (R96). -/
structure MatJob where
  op     : MatOp
  x      : Desc
  y      : Desc
  z      : Desc
  gb     : Nat
  wout   : Bool
  clr    : Bool
  causal : Bool
  scale  : Num
  sect   : Sect
  f32    : Bool

/-- The word writes Z. -/
def MatOp.writes (op : MatOp) (flg : BitVec 8) : Bool :=
  match op.kind with
  | .mul | .mac => bitAt flg 4
  | .tacc | .gstore | .ascore | .arows => true
  | _ => false

/-- The word clears the tiles after write-out. -/
def MatOp.clears (op : MatOp) (flg : BitVec 8) : Bool :=
  match op.kind with
  | .mul | .mac | .tacc | .gstore => bitAt flg 5
  | .ascore | .arows => bitAt flg 4
  | _ => false

/-- A word's fields. -/
def matJob (op : MatOp) (a : ArrayArgs) (s : State) : MatJob :=
  { op := op, x := s.desc (fldN a.a 0 16), y := s.desc (fldN a.b 0 16), z := s.desc (fldN a.c 0 16)
    gb := fldN a.a 16 5, wout := op.writes a.flg, clr := op.clears a.flg
    causal := op.kind == .ascore && bitAt a.flg 5, scale := bf16Val (fldN a.c 16 16)
    sect := sectOf a.sec, f32 := s.fmt.fp32acc }

/-- M, N, P and the core limit come from Z (R97). -/
def MatJob.m (j : MatJob) : Nat := j.z.tr
/-- N. -/
def MatJob.n (j : MatJob) : Nat := j.z.tc
/-- P. -/
def MatJob.p (j : MatJob) : Nat := j.z.tp
/-- K, from X (R97). -/
def MatJob.k (j : MatJob) : Nat := if j.op.tx then j.x.tr else j.x.tc

/-- Check 2 (R86, R96). -/
def matFieldsBad (op : MatOp) (a : ArrayArgs) : Bool :=
  !flgOk a.flg op.kind.flags || fldN a.a 21 11 != 0 || fldN a.b 16 16 != 0
    || (op.kind != .ascore && fldN a.c 16 16 != 0) || (!op.kind.useX && fldN a.a 0 16 != 0)
    || (!op.kind.prod && fldN a.b 0 16 != 0)
    || ((op.kind == .mul || op.kind == .mac) && bitAt a.flg 5 && !bitAt a.flg 4)

/-- The descriptors that a word uses. -/
def MatJob.used (j : MatJob) : List Desc :=
  (if j.op.kind.useX then [j.x] else []) ++ (if j.op.kind.prod then [j.y] else []) ++ [j.z]

/-- A factor vector (R97). -/
def MatKind.factors : MatKind → Bool
  | .arows | .agscale => true
  | _ => false

/-- The TF of Z that the table *Z formats* allows; in FP32-accumulate mode FP32 stands for A128, and no Z may be A128
(R128). -/
def MatJob.zFormatOk (j : MatJob) : Bool :=
  match j.op.kind with
  | .tacc | .gload => if j.f32 then j.z.fm == .fp32 else j.z.fm == .a128
  | .ascore => [Fm.fp32, .bf16, .fp16].contains j.z.fm
  | _ => !(j.f32 && j.z.fm == .a128) && (!j.wout || (j.z.fm != .e8m0 && !j.z.fm.isCb))

/-- Check 6: the index of the descriptor at fault (R97, R100). -/
def MatJob.formatBad (j : MatJob) : Option Nat :=
  let k := j.op.kind
  let bad (d : Desc) : Bool := d.fm == .a128 || d.fm == .e8m0
  if k.useX && bad j.x then some j.x.index
  else if k.prod && bad j.y then some j.y.index
  else if k.factors && (j.x.layout != 3 || j.x.fm != .fp32) then some j.x.index
  else if k.prod && j.x.fm.isInt != j.y.fm.isInt then some j.y.index
  else if !j.zFormatOk then some j.z.index
  else if (k == .mac || k == .tacc || k == .agscale) && j.z.amode != 3 then some j.z.index
  else if k == .gclr && j.z.amode == 2 then some j.z.index
  else none

/-- An operand's planes: 1 or P (R97). -/
def planesOk (tp p : Nat) : Bool := tp == 1 || tp == p

/-- Check 7: the index of the descriptor at fault (R97). -/
def MatJob.extentBad (j : MatJob) : Option Nat :=
  if j.op.kind.prod then
    let xm := if j.op.tx then j.x.tc else j.x.tr
    let yk := if j.op.ty then j.y.tc else j.y.tr
    let yn := if j.op.ty then j.y.tr else j.y.tc
    if xm != j.m || j.x.tq != 1 || !planesOk j.x.tp j.p then some j.x.index
    else if yk != j.k || yn != j.n || j.y.tq != 1 || !planesOk j.y.tp j.p then some j.y.index
    else if max j.x.tp j.y.tp != j.p then some j.z.index
    else none
  else if j.op.kind.factors && (j.x.tp != 1 || decide (j.x.tc * 1024 < 32 * j.m * j.p)) then some j.x.index
  else none

/-- The checks of a matrix word in order (R98). -/
def matChecks (op : MatOp) (a : ArrayArgs) (s : State) : Option Flaw :=
  let j := matJob op a s
  let big := j.used.find? (fun d => decide (s.descCount ≤ d.index))
  let zero := j.used.find? (fun d => d.zeroBad (op.kind.readsAmode && d.index == j.z.index))
  let res := j.used.find? (Desc.reservedBad s.fmt.loaded)
  let at_ (o : Option Desc) : Nat := match o with | some d => d.index | none => 0
  firstFlaw
    [(a.sec == 3, ⟨0x03, 0, 0x3FF, 0, none⟩),
     (matFieldsBad op a, ⟨0x02, 0, 0x3FF, 0, none⟩),
     (big.isSome, flawDesc 0x10 1 (at_ big)),
     (zero.isSome, flawDesc 0x11 1 (at_ zero)),
     (res.isSome, flawDesc 0x12 1 (at_ res)),
     (op.kind == .ascore && (!j.scale.isFin || j.z.slagm), flawDesc 0x12 1 j.z.index),
     (j.formatBad.isSome, flawDesc 0x15 1 (j.formatBad.getD 0)),
     (j.extentBad.isSome, flawDesc 0x13 1 (j.extentBad.getD 0)),
     (decide (32 < j.gb + j.m * j.n * j.p), flawDesc 0x14 1 j.z.index)]

/-! ## Steps -/

/-- A result tile: its G-buffer number and its place (p, i, j). -/
structure ResTile where
  t : Nat
  p : Nat
  i : Nat
  j : Nat
  deriving DecidableEq, Repr

/-- The result tiles in (p, i, j) order (R97). -/
def resTiles (gb m n p : Nat) : List ResTile :=
  (List.range (p * m * n)).map (fun q => ⟨gb + q, q / (m * n), q / n % m, q % n⟩)

/-- The X slot of K-tile `k` for a core. -/
def MatJob.xSlot (j : MatJob) (t : ResTile) (k : Nat) (c : CoreAt) : Int :=
  let p := if j.x.tp = 1 then 0 else t.p
  if j.op.tx then j.x.slotAt c k t.i p else j.x.slotAt c t.i k p

/-- The Y slot of K-tile `k` for a core. -/
def MatJob.ySlot (j : MatJob) (t : ResTile) (k : Nat) (c : CoreAt) : Int :=
  let p := if j.y.tp = 1 then 0 else t.p
  if j.op.ty then j.y.slotAt c t.j k p else j.y.slotAt c k t.j p

/-- The Z slot of a result tile for a core. -/
def MatJob.zSlot (j : MatJob) (t : ResTile) (c : CoreAt) : Int := j.z.slotAt c t.i t.j t.p

/-- The first factor of a result tile, and its slot (R97). -/
def MatJob.factor0 (j : MatJob) (t : ResTile) : Nat := 32 * (t.p * j.m + t.i)

/-- The 1,024 lists of 32 products of two tiles, X given by rows and Y by columns. -/
def tileProducts (x y : List Num) : List (List Num) :=
  (List.range 1024).map (fun n =>
    (List.range 32).map (fun k =>
      (x.getD (32 * (n / 32) + k) Num.zero).mul (y.getD (32 * k + n % 32) Num.zero)))

/-- The two operand tiles of a K-tile, oriented as op(X) and op(Y). -/
def MatJob.operands (j : MatJob) (t : ResTile) (k : Nat) (c : CoreAt) (s : State) : List Num × List Num × State :=
  let rx := s.readTile 0 c.c j.x (j.xSlot t k c)
  let ry := rx.2.readTile 0 c.c j.y (j.ySlot t k c)
  (if j.op.tx then transposeL Num.zero rx.1 else rx.1, if j.op.ty then transposeL Num.zero ry.1 else ry.1, ry.2)

/-- The largest exponent over all products of a result tile (R119). -/
def MatJob.prepass (j : MatJob) (t : ResTile) (c : CoreAt) (s : State) : Option Int :=
  (List.range j.k).foldl (fun a k =>
    let r := j.operands t k c s
    maxLog a (maxExp (tileProducts r.1 r.2.1).flatten)) none

/-- The anchor that a clearing word gives its tile (R100). -/
def MatJob.anchor (j : MatJob) (t : ResTile) (c : CoreAt) (s : State) : Int :=
  match j.z.amode with
  | 1 => j.z.ae
  | 2 => autoAnchor j.z.ae (j.prepass t c s)
  | _ => (s.acc c.c t.t).ae

/-- Load a tile from its Z slot (R118, R127, R128). -/
def MatJob.load (j : MatJob) (t : ResTile) (c : CoreAt) (s : State) : State :=
  let r := s.readSlot 0 c.c j.z (j.zSlot t c)
  let a := if j.f32 then accOfFp32 ((r.2.valuesOf j.z r.1).map (fun v => (rneFp32 v).bits)) else accOfSlot r.1
  r.2.putAcc c.c t.t a

/-- What precedes the first K-tile of a result tile: MTACC loads it, MMUL and ASCORE clear it at its anchor. -/
def MatJob.begin (j : MatJob) (t : ResTile) (c : CoreAt) (s : State) : State :=
  match j.op.kind with
  | .tacc => j.load t c s
  | .mul | .ascore => s.putAcc c.c t.t (Acc.cleared j.f32 (j.anchor t c s))
  | _ => s

/-- What the first step of a result tile needs beside its operands. -/
def MatJob.beginNeeds (j : MatJob) (t : ResTile) (c : CoreAt) : List Need :=
  match j.op.kind with
  | .tacc => [rNeed j.z (j.zSlot t c)]
  | .mul | .ascore =>
    if j.z.amode = 2 then
      (List.range j.k).flatMap (fun k => [rNeed j.x (j.xSlot t k c), rNeed j.y (j.ySlot t k c)])
    else []
  | _ => []

/-- One tile product (R116, R117, R128). -/
def MatJob.product (j : MatJob) (t : ResTile) (k : Nat) (c : CoreAt) (s : State) : State :=
  let s := if k = 0 then j.begin t c s else s
  let r := j.operands t k c s
  let a := r.2.2.acc c.c t.t
  r.2.2.putAcc c.c t.t ({ a with f32 := j.f32 }.addProducts 32 (tileProducts r.1 r.2.1))

/-- The steps that form products. -/
def MatJob.prodSteps (j : MatJob) (t : ResTile) : List (WStep State) :=
  (List.range j.k).map (fun k =>
    { tile := t.t
      needs := fun c => (if k = 0 then j.beginNeeds t c else [])
        ++ [rNeed j.x (j.xSlot t k c), rNeed j.y (j.ySlot t k c)]
      act := j.product t k })

/-- The 32 factors of a result tile (R97). -/
def MatJob.factors (j : MatJob) (t : ResTile) (c : CoreAt) (s : State) : List Num × State :=
  let e := j.factor0 t
  let r := s.readTile 0 c.c j.x (j.x.vecSlot c e)
  ((r.1.drop (e % 1024)).take 32, r.2)

/-- One element scaled by a finite factor at its anchor (R104). -/
def scaleCell (i : Int) (f : Num) : Cell :=
  match f with
  | .fin s m e =>
    let p : Int := i * (if s then -(m : Int) else m)
    let v : Int := if 0 ≤ e then p * (2 ^ e.toNat : Nat) else p / (2 ^ (-e).toNat : Nat)
    let lost := decide (e < 0) && decide (p % (2 ^ (-e).toNat : Nat) ≠ 0)
    ⟨wrap128 v, decide (2 ^ 126 ≤ v.natAbs), lost⟩
  | _ => ⟨i, false, false⟩

/-- One FP32 element scaled by a finite factor (R128). -/
def scaleFp32 (i : Int) (f : Num) : Cell :=
  if f.isFin then
    let r := rneFp32 (f.mul (fp32Val i.toNat))
    ⟨r.bits, !(fp32Val r.bits).isFin, r.inexact⟩
  else ⟨i, false, false⟩

/-- AGSCALE of one tile (R104). -/
def Acc.scaleRows (a : Acc) (fs : List Num) : Acc :=
  let cells := a.vals.zipIdx.map (fun p =>
    let f := fs.getD (p.2 / 32) Num.zero
    if a.f32 then scaleFp32 p.1 f else scaleCell p.1 f)
  { a with vals := cells.map (·.i), high := a.high || cells.any (·.high), loss := a.loss || cells.any (·.loss) }

/-- AGSCALE on one core: a non-finite factor leaves its row and is reported (R104). -/
def MatJob.agscale (j : MatJob) (e : QEnt) (t : ResTile) (c : CoreAt) (s : State) : State :=
  let r := j.factors t c s
  let s := r.2.putAcc c.c t.t ((r.2.acc c.c t.t).scaleRows r.1)
  if r.1.all Num.isFin then s
  else s.flaw .ary e.word ⟨0x30, 3, c.c, 2 ^ 16 * j.x.index, none⟩

/-- The steps before the write-outs. -/
def MatJob.steps (j : MatJob) (e : QEnt) (t : ResTile) : List (WStep State) :=
  match j.op.kind with
  | .gload => [{ tile := t.t, needs := fun c => [rNeed j.z (j.zSlot t c)], act := j.load t }]
  | .gclr => [{ tile := t.t, needs := fun _ => []
                act := fun c s => s.putAcc c.c t.t (Acc.cleared j.f32 (j.anchor t c s)) }]
  | .agscale => [{ tile := t.t, needs := fun c => [rNeed j.x (j.x.vecSlot c (j.factor0 t))], act := j.agscale e t }]
  | .gstore | .arows => []
  | _ => j.prodSteps t

/-! ## Write-out (R101, R103, R104) -/

/-- The causal mask of ASCORE: the key index exceeds the query index by more than the diagonal (R103). -/
def MatJob.masked (j : MatJob) (t : ResTile) (c : CoreAt) (n : Nat) : Bool :=
  let query : Int := (32 * (c.r * j.m + t.i) + n / 32 : Nat)
  let key : Int := (32 * (c.k * j.n + t.j) + n % 32 : Nat)
  decide (query + 32 * sext 16 j.z.mparam < key)

/-- The values that a tile is written with. -/
def MatJob.outValues (j : MatJob) (t : ResTile) (c : CoreAt) (fs : List Num) (a : Acc) : List Num :=
  a.values.zipIdx.map (fun p =>
    match j.op.kind with
    | .ascore => if j.causal && j.masked t c p.2 then .inf true else j.scale.mul p.1
    | .arows => (fs.getD (p.2 / 32) Num.zero).mul p.1
    | _ => p.1)

/-- CLR after the write-out keeps the anchor (R101). -/
def MatJob.clear (j : MatJob) (t : ResTile) (c : CoreAt) (s : State) : State :=
  if j.clr then s.putAcc c.c t.t (Acc.cleared j.f32 (s.acc c.c t.t).ae) else s

/-- The bytes of an A128 slot for a scaled tile: the spec gives no result of converting f × v to A128, and they are free
(log entry 128). -/
def State.freeSlot (s : State) (n : Nat) : List Byte := (List.range n).map (Config.freeByte s.fresh)

/-- Write a tile out, or count it as slag. A Z of TF A128 takes integers and header exactly (R101; log entry 32). -/
def MatJob.writeOut (j : MatJob) (e : QEnt) (mask : State) (t : ResTile) (c : CoreAt) (s : State) : State :=
  let u := j.zSlot t c
  let f := if j.op.kind.factors then j.factors t c s else ([], s)
  let a := f.2.acc c.c t.t
  let s := if mask.maskTest j.z u = some false then f.2.slagTiles 1
    else
      let s := (f.2.destsOf e.seq (f.2.slotDests u j.z.size))
      if j.z.fm = .a128 then
        if j.op.kind = .arows then (s.writeSlot .ary e.seq c.c u (s.freeSlot j.z.size)).drawn
        else s.writeSlot .ary e.seq c.c u a.slot
      else s.writeTile .ary e c.c j.z u (j.outValues t c f.1 a)
  j.clear t c s

/-- The write-out step of a tile; the mask is read at issue (R261). -/
def MatJob.outStep (j : MatJob) (e : QEnt) (mask : State) (t : ResTile) : WStep State :=
  { tile := t.t
    needs := fun c =>
      (if j.op.kind.factors then [rNeed j.x (j.x.vecSlot c (j.factor0 t))] else [])
        ++ zNeed j.z (j.zSlot t c) (mask.maskTest j.z (j.zSlot t c))
    act := j.writeOut e mask t }

/-! ## The word -/

/-- HIGH, LOSS and EMPTY over G-buffer tiles, given by core and number, as bits 0 to 2 (R102). -/
def State.tileFlags (s : State) (ts : List (Nat × Nat)) : Word :=
  let any (b : Nat) : Bool := ts.any (fun t => bitAt (smGet 0 s.headers (hdrKey t.1 t.2)) b)
  putBit 0 (any 53) ||| putBit 1 (any 52) ||| putBit 2 (any 51)

/-- The tiles of a list on every core. -/
def onCores (cores : List CoreAt) (ts : List Nat) : List (Nat × Nat) := cores.flatMap (fun c => ts.map (fun t => (c.c, t)))

/-- The zero extents of a word (R98). -/
def MatJob.zeroWork (j : MatJob) : Bool :=
  j.m == 0 || j.n == 0 || j.p == 0 || j.z.tq == 0 || (j.op.kind.prod && j.k == 0)

/-- Report a translation fault of a word. -/
def State.stopFault (s : State) (b : Blk) (w : AWord) (q : Option (CoreAt × Need)) : State :=
  match q with
  | some q => s.flaw b w (faultFlaw q)
  | none => s

/-- Tile products carried out over all cores (R108). -/
def State.countProducts (s : State) (n : Nat) : State :=
  { s with sheet := { s.sheet with products := sat64 (s.sheet.products.toNat + n) } }

/-- Carry out a word that passed its checks (R97, R99, R102). -/
def MatJob.run (j : MatJob) (e : QEnt) (s : State) : State :=
  let cores := s.coresOf j.sect j.z.tq
  let tiles := resTiles j.gb j.m j.n j.p
  let s0 := s
  let s := if j.wout then s.noteMasks j.z (cores.map (fun c => tiles.map (fun t => j.zSlot t c))) else s
  let s := (s.idleCores j.sect j.z.tq).destsOf e.seq
    (cores.flatMap (fun c => tiles.flatMap (fun t => accDests c.c t.t)))
  let one := runSteps id cores (tiles.flatMap (j.steps e)) s
  let s := if j.op.kind.prod then one.st.countProducts (one.did.length * cores.length) else one.st
  match one.stop with
  | some q => (s.stopFault .ary e.word (some q)).formSummary e.seq (s.tileFlags (onCores cores one.did))
  | none =>
    if j.wout then
      let two := runSteps id cores (tiles.map (j.outStep e s0)) s
      let seen := if j.op.kind == .gstore || j.op.kind == .arows then two.did else tiles.map (·.t)
      (two.st.stopFault .ary e.word two.stop).formSummary e.seq (s.tileFlags (onCores cores seen))
    else s.formSummary e.seq (s.tileFlags (onCores cores (tiles.map (·.t))))

/-- The effect of a matrix word at issue. -/
def matEffect (op : MatOp) (a : ArrayArgs) (e : QEnt) (s : State) : State :=
  match matChecks op a s with
  | some f => s.refuse .ary e f
  | none =>
    let j := matJob op a s
    if j.zeroWork then s.formSummary e.seq 0 else j.run e s

/-- A command of the matrix class. -/
def matCmd (opc : BitVec 8) (op : MatOp) (a : ArrayArgs) (s : State) : Out :=
  arrayCmd opc a (matEffect op a) (refuseReserved .ary) s

/-- MMUL (R95). -/
def execMmul (a : ArrayArgs) (s : State) : Out := matCmd 0x01 { kind := .mul } a s
/-- MMUL.TX. -/
def execMmulTx (a : ArrayArgs) (s : State) : Out := matCmd 0x02 { kind := .mul, tx := true } a s
/-- MMUL.TY. -/
def execMmulTy (a : ArrayArgs) (s : State) : Out := matCmd 0x03 { kind := .mul, ty := true } a s
/-- MMUL.TXY. -/
def execMmulTxy (a : ArrayArgs) (s : State) : Out := matCmd 0x04 { kind := .mul, tx := true, ty := true } a s
/-- MMAC. -/
def execMmac (a : ArrayArgs) (s : State) : Out := matCmd 0x05 { kind := .mac } a s
/-- MMAC.TX. -/
def execMmacTx (a : ArrayArgs) (s : State) : Out := matCmd 0x06 { kind := .mac, tx := true } a s
/-- MMAC.TY. -/
def execMmacTy (a : ArrayArgs) (s : State) : Out := matCmd 0x07 { kind := .mac, ty := true } a s
/-- MMAC.TXY. -/
def execMmacTxy (a : ArrayArgs) (s : State) : Out := matCmd 0x08 { kind := .mac, tx := true, ty := true } a s
/-- MTACC. -/
def execMtacc (a : ArrayArgs) (s : State) : Out := matCmd 0x09 { kind := .tacc } a s
/-- MTACC.TX. -/
def execMtaccTx (a : ArrayArgs) (s : State) : Out := matCmd 0x0A { kind := .tacc, tx := true } a s
/-- MTACC.TY. -/
def execMtaccTy (a : ArrayArgs) (s : State) : Out := matCmd 0x0B { kind := .tacc, ty := true } a s
/-- MTACC.TXY. -/
def execMtaccTxy (a : ArrayArgs) (s : State) : Out := matCmd 0x0C { kind := .tacc, tx := true, ty := true } a s
/-- GLOAD. -/
def execGload (a : ArrayArgs) (s : State) : Out := matCmd 0x0D { kind := .gload } a s
/-- GSTORE. -/
def execGstore (a : ArrayArgs) (s : State) : Out := matCmd 0x0E { kind := .gstore } a s
/-- GCLR. -/
def execGclr (a : ArrayArgs) (s : State) : Out := matCmd 0x0F { kind := .gclr } a s
/-- ASCORE (R103): computes as MMUL.TY. -/
def execAscore (a : ArrayArgs) (s : State) : Out := matCmd 0x20 { kind := .ascore, ty := true } a s
/-- AROWS (R104). -/
def execArows (a : ArrayArgs) (s : State) : Out := matCmd 0x21 { kind := .arows } a s
/-- AGSCALE (R104). -/
def execAgscale (a : ArrayArgs) (s : State) : Out := matCmd 0x22 { kind := .agscale } a s

end Sys2Proof.Machine
end

