-- ==== Sys2Proof/Machine/Geometry.lean ====
section
/-! DEFINITION. Geometry records (R161 to R164), the layout of activations and kernels (R158 to R160), windows of fused
tiles (R175, R176), and the input that a tap reads (R163). -/

namespace Sys2Proof.Machine

/-- One dimension of a geometry: input extent, kernel, stride, dilation, zero-insertion factor, pads. -/
structure Dim where
  i  : Nat
  k  : Nat
  s  : Nat
  d  : Nat
  u  : Nat
  p0 : Int
  p1 : Int
  deriving DecidableEq, Repr

/-- A geometry record (R161). -/
structure Geo where
  index  : Nat
  top0   : Nat
  t      : Dim
  h      : Dim
  w      : Dim
  pmode  : Nat
  groups : Nat
  m      : Nat
  n      : Nat
  incpad : Bool
  region : Bool
  low    : Nat
  pr     : Nat
  pk     : Nat
  cr     : Nat
  ck     : Nat
  rh     : Nat
  rw     : Nat
  rt     : Nat
  t0     : Nat
  qb     : Nat
  cb     : Nat
  deriving DecidableEq, Repr

/-- The fields of an entry read as a geometry record. -/
def geoOf (index : Nat) (v : Wide) : Geo :=
  let pad (lo : Nat) : Int := sext 8 (fldN v lo 8)
  { index := index, top0 := fldN v 48 16
    t := ⟨fldN v 32 16, fldN v 124 4, fldN v 112 4, fldN v 100 4, fldN v 88 4, pad 184, pad 176⟩
    h := ⟨fldN v 16 16, fldN v 120 4, fldN v 108 4, fldN v 96 4, fldN v 84 4, pad 168, pad 160⟩
    w := ⟨fldN v 0 16, fldN v 116 4, fldN v 104 4, fldN v 92 4, fldN v 80 4, pad 152, pad 144⟩
    pmode := fldN v 78 2, groups := fldN v 64 14, m := fldN v 138 6, n := fldN v 132 6, incpad := bitAt v 131
    region := bitAt v 130, low := fldN v 128 2, pr := fldN v 240 16, pk := fldN v 224 16, cr := fldN v 208 16
    ck := fldN v 192 16, rh := fldN v 248 8, rw := fldN v 240 8, rt := fldN v 232 8, t0 := fldN v 216 16
    qb := fldN v 204 12, cb := fldN v 192 12 }

/-- The geometry record with index `i`. -/
def State.geo (s : State) (i : Nat) : Geo := geoOf i (s.descWide i)

/-- The three dimensions. -/
def Geo.dims (g : Geo) : List Dim := [g.t, g.h, g.w]

/-- The fields that R162 forbids to be zero, and word 0 [63:48], which must be. -/
def Geo.zeroBad (g : Geo) : Bool :=
  g.top0 != 0 || g.groups == 0 || g.dims.any (fun d => d.k == 0 || d.s == 0 || d.d == 0 || d.u == 0)

/-- Reserved values of the record; a KT above 9 is one (R161, R180; log entry 130). -/
def Geo.reservedBad (g : Geo) : Bool := g.pmode == 3 || g.low != 0 || decide (9 < g.t.k)

/-- An input extent is zero: the word is zero work (R162). -/
def Geo.emptyIn (g : Geo) : Bool := g.dims.any (fun d => d.i == 0)

/-- D × (K − 1). -/
def Dim.reach (d : Dim) : Nat := d.d * (d.k - 1)

/-- The output extent of R162, before it is known to be positive. -/
def Dim.outI (d : Dim) : Int := (((d.i : Int) - 1) * d.u + 1 + d.p0 + d.p1 - d.reach - 1) / d.s + 1

/-- The output extent. -/
def Dim.out (d : Dim) : Nat := if d.i = 0 then 0 else d.outI.toNat

/-- The dimension gives no output (R162). -/
def Dim.noOut (d : Dim) : Bool := decide (((d.i : Int) - 1) * d.u + 1 + d.p0 + d.p1 < d.reach + 1)

/-- The limits of R164 on one dimension. -/
def Dim.limitBad (pmode : Nat) (d : Dim) : Bool :=
  d.noOut || decide (112 < d.reach) || (pmode != 0 && d.u != 1)
    || (pmode == 2 && (decide (2 * (d.i - 1) < d.reach) || decide ((d.i : Int) - 1 < d.p0) || decide ((d.i : Int) - 1 < d.p1)))

/-- The geometry breaks R162 or R164. -/
def Geo.limitBad (g : Geo) : Bool := g.dims.any (Dim.limitBad g.pmode)

/-- Taps of the kernel. -/
def Geo.taps (g : Geo) : Nat := g.t.k * g.h.k * g.w.k

/-! ## Positions -/

/-- A position (t, h, w). -/
structure P3 where
  t : Int
  h : Int
  w : Int
  deriving DecidableEq, Repr

/-- Extents (T, H, W). -/
structure Ext where
  t : Nat
  h : Nat
  w : Nat
  deriving DecidableEq, Repr

/-- The number of positions. -/
def Ext.count (e : Ext) : Nat := e.t * e.h * e.w

/-- The number of position tiles. -/
def Ext.tiles (e : Ext) : Nat := (e.count + 31) / 32

/-- Row `y` of the last position tile lies beyond the positions: every word writes +0 there (R158). -/
def Ext.padRow (e : Ext) (y : Nat) : Bool := decide (0 < e.tiles) && decide (e.count ≤ 32 * (e.tiles - 1) + y)

/-- The position with index `q` (R158). -/
def Ext.pos (e : Ext) (q : Nat) : P3 := ⟨(q / (e.h * e.w) : Nat), (q / e.w % e.h : Nat), (q % e.w : Nat)⟩

/-- The position lies within the extents. -/
def Ext.has (e : Ext) (p : P3) : Bool :=
  decide (0 ≤ p.t) && decide (p.t < e.t) && decide (0 ≤ p.h) && decide (p.h < e.h) && decide (0 ≤ p.w) && decide (p.w < e.w)

/-- The index of a position (R158). -/
def Ext.index (e : Ext) (p : P3) : Nat := ((p.t * e.h + p.h) * e.w + p.w).toNat

/-- The input frame. -/
def Geo.inExt (g : Geo) : Ext := ⟨g.t.i, g.h.i, g.w.i⟩

/-- The output frame of CONV, VDW and POOL (R162). -/
def Geo.outExt (g : Geo) : Ext := ⟨g.t.out, g.h.out, g.w.out⟩

/-- The output frame of RESAMPLE. -/
def Geo.upExt (g : Geo) : Ext := ⟨g.t.i * g.t.u, g.h.i * g.h.u, g.w.i * g.w.u⟩

/-- The extents of a region tensor of halo `h` (R175). -/
def Geo.regExt (g : Geo) (h : Nat) : Ext := ⟨g.rt + 2 * h, g.rh + 2 * h, g.rw + 2 * h⟩

/-- The absolute origin of a core's region of halo `h`. -/
def Geo.regOrigin (g : Geo) (c : CoreAt) (h : Nat) : P3 :=
  ⟨(g.t0 : Int) - h, ((c.r * g.rh : Nat) : Int) - h, ((c.k * g.rw : Nat) : Int) - h⟩

/-- The halo of a descriptor in an activation role; frames have none (R159). -/
def Desc.halo0 (d : Desc) : Nat := d.halo - 1

/-- The extents of an activation operand: its frame, or its region. -/
def Geo.actExt (g : Geo) (d : Desc) (frame : Ext) : Ext := if d.halo = 0 then frame else g.regExt d.halo0

/-- The index of an absolute position in an activation operand of a core, if the operand holds it. -/
def Geo.locate (g : Geo) (d : Desc) (frame : Ext) (c : CoreAt) (p : P3) : Option Nat :=
  if d.halo = 0 then (if frame.has p then some (frame.index p) else none)
  else
    let o := g.regOrigin c d.halo0
    let q : P3 := ⟨p.t - o.t, p.h - o.h, p.w - o.w⟩
    if (g.regExt d.halo0).has q then some ((g.regExt d.halo0).index q) else none

/-- The absolute position with index `q` of a set: a frame, a core's region, or (a frame under REGION) its window. -/
def Geo.setPos (g : Geo) (d : Desc) (frame : Ext) (c : CoreAt) (q : Nat) : Option P3 :=
  if g.region then
    let e := g.regExt d.halo0
    let o := g.regOrigin c d.halo0
    if q < e.count then let p := e.pos q; some ⟨p.t + o.t, p.h + o.h, p.w + o.w⟩ else none
  else if q < frame.count then some (frame.pos q) else none

/-- The positions of the set that are computed: those inside the frame (R158, R175). -/
def Geo.computed (g : Geo) (d : Desc) (frame : Ext) (c : CoreAt) (q : Nat) : Option P3 :=
  (g.setPos d frame c q).filter frame.has

/-- The number of position tiles of the set. -/
def Geo.setTiles (g : Geo) (d : Desc) (frame : Ext) : Nat :=
  if g.region then (g.regExt d.halo0).tiles else frame.tiles

/-- The core's window lies wholly outside the output frame (R175). -/
def Geo.outsideFrame (g : Geo) (frame : Ext) (c : CoreAt) : Bool :=
  g.region && (decide (frame.t ≤ g.t0) || decide (frame.h ≤ c.r * g.rh) || decide (frame.w ≤ c.k * g.rw))

/-- The first position tile of a core (R167, R175). -/
def Geo.firstTile (g : Geo) (c : CoreAt) : Nat := if g.region then g.qb else c.r * g.pr + c.k * g.pk

/-- The first channel tile of a core. -/
def Geo.firstChan (g : Geo) (c : CoreAt) : Nat := if g.region then g.cb else c.r * g.cr + c.k * g.ck

/-! ## Taps (R163) -/

/-- The input coordinate that tap `kk` reads for output coordinate `o`, and whether it is padding; none where nothing is
read (zero-mode padding, inserted positions). -/
def Dim.tap (pmode : Nat) (d : Dim) (o : Int) (kk : Nat) : Option Int :=
  let a := o * d.s - d.p0 + kk * d.d
  let last : Int := ((d.i : Int) - 1)
  if a < 0 ∨ last * d.u < a then
    match pmode with
    | 0 => none
    | 1 => some (if a < 0 then 0 else last)
    | _ => some (if a < 0 then -a else 2 * last - a)
  else if a % d.u ≠ 0 then none
  else some (a / d.u)

/-- The input position that a tap reads (R163). -/
def Geo.tap (g : Geo) (p : P3) (tap : Nat) : Option P3 :=
  match g.t.tap g.pmode p.t (tap / (g.h.k * g.w.k)), g.h.tap g.pmode p.h (tap / g.w.k % g.h.k),
        g.w.tap g.pmode p.w (tap % g.w.k) with
  | some a, some b, some c => some ⟨a, b, c⟩
  | _, _, _ => none

/-! ## Roles -/

/-- GEN of an activation descriptor. -/
def Desc.gen (d : Desc) : Nat := d.cvf % 8

/-- An activation role (R158, R159): the layout, CVF and HALO rules hold. -/
def Desc.actBad (d : Desc) : Bool :=
  d.layout != 2 || d.cvf / 8 != 0 || (if d.halo = 0 then d.gen != 0 else d.gen == 0)

/-- A kernel in the Y role (R160). -/
def Desc.kernelBad (groups : Nat) (d : Desc) : Bool :=
  d.layout != 2 || d.halo != 0 || d.cvf % 2 != 0 || (d.cvf / 2 % 2 == 1 && groups != 1)

/-- A kernel in the Z role (R160). -/
def Desc.kernelZBad (d : Desc) : Bool := d.layout != 2 || d.halo != 0 || d.cvf != 0

/-- SWAP. -/
def Desc.swap (d : Desc) : Bool := d.cvf / 2 % 2 == 1

/-- The stored tap that a tap is read from, under FLIPT, FLIPH, FLIPW. -/
def Geo.flip (g : Geo) (d : Desc) (tap : Nat) : Nat :=
  let kt := tap / (g.h.k * g.w.k)
  let kh := tap / g.w.k % g.h.k
  let kw := tap % g.w.k
  let f (b : Nat) (k n : Nat) : Nat := if d.cvf / 2 ^ b % 2 = 1 then n - 1 - k else k
  (f 4 kt g.t.k * g.h.k + f 3 kh g.h.k) * g.w.k + f 2 kw g.w.k

/-- The offsets of a frame operand must be 0 unless BCAST is set (R168). -/
def Desc.frameBad (d : Desc) : Bool := d.halo == 0 && !d.bcast && (d.orow != 0 || d.ocol != 0)

/-- A bias vector holds `co` channels (R168). -/
def Desc.biasBad (co : Nat) (d : Desc) : Bool :=
  d.layout != 3 || d.tr != 1 || d.tp != 1 || decide (d.tc * 1024 < co)

/-- The TF of a bias (R168). -/
def Desc.biasFmOk (d : Desc) : Bool := [Fm.fp32, .bf16, .fp16].contains d.fm

/-- The halo that a region X of halo `hx` must have in one dimension (R176). -/
def haloBad (hx hz : Nat) (d : Dim) : Bool :=
  decide ((hx : Int) < hz + (if d.p0 < 0 then 0 else d.p0))
    || decide ((hx : Int) < hz + (let v : Int := (d.reach : Int) - d.p0; if v < 0 then 0 else v))

/-- The rules of R175 to R177 on a word with input `x` and activation output `z` (none for a kernel gradient). -/
def Geo.regionBad (g : Geo) (x : Desc) (z : Option Desc) (acts : List Desc) : Bool :=
  if g.region then
    g.dims.any (fun d => d.s != 1 || d.u != 1) || g.rh == 0 || g.rw == 0 || g.rt == 0
      || (x.halo != 0 && g.dims.any (haloBad x.halo0 (match z with | some z => z.halo0 | none => 0)))
      || (match z with
          | some z => if z.halo = 0 then z.mx || z.foil != 0 else z.gen != x.gen + 1
          | none => false)
  else acts.any (fun d => d.halo != 0)

/-! ## Gathering -/

/-- The input slot and row that row `y` of set tile `qt` reads at a tap; none where it reads nothing. -/
def Geo.rowSource (g : Geo) (x out : Desc) (frame : Ext) (c : CoreAt) (ch p qt tap y : Nat) : Option (Int × Nat) :=
  match g.computed out frame c (32 * qt + y) with
  | none => none
  | some pos =>
    match g.tap pos tap with
    | none => none
    | some i =>
      match g.locate x g.inExt c i with
      | some q => some (x.slotAt c (q / 32) ch p, q % 32)
      | none => none

/-- The sources of the 32 rows of a set tile at a tap. -/
def Geo.rowSources (g : Geo) (x out : Desc) (frame : Ext) (c : CoreAt) (ch p qt tap : Nat) : List (Option (Int × Nat)) :=
  (List.range 32).map (g.rowSource x out frame c ch p qt tap)

/-- Element `n` of Z slot `u` lies beyond the positions of a frame whose last position tile has the slot `last`
(R158). -/
def padElem (frame : Ext) (last u : Int) (n : Nat) : Bool := u == last && frame.padRow (n / 32)

/-- The distinct slots of row sources. -/
def sourceSlots (l : List (Option (Int × Nat))) : List Int := ((l.filterMap id).map (·.1)).eraseDups

/-- Read several slots of a descriptor. -/
def State.readTiles (src core : Nat) (d : Desc) : List Int → State → List (Int × List Num) × State
  | [], s => ([], s)
  | u :: l, s =>
    let r := s.readTile src core d u
    let t := State.readTiles src core d l r.2
    ((u, r.1) :: t.1, t.2)

/-- The tile that was read at `u`. -/
def tileAt (l : List (Int × List Num)) (u : Int) : List Num :=
  match l.find? (fun p => p.1 == u) with
  | some p => p.2
  | none => []

/-- The values of the rows of sources; none for a row that reads nothing. -/
def rowValues (tiles : List (Int × List Num)) (l : List (Option (Int × Nat))) : List (Option (List Num)) :=
  l.map (fun o => o.map (fun p => ((tileAt tiles p.1).drop (32 * p.2)).take 32))

end Sys2Proof.Machine
end

