-- ==== Sys2Proof/Machine/Conv.lean ====
section
/-! DEFINITION. The convolution words of the matrix units (R165 to R171, R175 to R178): CONV, CONVA, CONVWG, CONVWGA. -/

namespace Sys2Proof.Machine

/-- A convolution word of the matrix units: a weight gradient or not, adding to the tiles or clearing them first. -/
structure ConvJob where
  wg   : Bool
  add  : Bool
  x    : Desc
  y    : Desc
  z    : Desc
  bias : Option Desc
  g    : Geo
  gb   : Nat
  wout : Bool
  clr  : Bool
  sect : Sect
  f32  : Bool

/-- The fields of a word (R166). -/
def convJob (wg add : Bool) (a : ArrayArgs) (s : State) : ConvJob :=
  let b := fldN a.b 16 16
  { wg := wg, add := add, x := s.desc (fldN a.a 0 16), y := s.desc (fldN a.b 0 16), z := s.desc (fldN a.c 0 16)
    bias := if wg || b == 0xFFFF then none else some (s.desc b), g := s.geo (fldN a.c 16 16), gb := fldN a.a 16 5
    wout := bitAt a.flg 4, clr := bitAt a.flg 5, sect := sectOf a.sec, f32 := s.fmt.fp32acc }

/-- Ci. -/
def ConvJob.ci (j : ConvJob) : Nat := 32 * j.x.tc
/-- Co. -/
def ConvJob.co (j : ConvJob) : Nat := 32 * j.z.tc
/-- Input channel tiles of a group. -/
def ConvJob.cgT (j : ConvJob) : Nat := j.ci / j.g.groups / 32
/-- Planes of the operands. -/
def ConvJob.planes (j : ConvJob) : Nat := j.x.tp
/-- Planes of result tiles: a weight gradient sums over planes (log entry 37). -/
def ConvJob.p (j : ConvJob) : Nat := if j.wg then 1 else j.planes
/-- The activation operand that the summed or written positions belong to: Z, or Y of a weight gradient. -/
def ConvJob.out (j : ConvJob) : Desc := if j.wg then j.y else j.z

/-- Check 2. -/
def convFieldsBad (wg : Bool) (a : ArrayArgs) : Bool :=
  !flgOk a.flg 0x30 || fldN a.a 21 11 != 0 || (bitAt a.flg 5 && !bitAt a.flg 4) || (wg && fldN a.b 16 16 != 0xFFFF)

/-- The tile descriptors of a word. -/
def ConvJob.used (j : ConvJob) : List Desc := [j.x, j.y, j.z] ++ j.bias.toList

/-- Check 5: layouts and roles (R158 to R160). -/
def ConvJob.roleBad (j : ConvJob) : Option Nat :=
  if j.x.actBad then some j.x.index
  else if (if j.wg then j.y.actBad else j.y.kernelBad j.g.groups) then some j.y.index
  else if (if j.wg then j.z.kernelZBad else j.z.actBad) then some j.z.index
  else if j.g.reservedBad then some j.g.index
  else none

/-- Check 6 (R168). -/
def ConvJob.formatBad (j : ConvJob) : Option Nat :=
  let bad (d : Desc) : Bool := d.fm == .a128 || d.fm == .e8m0
  if bad j.x then some j.x.index
  else if bad j.y || j.x.fm.isInt != j.y.fm.isInt then some j.y.index
  else if j.bias.any (fun d => !d.biasFmOk) then j.bias.map (·.index)
  else if (j.f32 && j.z.fm == .a128) || (j.wout && (j.z.fm == .e8m0 || j.z.fm.isCb)) then some j.z.index
  else if j.add && j.z.amode != 3 then some j.z.index
  else none

/-- TR of the kernel: taps × Cg / 32, or, swapped, taps × Co / 32 (R160, R168). -/
def ConvJob.kernelRows (j : ConvJob) : Nat := j.g.taps * (j.ci / j.g.groups) / 32

/-- An activation has the position tiles of its extents; none if an input extent is zero (R158, R162). -/
def ConvJob.actTr (j : ConvJob) (d : Desc) (frame : Ext) : Nat := if j.g.emptyIn then 0 else (j.g.actExt d frame).tiles

/-- Check 7 (R158, R162, R168). -/
def ConvJob.extentBad (j : ConvJob) : Option Nat :=
  let act (d : Desc) (frame : Ext) : Bool := d.tr != j.actTr d frame || d.frameBad
  let kern (d : Desc) : Bool :=
    d.tp != 1 || (if d.swap && !j.wg then d.tr != j.g.taps * j.z.tc || d.tc != j.x.tc
      else d.tr != (if j.wg && j.g.emptyIn then 0 else j.kernelRows) || d.tc != j.z.tc)
  if act j.x j.g.inExt then some j.x.index
  else if (if j.wg then act j.y j.g.outExt || j.y.tp != j.x.tp || j.y.tc != j.z.tc else kern j.y) then some j.y.index
  else if (if j.wg then kern j.z else act j.z j.g.outExt || j.z.tp != j.x.tp) then some j.z.index
  else if j.bias.any (Desc.biasBad j.co) then j.bias.map (·.index)
  else none

/-- Check 10: whole 32-channel groups (R171). -/
def ConvJob.handoffBad (j : ConvJob) : Bool :=
  j.ci % (32 * j.g.groups) != 0 || j.co % (32 * j.g.groups) != 0

/-- The index of the first descriptor or geometry at or beyond COUNT; 0xFFFF names none, and the word needs one (R137,
R166). -/
def bigIndex (count : Nat) (l : List Nat) : Option Nat := l.find? (fun i => decide (count ≤ i) || i == 0xFFFF)

/-- The zero extents of a word that passed checks 1 to 8 (R162, R178). -/
def ConvJob.zeroWork (j : ConvJob) : Bool :=
  j.g.emptyIn || j.g.m == 0 || j.g.n == 0 || j.x.tp == 0 || j.z.tq == 0 || j.x.tc == 0 || j.z.tc == 0

/-- Checks 9 to 11 are not reached by a word with an empty input frame (R162). -/
def ConvJob.lateChecks (j : ConvJob) : List (Bool × Flaw) :=
  [(j.g.limitBad, flawDesc 0x16 1 j.g.index),
   (j.handoffBad, flawDesc 0x17 1 j.g.index),
   (j.g.regionBad j.x (if j.wg then none else some j.z) [j.x, j.out], flawDesc 0x18 1 j.g.index)]

/-- The checks of a word in order (R178). -/
def convChecks (wg add : Bool) (a : ArrayArgs) (s : State) : Option Flaw :=
  let j := convJob wg add a s
  let big := bigIndex s.descCount (j.used.map (·.index) ++ [j.g.index])
  let zero := j.used.find? (fun d => d.zeroBad (d.index == j.z.index))
  let res := j.used.find? (Desc.reservedBad s.fmt.loaded)
  let at_ (o : Option Desc) : Nat := match o with | some d => d.index | none => 0
  firstFlaw
    ([(a.sec == 3, ⟨0x03, 0, 0x3FF, 0, none⟩),
      (convFieldsBad wg a, ⟨0x02, 0, 0x3FF, 0, none⟩),
      (big.isSome, flawDesc 0x10 1 (big.getD 0)),
      (zero.isSome, flawDesc 0x11 1 (at_ zero)),
      (j.g.zeroBad, flawDesc 0x11 1 j.g.index),
      (res.isSome, flawDesc 0x12 1 (at_ res)),
      (j.roleBad.isSome, flawDesc 0x12 1 (j.roleBad.getD 0)),
      (j.formatBad.isSome, flawDesc 0x15 1 (j.formatBad.getD 0)),
      (j.extentBad.isSome, flawDesc 0x13 1 (j.extentBad.getD 0)),
      (decide (32 < j.gb + j.g.m * j.g.n * j.planes), flawDesc 0x14 1 j.z.index)]
      ++ if j.g.emptyIn then [] else j.lateChecks)

/-! ## Tiles and K-tiles -/

/-- A core computes a result tile: it lies within Z (R167, R169) and, under REGION, within the core's set (R175). -/
def ConvJob.active (j : ConvJob) (t : ResTile) (c : CoreAt) : Bool :=
  let q := j.g.firstTile c + t.i
  let ch := j.g.firstChan c + t.j
  decide (ch < j.z.tc) && (if j.wg then decide (q < j.z.tr) else decide (q < j.g.setTiles j.z j.g.outExt))

/-- The first input channel tile of the group that an output channel tile belongs to. -/
def ConvJob.group0 (j : ConvJob) (ch : Nat) : Nat := 32 * ch / (j.co / j.g.groups) * j.cgT

/-- The number of K-tiles of a result tile. -/
def ConvJob.kTiles (j : ConvJob) : Nat :=
  if j.wg then j.planes * j.g.setTiles j.y j.g.outExt else j.g.taps * j.cgT

/-- The row sources of K-tile `k` in X. -/
def ConvJob.xSources (j : ConvJob) (t : ResTile) (k : Nat) (c : CoreAt) : List (Option (Int × Nat)) :=
  let q := j.g.firstTile c + t.i
  let ch := j.g.firstChan c + t.j
  let xp (p : Nat) : Nat := if j.x.tp = 1 then 0 else p
  if j.wg then
    let n := j.g.setTiles j.y j.g.outExt
    j.g.rowSources j.x j.y j.g.outExt c (j.group0 ch + q % j.cgT) (xp (k / n)) (k % n) (q / j.cgT)
  else j.g.rowSources j.x j.z j.g.outExt c (j.group0 ch + k % j.cgT) (xp t.p) q (k / j.cgT)

/-- The row sources of K-tile `k` in the output gradient of a weight gradient; a row is summed only inside the frame
and, under REGION, the core's window (R169). -/
def ConvJob.dySources (j : ConvJob) (t : ResTile) (k : Nat) (c : CoreAt) : List (Option (Int × Nat)) :=
  let n := j.g.setTiles j.y j.g.outExt
  (List.range 32).map (fun y =>
    match j.g.computed j.y j.g.outExt c (32 * (k % n) + y) with
    | none => none
    | some pos =>
      if j.g.region && !((j.g.regExt 0).has ⟨pos.t - (j.g.regOrigin c 0).t, pos.h - (j.g.regOrigin c 0).h,
          pos.w - (j.g.regOrigin c 0).w⟩) then none
      else (j.g.locate j.y j.g.outExt c pos).map (fun q =>
        (j.y.slotAt c (q / 32) (j.g.firstChan c + t.j) (if j.y.tp = 1 then 0 else k / n), q % 32)))

/-- The kernel slot of K-tile `k` (R160). -/
def ConvJob.kernelSlot (j : ConvJob) (t : ResTile) (k : Nat) (c : CoreAt) : Int :=
  let ch := j.g.firstChan c + t.j
  let tap := j.g.flip j.y (k / j.cgT)
  if j.y.swap then j.y.slotAt c (tap * j.z.tc + ch) (j.group0 ch + k % j.cgT) 0
  else j.y.slotAt c (tap * j.cgT + k % j.cgT) ch 0

/-- The slots of K-tile `k`. -/
def ConvJob.kNeeds (j : ConvJob) (t : ResTile) (k : Nat) (c : CoreAt) : List Need :=
  (sourceSlots (j.xSources t k c)).map (rNeed j.x)
    ++ (if j.wg then (sourceSlots (j.dySources t k c)).map (rNeed j.y) else [rNeed j.y (j.kernelSlot t k c)])

/-- The products of an output row whose input row may be absent: no product, so an exact zero (R163). -/
def rowProducts (x : Option (List Num)) (w : List Num) (col : Nat) : List Num :=
  match x with
  | none => List.replicate 32 Num.zero
  | some l => (List.range 32).map (fun k => (l.getD k Num.zero).mul (w.getD (32 * k + col) Num.zero))

/-- The products of a weight-gradient element: over the positions that both operands have. -/
def wgProducts (xs ys : List (Option (List Num))) (row col : Nat) : List Num :=
  (xs.zip ys).map (fun p =>
    match p.1, p.2 with
    | some a, some b => (a.getD row Num.zero).mul (b.getD col Num.zero)
    | _, _ => Num.zero)

/-- The products of K-tile `k`, per element of the result tile, and the state after its reads. -/
def ConvJob.products (j : ConvJob) (t : ResTile) (k : Nat) (c : CoreAt) (s : State) : List (List Num) × State :=
  let xs := j.xSources t k c
  let rx := State.readTiles 0 c.c j.x (sourceSlots xs) s
  let xv := rowValues rx.1 xs
  if j.wg then
    let ys := j.dySources t k c
    let ry := State.readTiles 0 c.c j.y (sourceSlots ys) rx.2
    let yv := rowValues ry.1 ys
    ((List.range 1024).map (fun n => wgProducts xv yv (n / 32) (n % 32)), ry.2)
  else
    let rw := rx.2.readTile 0 c.c j.y (j.kernelSlot t k c)
    let w := if j.y.swap then transposeL Num.zero rw.1 else rw.1
    ((List.range 1024).map (fun n => rowProducts (xv.getD (n / 32) none) w (n % 32)), rw.2)

/-! ## Steps -/

/-- The anchor of a tile that is cleared first (R100, R119). -/
def ConvJob.anchor (j : ConvJob) (t : ResTile) (c : CoreAt) (s : State) : Int :=
  match j.z.amode with
  | 1 => j.z.ae
  | 2 => autoAnchor j.z.ae ((List.range j.kTiles).foldl
      (fun a k => maxLog a (maxExp (j.products t k c s).1.flatten)) none)
  | _ => (s.acc c.c t.t).ae

/-- The slot of the bias that a tile reads. -/
def ConvJob.biasSlot (j : ConvJob) (t : ResTile) (c : CoreAt) (d : Desc) : Int :=
  d.vecSlot c (32 * (j.g.firstChan c + t.j))

/-- Rows of a tile that are computed. -/
def ConvJob.liveRow (j : ConvJob) (t : ResTile) (c : CoreAt) (y : Nat) : Bool :=
  j.wg || (j.g.computed j.z j.g.outExt c (32 * (j.g.firstTile c + t.i) + y)).isSome

/-- The bias as one more term of every element (R167). -/
def ConvJob.addBias (j : ConvJob) (t : ResTile) (c : CoreAt) (s : State) : State :=
  match j.bias with
  | none => s
  | some d =>
    let r := s.readTile 0 c.c d (j.biasSlot t c d)
    let base := 32 * (j.g.firstChan c + t.j) % 1024
    let ps := (List.range 1024).map (fun n =>
      [if j.liveRow t c (n / 32) then r.1.getD (base + n % 32) Num.zero else Num.zero])
    let a := r.2.acc c.c t.t
    r.2.putAcc c.c t.t ({ a with f32 := j.f32 }.addProducts 1 ps)

/-- What precedes the first K-tile of a tile. -/
def ConvJob.begin (j : ConvJob) (t : ResTile) (c : CoreAt) (s : State) : State :=
  let s := if j.add then s else s.putAcc c.c t.t (Acc.cleared j.f32 (j.anchor t c s))
  j.addBias t c s

/-- What the first step of a tile needs beside its operands. -/
def ConvJob.beginNeeds (j : ConvJob) (t : ResTile) (c : CoreAt) : List Need :=
  (j.bias.toList.map (fun d => rNeed d (j.biasSlot t c d)))
    ++ (if !j.add && j.z.amode == 2 then (List.range j.kTiles).flatMap (fun k => j.kNeeds t k c) else [])

/-- One tile product on a core that computes the tile. -/
def ConvJob.product (j : ConvJob) (t : ResTile) (k : Nat) (c : CoreAt) (s : State) : State :=
  if j.active t c then
    let s := if k = 0 then j.begin t c s else s
    let r := j.products t k c s
    let a := r.2.acc c.c t.t
    (r.2.putAcc c.c t.t ({ a with f32 := j.f32 }.addProducts 32 r.1)).countProducts 1
  else s

/-- The product steps of a tile. -/
def ConvJob.steps (j : ConvJob) (t : ResTile) : List (WStep State) :=
  (List.range j.kTiles).map (fun k =>
    { tile := t.t
      needs := fun c => if j.active t c then (if k = 0 then j.beginNeeds t c else []) ++ j.kNeeds t k c else []
      act := j.product t k })

/-! ## Write-out -/

/-- A tile whose rows that are not computed read as zero (R158). -/
def ConvJob.trimmed (j : ConvJob) (t : ResTile) (c : CoreAt) (vals : List Num) : List Num :=
  vals.zipIdx.map (fun p => if j.liveRow t c (p.2 / 32) then p.1 else Num.zero)

/-- The same of the integers of an A128 tile. -/
def ConvJob.trimAcc (j : ConvJob) (t : ResTile) (c : CoreAt) (a : Acc) : Acc :=
  { a with vals := a.vals.zipIdx.map (fun p => if j.liveRow t c (p.2 / 32) then p.1 else 0) }

/-- Z is written element by element: a frame under REGION (R177). -/
def ConvJob.byElement (j : ConvJob) : Bool := !j.wg && j.g.region && j.z.halo == 0

/-- The slot and row of Z that row `y` of a tile goes to. -/
def ConvJob.rowDest (j : ConvJob) (t : ResTile) (c : CoreAt) (y : Nat) : Option (Int × Nat) :=
  match j.g.computed j.z j.g.outExt c (32 * (j.g.firstTile c + t.i) + y) with
  | some pos =>
    let q := j.g.outExt.index pos
    some (j.z.slotAt c (q / 32) (j.g.firstChan c + t.j) (if j.z.tp = 1 then 0 else t.p), q % 32)
  | none => none

/-- The Z slots that a tile writes on a core. -/
def ConvJob.zSlots (j : ConvJob) (t : ResTile) (c : CoreAt) : List Int :=
  if j.byElement then sourceSlots ((List.range 32).map (j.rowDest t c))
  else [j.z.slotAt c (j.g.firstTile c + t.i) (j.g.firstChan c + t.j) (if j.z.tp = 1 then 0 else t.p)]

/-- The element of Z slot `u` that comes from each element of the tile: for element `n` of the slot, the tile element.
-/
def ConvJob.elemSource (j : ConvJob) (t : ResTile) (c : CoreAt) (u : Int) (n : Nat) : Option Nat :=
  ((List.range 32).find? (fun y => j.rowDest t c y == some (u, n / 32))).map (fun y => 32 * y + n % 32)

/-- Element `n` of Z slot `u` lies beyond the positions of the frame. -/
def ConvJob.padAt (j : ConvJob) (t : ResTile) (c : CoreAt) (u : Int) (n : Nat) : Bool :=
  let e := j.g.outExt
  padElem e (j.z.slotAt c (e.tiles - 1) (j.g.firstChan c + t.j) (if j.z.tp = 1 then 0 else t.p)) u n

/-- Write the rows of a tile that fall into Z slot `u` (R177, R158). -/
def ConvJob.mergeSlot (j : ConvJob) (e : QEnt) (t : ResTile) (c : CoreAt) (a : Acc) (u : Int) (s : State) : State :=
  let old := s.slotBytes u.toNat j.z.size
  let src : List (Option Nat × Bool) := (List.range 1024).map (fun n => (j.elemSource t c u n, j.padAt t c u n))
  let mine := src.map (fun q => q.1.isSome || q.2)
  if j.z.fm = .a128 then
    let vals := (src.zip (accOfSlot old).vals).map (fun q =>
      match q.1.1 with | some k => a.vals.getD k 0 | none => if q.1.2 then 0 else q.2)
    s.writeSome .ary e.seq c.c u ({ a with vals := vals }).slot (mineBytes 128 mine ++ List.replicate 64 true)
  else
    let av := a.values
    let vals := src.map (fun q => match q.1 with
      | some k => some (av.getD k Num.zero)
      | none => if q.2 then some Num.zero else none)
    let p := mergeElems j.z (s.draw j.z e.step u.toNat 0) old vals
    (s.noteConv false (countConvs p.2)).writeSome .ary e.seq c.c u p.1 (mineBytes j.z.fm.width mine)

/-- Write one Z slot of a tile. -/
def ConvJob.writeZ (j : ConvJob) (e : QEnt) (t : ResTile) (c : CoreAt) (s : State) (u : Int) : State :=
  let a := s.acc c.c t.t
  let s := s.destsOf e.seq (s.slotDests u j.z.size)
  if j.byElement then j.mergeSlot e t c a u s
  else if j.z.fm = .a128 then s.writeSlot .ary e.seq c.c u (j.trimAcc t c a).slot
  else s.writeTile .ary e c.c j.z u (j.trimmed t c a.values)

/-- The slot is one that the slag mask leaves unwritten. -/
def State.slagged (mask : State) (d : Desc) (u : Int) : Bool := mask.maskTest d u == some false

/-- Write a tile out, or count it once as slag, then clear it if CLR is set. -/
def ConvJob.writeOut (j : ConvJob) (e : QEnt) (mask : State) (t : ResTile) (c : CoreAt) (s : State) : State :=
  if j.active t c then
    let us := j.zSlots t c
    let s := (us.filter (fun u => !mask.slagged j.z u)).foldl (j.writeZ e t c) s
    let s := if us.any (mask.slagged j.z) then s.slagTiles 1 else s
    if j.clr then s.putAcc c.c t.t (Acc.cleared j.f32 (s.acc c.c t.t).ae) else s
  else s

/-- The write-out step of a tile. -/
def ConvJob.outStep (j : ConvJob) (e : QEnt) (mask : State) (t : ResTile) : WStep State :=
  { tile := t.t
    needs := fun c =>
      if j.active t c then (j.zSlots t c).flatMap (fun u => zNeed j.z u (mask.maskTest j.z u)) else []
    act := j.writeOut e mask t }

/-! ## The word -/

/-- The cores that take part: below the core limit, with a window in the frame. -/
def ConvJob.cores (j : ConvJob) (s : State) : List CoreAt :=
  (s.coresOf j.sect j.z.tq).filter (fun c => !j.g.outsideFrame j.g.outExt c)

/-- Count cores below the limit that do nothing (R175). -/
def State.idleWindows (s : State) (t : Sect) (limit : Nat) (cores : List CoreAt) : State :=
  { s with sheet := { s.sheet with
      slag := addLo s.sheet.slag ((s.coresOf t limit).length - cores.length) } }

/-- The tiles of a list that each core computes. -/
def ConvJob.flagTiles (j : ConvJob) (cores : List CoreAt) (ts : List ResTile) : List (Nat × Nat) :=
  cores.flatMap (fun c => (ts.filter (fun t => j.active t c)).map (fun t => (c.c, t.t)))

/-- Carry out a word that passed its checks. -/
def ConvJob.run (j : ConvJob) (e : QEnt) (s : State) : State :=
  let cores := j.cores s
  let tiles := resTiles j.gb j.g.m j.g.n j.p
  let s0 := s
  let s := if j.wout then
      s.noteMasks j.z (cores.map (fun c => (tiles.filter (fun t => j.active t c)).flatMap (fun t => j.zSlots t c)))
    else s
  let s := ((s.idleCores j.sect j.z.tq).idleWindows j.sect j.z.tq cores).destsOf e.seq
    ((j.flagTiles cores tiles).flatMap (fun p => accDests p.1 p.2))
  let one := runSteps id cores (tiles.flatMap j.steps) s
  match one.stop with
  | some q =>
    (one.st.stopFault .ary e.word (some q)).formSummary e.seq
      (one.st.tileFlags (j.flagTiles cores (tiles.filter (fun t => one.did.contains t.t))))
  | none =>
    let v := one.st.tileFlags (j.flagTiles cores tiles)
    if j.wout then
      let two := runSteps id cores (tiles.map (j.outStep e s0)) one.st
      (two.st.stopFault .ary e.word two.stop).formSummary e.seq v
    else one.st.formSummary e.seq v

/-- The effect of a word at issue. -/
def convEffect (wg add : Bool) (a : ArrayArgs) (e : QEnt) (s : State) : State :=
  match convChecks wg add a s with
  | some f => s.refuse .ary e f
  | none =>
    let j := convJob wg add a s
    if j.zeroWork then s.formSummary e.seq 0 else j.run e s

/-- CONV (R165, R167). -/
def execConv (a : ArrayArgs) (s : State) : Out := arrayCmd 0x40 a (convEffect false false a) (refuseReserved .ary) s
/-- CONVA. -/
def execConva (a : ArrayArgs) (s : State) : Out := arrayCmd 0x41 a (convEffect false true a) (refuseReserved .ary) s
/-- CONVWG (R169). -/
def execConvwg (a : ArrayArgs) (s : State) : Out := arrayCmd 0x42 a (convEffect true false a) (refuseReserved .ary) s
/-- CONVWGA. -/
def execConvwga (a : ArrayArgs) (s : State) : Out := arrayCmd 0x43 a (convEffect true true a) (refuseReserved .ary) s

end Sys2Proof.Machine
end

