-- ==== Sys2Proof/Machine/Lanes.lean ====
section
/-! DEFINITION. Element programs (R132 to R136, R139 to R142, R152): the validity of an operation, one lane running one
element, and what a lane loads and sends. -/

namespace Sys2Proof.Machine

/-! ## Operations (R134, R135) -/

/-- OP. -/
def opOp (w : BitVec 32) : Nat := fldN w 24 8
/-- D. -/
def opD (w : BitVec 32) : Nat := fldN w 20 4
/-- A. -/
def opA (w : BitVec 32) : Nat := fldN w 16 4
/-- B. -/
def opB (w : BitVec 32) : Nat := fldN w 12 4
/-- C. -/
def opC (w : BitVec 32) : Nat := fldN w 8 4
/-- PM. -/
def opPm (w : BitVec 32) : Nat := fldN w 6 2
/-- PS. -/
def opPs (w : BitVec 32) : Nat := fldN w 4 2
/-- X. -/
def opX (w : BitVec 32) : Nat := fldN w 0 4
/-- IMM. -/
def opImm (w : BitVec 32) : BitVec 16 := fld w 0 16

/-- END, with every other field zero. -/
def opEnd : BitVec 32 := 0xFF000000

/-- The register fields that an operation does not name are zero: D, A, B, C, X as given. -/
def unusedZero (w : BitVec 32) (d a b c x : Bool) : Bool :=
  (d || opD w == 0) && (a || opA w == 0) && (b || opB w == 0) && (c || opC w == 0) && (x || opX w == 0)

/-- A format R operation with its named fields and a condition on them. -/
def okR (w : BitVec 32) (d a b c x : Bool) (cond : Bool) : Bool := opPm w != 3 && unusedZero w d a b c x && cond

/-- The operation is valid (R135). -/
def opOk (w : BitVec 32) : Bool :=
  let x := opX w
  match opOp w with
  | 0x01 => okR w true false false false true (x % 4 != 3)
  | 0x02 => okR w false true false false true (decide (x < 2))
  | 0x03 | 0x04 | 0x05 => opA w == 0
  | 0x06 => okR w true false false false true (decide (x < 8))
  | 0x07 => okR w true true false false false true
  | 0x08 => okR w true true true false true (decide (x < 4))
  | 0x10 | 0x11 | 0x12 | 0x14 | 0x15 | 0x16 | 0x17 | 0x18 => okR w true true true false false true
  | 0x13 => okR w true true true true false true
  | 0x19 | 0x1A | 0x1B | 0x1C | 0x1D | 0x1E | 0x1F | 0x20 | 0x21 | 0x22 | 0x23 | 0x24 =>
    okR w true true false false false true
  | 0x25 => okR w true true false false true (decide (1 ≤ x) && decide (x ≤ 7))
  | 0x30 | 0x31 => okR w true true true false true (decide (x < 8) && decide (opD w < 4))
  | 0x32 => okR w true true false false true (decide (opD w < 4))
  | 0x33 => okR w true true true false true
      (decide (x < 7) && decide (opD w < 4) && decide (opA w < 4) && decide (opB w < 4))
  | 0x40 | 0x41 | 0x42 | 0x43 | 0x44 | 0x45 | 0x46 | 0x47 | 0x48 | 0x49 | 0x4A =>
    okR w true true true false false true
  | 0x4B | 0x4C => okR w true true false false false true
  | 0x50 => opA w == 0 && fldN w 11 5 == 0 && fldN w 0 8 != 0
  | 0x58 => okR w true true false false true (decide (x < 9) && opD w % 4 != 3 && opD w / 4 % 2 == 0)
  | _ => false

/-- The operations from index `i` to the first END, or the index of the first one that is not valid; at most 64
precede END. -/
def scanProg (prog : Nat → BitVec 32) : Nat → Nat → Except Nat (List (BitVec 32))
  | 0, i => .error i
  | n + 1, i =>
    let w := prog i
    if w = opEnd then .ok []
    else if opOk w then
      match scanProg prog n (i + 1) with
      | .ok l => .ok (w :: l)
      | .error j => .error j
    else .error i

/-- The program at `start` in the program store (R136). -/
def State.elemProg (s : State) (start : Nat) : Except Nat (List (BitVec 32)) :=
  if start < s.vec.loaded then scanProg (fun i => smGet 0 s.vec.prog i) 65 start else .error start

/-! ## A lane -/

/-- The sticky flags of the lanes (R142). -/
structure LaneFlags where
  nv  : Bool := false
  dz  : Bool := false
  of  : Bool := false
  uf  : Bool := false
  sat : Bool := false
  nf  : Bool := false
  deriving DecidableEq, Repr

/-- The flags ORed. -/
def LaneFlags.or (a b : LaneFlags) : LaneFlags :=
  ⟨a.nv || b.nv, a.dz || b.dz, a.of || b.of, a.uf || b.uf, a.sat || b.sat, a.nf || b.nf⟩

/-- NF, SAT, UF, OF, DZ, NV from bit 5 to bit 0. -/
def LaneFlags.word (f : LaneFlags) : Word :=
  putBit 0 f.nv ||| putBit 1 f.dz ||| putBit 2 f.of ||| putBit 3 f.uf ||| putBit 4 f.sat ||| putBit 5 f.nf

/-- The flags of conversions into a format: overflow to infinity, tininess, saturation (R142; log entry 34). -/
def Counts.flags (c : Counts) : LaneFlags :=
  { of := c.ovf, uf := c.tiny, sat := decide (0 < c.sat), nf := c.ovf }

/-- What an FP result raises. -/
def FpOut.flags (r : FpOut) : LaneFlags := ⟨r.nv, r.dz, r.of, r.uf, false, r.nf⟩

/-- A lane (R132): registers, predicates, what STO and RED have taken (by output and by channel), flags, the
conversions of FQNT. -/
structure Lane where
  e    : Vector (BitVec 32) 16
  p    : BitVec 4
  out0 : Option (BitVec 32)
  out1 : Option (BitVec 32)
  red0 : Option (BitVec 32)
  red1 : Option (BitVec 32)
  fl   : LaneFlags
  conv : Counts
  deriving DecidableEq, Repr

/-- A lane before an element. -/
def Lane.start : Lane := ⟨Vector.replicate 16 0, 15, none, none, none, none, {}, {}⟩

/-- A value as LDS delivers it, with the flags it raises. -/
structure LaneVal where
  bits : BitVec 32
  of   : Bool := false
  nf   : Bool := false
  deriving DecidableEq, Repr

/-- Where an element stands: its place and numbers, the coordinates of IDX, the key of its draws, and what each stream
gives it in each load mode. -/
structure LaneEnv where
  n      : Nat
  i      : Nat
  j      : Nat
  p      : Nat
  s      : Nat
  elem   : Nat
  seed   : Word
  step   : Word
  tensor : Nat
  load   : Nat → Nat → LaneVal

/-- Register `i`. -/
def Lane.get (l : Lane) (i : Nat) : BitVec 32 := l.e.toList.getD i 0

/-- The lane with register `i` written. -/
def Lane.put (l : Lane) (i : Nat) (v : BitVec 32) : Lane := { l with e := l.e.set! i v }

/-- The lane with register `i` written by an FP result. -/
def Lane.putFp (l : Lane) (i : Nat) (r : FpOut) : Lane := { l.put i r.bits with fl := l.fl.or r.flags }

/-- The lane with predicate `i` written. -/
def Lane.putP (l : Lane) (i : Nat) (b : Bool) : Lane :=
  { l with p := (l.p &&& ~~~ ((1 : BitVec 4) <<< i)) ||| (if b then (1 : BitVec 4) <<< i else 0) }

/-- Whether a format R operation executes. -/
def Lane.holds (l : Lane) (w : BitVec 32) : Bool :=
  match opPm w with
  | 1 => bitAt l.p (opPs w)
  | 2 => !bitAt l.p (opPs w)
  | _ => true

/-- A coordinate (R135 IDX). -/
def LaneEnv.coord (v : LaneEnv) (x : Nat) : BitVec 32 :=
  BitVec.ofNat 32 (match x with
    | 0 => v.n
    | 1 => v.n / 32
    | 2 => v.n % 32
    | 3 => 32 * v.i + v.n / 32
    | 4 => 32 * v.j + v.n % 32
    | 5 => v.p
    | 6 => v.s
    | _ => v.elem)

/-- FQNT: rounded to a format and widened, out-of-range values under R123. -/
def fpQuantize (f : Fm) (a : BitVec 32) : FpOut × Conv :=
  let c := convertTo f none (f32Num a)
  let r := rneFp32 (match layOf f with | some l => l.decode c.bits | none => Num.zero)
  let b := BitVec.ofNat 32 r.bits
  ({ bits := b, nv := isSnan a, of := c.beyond && !c.sat, uf := c.tiny && c.inexact, nf := !(f32Num b).isFin }, c)

/-- LDKF: a BF16 constant widened; a NaN comes out canonical, and a value that is not finite raises NF (R133, R142). -/
def fpConst (i : BitVec 16) : FpOut :=
  let v := i.setWidth 32 <<< 16
  { bits := if (f32Num v).isNan then qnan32 else v, nf := !(f32Num v).isFin }

/-- FTOI: to int32, nearest even, clamped; NaN gives 0. -/
def fpToInt (a : BitVec 32) : BitVec 32 × LaneFlags :=
  match f32Num a with
  | .nan => (0, { nv := true })
  | v =>
    let c := convertInt 32 none v
    (BitVec.ofNat 32 c.bits, { sat := c.sat })

/-- The class of a value is in a set (R135 FCLS). -/
def fpClass (x : Nat) (a : BitVec 32) : Bool :=
  match f32Num a with
  | .nan => x % 2 == 1
  | .inf _ => x / 2 % 2 == 1
  | .fin _ m _ => if m = 0 then x / 4 % 2 == 1 else x / 8 % 2 == 1

/-- PLOG. -/
def predOp (x : Nat) (a b : Bool) : Bool :=
  match x with
  | 0 => a && b
  | 1 => a || b
  | 2 => a != b
  | 3 => a && !b
  | 4 => !a
  | 5 => true
  | _ => false

/-- Int32 operations 0x40 to 0x4A. -/
def intOp (op : Nat) (a b : BitVec 32) : BitVec 32 :=
  match op with
  | 0x40 => a + b
  | 0x41 => a - b
  | 0x42 => a * b
  | 0x43 => a &&& b
  | 0x44 => a ||| b
  | 0x45 => a ^^^ b
  | 0x46 => a <<< (b &&& 31)
  | 0x47 => a >>> (b &&& 31)
  | 0x48 => a.sshiftRight (b &&& 31).toNat
  | 0x49 => if a.slt b then a else b
  | _ => if b.slt a then a else b

/-- FP operations of one or two operands. -/
def fpOp (op : Nat) (a b : BitVec 32) : FpOut :=
  match op with
  | 0x10 => fpAdd a b
  | 0x11 => fpSub a b
  | 0x12 => fpMul a b
  | 0x14 => fpDiv a b
  | 0x15 => fpMin a b
  | 0x16 => fpMax a b
  | 0x17 => fpMinN a b
  | 0x18 => fpMaxN a b
  | 0x1B => fpSqrt a
  | 0x1C => fpRsqrt a
  | 0x1D => fpRcp a
  | 0x1E => fpElem op elemExp a
  | 0x1F => fpElem op elemExp2 a
  | 0x20 => fpElem op (elemLog false) a
  | 0x21 => fpElem op (elemLog true) a
  | 0x22 => fpElem op elemTanh a
  | 0x23 => fpElem op elemSigm a
  | _ => fpElem op elemErf a

/-- A random register (R135 RAND, R152). -/
def LaneEnv.rand (v : LaneEnv) (w : BitVec 32) : BitVec 32 :=
  let d := (drawWords v.seed v.step v.tensor (fldN w 0 8) v.elem).word (fldN w 8 2)
  if bitAt w 10 then BitVec.ofNat 32 (rneFp32 (.fin false (d.toNat / 256) (-24))).bits else d

/-- Store or send the register: an output or a reduction channel takes it. -/
def Lane.sto (l : Lane) (x : Nat) (v : BitVec 32) : Lane :=
  if x % 2 = 0 then { l with out0 := some v } else { l with out1 := some v }

/-- RED: the channel takes the register; kinds that read it as FP32 raise NF for a non-finite value. -/
def Lane.red (l : Lane) (kind ch : Nat) (v : BitVec 32) : Lane :=
  let nf := (kind != 1 && decide (kind < 7)) && !(f32Num v).isFin
  let l := { l with fl := { l.fl with nf := l.fl.nf || nf } }
  if ch = 0 then { l with red0 := some v } else { l with red1 := some v }

/-- An operation that executes (R135). -/
def laneOp (v : LaneEnv) (w : BitVec 32) (l : Lane) : Lane :=
  let op := opOp w
  let d := opD w
  let a := l.get (opA w)
  let b := l.get (opB w)
  let x := opX w
  match op with
  | 0x01 =>
    let r := v.load (x % 4) (x / 4)
    { l.put d r.bits with fl := l.fl.or { of := r.of, nf := r.nf } }
  | 0x02 => l.sto x a
  | 0x03 => l.putFp d (fpConst (opImm w))
  | 0x04 => l.put d ((opImm w).signExtend 32)
  | 0x05 => l.put d ((opImm w) ++ (fld (l.get d) 0 16))
  | 0x06 => l.put d (v.coord x)
  | 0x07 => l.put d a
  | 0x08 => l.put d (if bitAt l.p (x % 4) then a else b)
  | 0x13 => l.putFp d (fpFma a b (l.get (opC w)))
  | 0x19 => l.put d (a &&& 0x7FFFFFFF)
  | 0x1A => l.put d (a ^^^ 0x80000000)
  | 0x25 =>
    let r := fpQuantize (fmOf x) a
    let l := l.putFp d r.1
    { l with fl := { l.fl with sat := l.fl.sat || r.2.sat }
             conv := { l.conv with sat := l.conv.sat + r.2.sat.toNat, nanz := l.conv.nanz + r.2.nanz.toNat } }
  | 0x30 =>
    let l := l.putP (d % 4) (fpCmp x a b)
    { l with fl := l.fl.or { nv := isSnan a || isSnan b } }
  | 0x31 => l.putP (d % 4) (intCmp x a b)
  | 0x32 => l.putP (d % 4) (fpClass x a)
  | 0x33 => l.putP (d % 4) (predOp x (bitAt l.p (opA w % 4)) (bitAt l.p (opB w % 4)))
  | 0x4B => let r := fpToInt a; { l.put d r.1 with fl := l.fl.or r.2 }
  | 0x4C => l.put d (BitVec.ofNat 32 (rneFp32 (.ofInt a.toInt 0)).bits)
  | 0x50 => l.put d (v.rand w)
  | 0x58 => l.red x (d / 8) a
  | _ => if 0x40 ≤ op ∧ op ≤ 0x4A then l.put d (intOp op a b) else l.putFp d (fpOp op a b)

/-- Format K operations always execute (R134). -/
def opAlways (w : BitVec 32) : Bool := [0x03, 0x04, 0x05, 0x50].contains (opOp w)

/-- One operation under its predicate. -/
def laneStep (v : LaneEnv) (l : Lane) (w : BitVec 32) : Lane := if opAlways w || l.holds w then laneOp v w l else l

/-- One element runs the program (R132). -/
def laneRun (v : LaneEnv) (ops : List (BitVec 32)) : Lane := ops.foldl (laneStep v) Lane.start

/-! ## Loads (R139, R140) -/

/-- An exact value in lane form. -/
def laneOf (v : Num) : LaneVal :=
  let c := rneFp32 v
  { bits := BitVec.ofNat 32 c.bits, of := c.beyond, nf := !(fp32Val c.bits).isFin }

/-- The elements of a slot in lane form. -/
def State.laneVals (s : State) (d : Desc) (bs : List Byte) : List LaneVal :=
  match d.fm with
  | .int8 => (slotElems .int8 bs).map (fun v => { bits := BitVec.ofInt 32 (sext 8 v) })
  | .int4 => (slotElems .int4 bs).map (fun v => { bits := BitVec.ofInt 32 (sext 4 v) })
  | _ => (s.valuesOf d bs).map laneOf

end Sys2Proof.Machine
end

