-- ==== Sys2Proof/Machine/Vector.lean ====
section
/-! DEFINITION. EMAP and ERED (R137 to R150): their checks, the iteration over tiles, reductions and summaries. -/

namespace Sys2Proof.Machine

/-- A reduction of a program (R145): kind, axis. -/
structure Red where
  kind : Nat
  axis : Nat
  deriving DecidableEq, Repr

/-- Kinds with an index (R145). -/
def Red.indexed (r : Red) : Bool := decide (3 ≤ r.kind) && decide (r.kind ≤ 8)

/-- SUM or MEAN: the kinds that keep an A128 sum. -/
def Red.sums (r : Red) : Bool := r.kind == 0 || r.kind == 2

/-- A vector word (R137): its descriptors if present, its program, its reductions by channel. -/
structure VecJob where
  ered  : Bool
  acc   : Bool
  smval : Bool
  s0    : Option Desc
  s1    : Option Desc
  s2    : Option Desc
  d0    : Option Desc
  d1    : Option Desc
  ops   : List (BitVec 32)
  reds  : List Red
  sect  : Sect

/-- A descriptor unless its index is 0xFFFF (R137). -/
def State.optDesc (s : State) (i : Nat) : Option Desc := if i = 0xFFFF then none else some (s.desc i)

/-- The reductions that a program names, in program order, with their channel. -/
def redsOf (ops : List (BitVec 32)) : List (Red × Nat) :=
  (ops.filter (fun w => opOp w == 0x58)).map (fun w => (⟨opX w, opD w % 4⟩, opD w / 8))

/-- A word's fields with the program `ops`; the reductions in the order of their channels. -/
def vecJob (ered : Bool) (a : ArrayArgs) (ops : List (BitVec 32)) (s : State) : VecJob :=
  let r := redsOf ops
  { ered := ered, acc := ered && bitAt a.flg 5, smval := ered && bitAt a.flg 4
    s0 := s.optDesc (fldN a.a 0 16), s1 := s.optDesc (fldN a.a 16 16), s2 := s.optDesc (fldN a.b 16 16)
    d0 := s.optDesc (fldN a.b 0 16), d1 := s.optDesc (fldN a.c 0 16), ops := ops
    reds := ((r.filter (fun p => p.2 == 0)) ++ (r.filter (fun p => p.2 != 0))).map (·.1), sect := sectOf a.sec }

/-- Stream `m`. -/
def VecJob.stream (j : VecJob) (m : Nat) : Option Desc := match m with | 0 => j.s0 | 1 => j.s1 | _ => j.s2

/-- Output `m`. -/
def VecJob.output (j : VecJob) (m : Nat) : Option Desc := if m = 0 then j.d0 else j.d1

/-- The loads of a program: stream and mode. -/
def VecJob.loads (j : VecJob) : List (Nat × Nat) :=
  ((j.ops.filter (fun w => opOp w == 0x01)).map (fun w => (opX w % 4, opX w / 4))).eraseDups

/-- The outputs that STO names. -/
def VecJob.stores (j : VecJob) : List Nat := ((j.ops.filter (fun w => opOp w == 0x02)).map opX).eraseDups

/-- An output has a predicated STO. -/
def VecJob.predicated (j : VecJob) (m : Nat) : Bool :=
  j.ops.any (fun w => opOp w == 0x02 && opX w == m && opPm w != 0)

/-- The channel of the reduction whose results go to D1: the only one, or channel 0. -/
def VecJob.red1 (j : VecJob) : Option Red := j.reds.head?

/-- The reduction whose results go to D0, of two. -/
def VecJob.red0 (j : VecJob) : Option Red := j.reds[1]?

/-- D1 receives indices beside values in D0 (R145). -/
def VecJob.indexed (j : VecJob) : Bool := j.reds.any Red.indexed

/-- Output `m` is an element output (R137, R145). -/
def VecJob.elemOut (j : VecJob) (m : Nat) : Bool := !j.ered || (m == 0 && j.reds.length == 1 && !j.indexed)

/-- The element outputs that are present. -/
def VecJob.elemOuts (j : VecJob) : List (Nat × Desc) :=
  [0, 1].filterMap (fun m => if j.elemOut m then (j.output m).map (fun d => (m, d)) else none)

/-- Streams read in element mode. -/
def VecJob.elemStreams (j : VecJob) : List Desc :=
  j.loads.filterMap (fun p => if p.2 = 0 then j.stream p.1 else none)

/-- Streams read as vectors, with their mode. -/
def VecJob.vecStreams (j : VecJob) : List (Nat × Desc) :=
  j.loads.filterMap (fun p => if p.2 = 0 then none else (j.stream p.1).map (fun d => (p.2, d)))

/-- The iteration descriptor (R138). -/
def VecJob.iter (j : VecJob) : Option Desc := j.s0.orElse (fun _ => j.d0)

/-- The descriptors present. -/
def VecJob.present (j : VecJob) : List Desc := [j.s0, j.s1, j.s2, j.d0, j.d1].filterMap id

/-- TR of the iteration space. -/
def VecJob.tr (j : VecJob) : Nat := (j.iter.map (·.tr)).getD 0
/-- TC of the iteration space. -/
def VecJob.tc (j : VecJob) : Nat := (j.iter.map (·.tc)).getD 0
/-- The core limit. -/
def VecJob.limit (j : VecJob) : Nat := (j.iter.map (·.tq)).getD 0

/-- P: the largest TP of the element-mode streams and element outputs (R138); the iteration descriptor's where there is
none of these (log entry 33). -/
def VecJob.p (j : VecJob) : Nat :=
  match j.elemStreams ++ j.elemOuts.map (·.2) with
  | [] => (j.iter.map (·.tp)).getD 0
  | l => (l.map (·.tp)).foldl max 0

/-- The number of groups of an axis (R145). -/
def VecJob.groups (j : VecJob) (axis : Nat) : Nat :=
  match axis with
  | 0 => 32 * j.tr * j.p
  | 1 => 32 * j.tc * j.p
  | _ => j.p

/-- The result outputs with what they receive: the reduction, and whether its indices. -/
def VecJob.results (j : VecJob) : List (Nat × Desc × Red × Bool) :=
  if j.ered then
    (match j.d1, j.red1 with | some d, some r => [(1, d, r, false)] | _, _ => [])
      ++ (match j.d0, j.red1, j.red0 with
          | some d, _, some r => [(0, d, r, false)]
          | some d, some r, none => if r.indexed then [(0, d, r, true)] else []
          | _, _, _ => [])
  else []

/-! ## Checks (R144) -/

/-- Check 2. -/
def vecFlagsBad (ered : Bool) (a : ArrayArgs) : Bool :=
  !flgOk a.flg (if ered then 0x70 else 0x40) || (bitAt a.flg 6 && bitAt a.flg 4)

/-- Check 4: the program rules, except those of the operation index (R137, R145, R149). -/
def VecJob.rulesBad (j : VecJob) : Bool :=
  let r := redsOf j.ops
  let k := r.length
  j.loads.any (fun p => (j.stream p.1).isNone) || j.stores.any (fun m => (j.output m).isNone)
    || (if j.ered then
          decide (k = 0) || decide (2 < k) || (r.map (·.2)).eraseDups.length != k
            || decide (1 < (r.map (·.1.axis)).eraseDups.length)
            || (decide (k = 2) && (j.indexed || j.stores != []))
            || (j.indexed && j.stores != []) || j.stores.contains 1
            || j.d1.isNone || ((decide (k = 2) || j.indexed) && j.d0.isNone)
            || (j.acc && j.reds.any (fun r => r.kind == 2))
        else decide (0 < k))

/-- The TF that an element output or a sum may have (R141). -/
def outFmOk (f : Fm) : Bool := f != .a128 && f != .e8m0 && !f.isCb

/-- The TF and AMODE of a result output (R145, R146, R147, R149). -/
def VecJob.resultOk (j : VecJob) (d : Desc) (r : Red) (index : Bool) : Bool :=
  if index then d.fm == .fp32 && d.foil == 0
  else match r.kind with
    | 0 => if j.acc then d.fm == .a128 && d.amode == 3 else (outFmOk d.fm || d.fm == .a128) && d.amode == 1
    | 1 => if j.acc then d.fm == .a128 else outFmOk d.fm || d.fm == .a128
    | 2 => [Fm.fp32, .bf16, .fp16, .e5m2].contains d.fm && d.amode == 1
    | 7 | 8 => d.fm == .int8 || d.fm == .a128
    | _ => [Fm.fp32, .bf16, .fp16, .e5m2].contains d.fm

/-- An element output of which TF, MX and FOIL are allowed (R141). -/
def VecJob.elemOk (j : VecJob) (m : Nat) (d : Desc) : Bool :=
  outFmOk d.fm && !(j.predicated m && (d.mx || d.foil != 0))

/-- The index of a descriptor that fails check 8. -/
def VecJob.formatBad (j : VecJob) : Option Nat :=
  ((j.elemOuts.find? (fun p => !j.elemOk p.1 p.2)).map (·.2.index)).orElse (fun _ =>
    (j.results.find? (fun p => !j.resultOk p.2.1 p.2.2.1 p.2.2.2)).map (·.2.1.index))

/-- The largest index that a vector stream is read at, plus one (R139). -/
def VecJob.reach (j : VecJob) (mode : Nat) : Nat :=
  match mode with
  | 1 => j.p * 32 * j.tr
  | 2 => j.p * 32 * j.tc
  | _ => j.p

/-- A descriptor read or written by elements has the extents of the iteration space (R138). -/
def VecJob.elemExtOk (j : VecJob) (d : Desc) : Bool :=
  d.tr == j.tr && d.tc == j.tc && (d.tp == 1 || d.tp == j.p)

/-- The index of a descriptor that fails check 9. -/
def VecJob.extentBad (j : VecJob) : Option Nat :=
  (((j.elemStreams ++ j.elemOuts.map (·.2)).find? (fun d => !j.elemExtOk d)).map (·.index)).orElse (fun _ =>
    ((j.vecStreams.find? (fun p => p.2.layout != 3 || decide (p.2.tc * 1024 < j.reach p.1))).map (·.2.index)).orElse
      (fun _ => (j.results.find? (fun p =>
        let d := p.2.1
        d.layout != 3 || d.tr != 1 || d.tp != 1 || decide (d.tc * 1024 < j.groups p.2.2.1.axis))).map (·.2.1.index)))

/-- AMODE of a descriptor is read: an output that receives a sum. -/
def VecJob.readsAmode (j : VecJob) (d : Desc) : Bool :=
  j.results.any (fun p => p.2.1.index == d.index && p.2.2.1.sums && !p.2.2.2)

/-- A flaw that names an operation. -/
def flawOp (code : Nat) (i : Nat) : Flaw := ⟨code, 0, 0x3FF, 2 ^ 4 * (i % 2 ^ 12), none⟩

/-- The operation breaks a rule of its own after the operations before it: a load or a store of what is absent, a store or a
reduction that the word does not take. -/
def VecJob.opBreaks (j : VecJob) (before : List (BitVec 32)) (w : BitVec 32) : Bool :=
  let r := redsOf before
  match opOp w with
  | 0x01 => (j.stream (opX w % 4)).isNone
  | 0x02 => (j.output (opX w)).isNone || (j.ered && (j.indexed || decide (1 < j.reds.length) || opX w == 1))
  | 0x58 =>
    !j.ered || decide (2 ≤ r.length) || r.any (fun p => p.2 == opD w / 8 || p.1.axis != opD w % 4) || j.d1.isNone
      || (decide (r.length = 1) && (j.indexed || j.d0.isNone)) || (decide (3 ≤ opX w) && j.d0.isNone)
      || (j.acc && opX w == 2)
  | _ => false

/-- The number of the first operation at fault under the program rules, counted in the program; END's where no operation
breaks one, since a reduction is then missing (log entry 129). -/
def VecJob.faultOp (j : VecJob) : List (BitVec 32) → List (BitVec 32) → Nat
  | before, [] => before.length
  | before, w :: t => if j.opBreaks before w then before.length else j.faultOp (before ++ [w]) t

/-- The checks of EMAP and ERED in order (R144). -/
def vecChecks (ered : Bool) (a : ArrayArgs) (s : State) : Option Flaw :=
  let start := fldN a.c 16 16
  let prog := s.elemProg start
  let ops := match prog with | .ok l => l | .error _ => []
  let badOp := match prog with | .ok _ => none | .error i => some i
  let j := vecJob ered a ops s
  let big := j.present.find? (fun d => decide (s.descCount ≤ d.index))
  let zero := j.present.find? (fun d => d.zeroBad (j.readsAmode d))
  let res := j.present.find? (Desc.reservedBad s.fmt.loaded)
  let at_ (o : Option Desc) : Nat := match o with | some d => d.index | none => 0
  firstFlaw
    [(a.sec == 3, ⟨0x01, 0, 0x3FF, 0, none⟩),
     (vecFlagsBad ered a, ⟨0x02, 0, 0x3FF, 0, none⟩),
     (badOp.isSome, flawOp 0x03 (badOp.getD 0)),
     (j.rulesBad, flawOp 0x04 (start + j.faultOp [] j.ops)),
     (big.isSome || j.iter.isNone, flawDesc 0x10 1 (at_ big)),
     (zero.isSome, flawDesc 0x11 1 (at_ zero)),
     (res.isSome, flawDesc 0x12 1 (at_ res)),
     (j.formatBad.isSome, flawDesc 0x15 1 (j.formatBad.getD 0)),
     (j.extentBad.isSome, flawDesc 0x13 1 (j.extentBad.getD 0))]

/-! ## Reduction groups (R145 to R149) -/

/-- A group: its sum, its contributions, its contender with index. -/
structure Grp where
  sum  : Sum
  n    : Nat
  best : Option (BitVec 32 × Nat)
  deriving DecidableEq, Repr

/-- A group that nothing has reached. -/
def Grp.empty : Grp := ⟨Sum.none 0, 0, none⟩

/-- The first contender wins over the second (R147); on a tie the lowest index. -/
def beats (kind : Nat) (a b : BitVec 32 × Nat) : Bool :=
  if 7 ≤ kind then
    let lt := a.1.slt b.1
    let gt := b.1.slt a.1
    if lt || gt then (if kind = 7 then gt else lt) else decide (a.2 < b.2)
  else
    match (f32Num a.1).isNan, (f32Num b.1).isNan with
    | true, true => decide (a.2 < b.2)
    | true, false => true
    | false, true => false
    | false, false =>
      let lt := fpLess a.1 b.1
      let gt := fpLess b.1 a.1
      if lt || gt then (if kind = 3 ∨ kind = 5 then gt else lt) else decide (a.2 < b.2)

/-- One more contender. MAXN and MINN ignore NaN. -/
def contend (kind : Nat) (b : Option (BitVec 32 × Nat)) (c : BitVec 32 × Nat) : Option (BitVec 32 × Nat) :=
  if (kind = 5 ∨ kind = 6) ∧ (f32Num c.1).isNan then b
  else match b with
    | none => some c
    | some x => if beats kind c x then some c else some x

/-- One contribution to a group whose sum stands at anchor `ae`. -/
def Grp.add (r : Red) (ae : Int) (idx : Nat) (v : BitVec 32) (g : Grp) : Grp :=
  let base := if g.n = 0 then Sum.none ae else g.sum
  { sum := if r.sums then base.addNum (f32Num v) else g.sum
    n := g.n + 1
    best := if r.indexed then contend r.kind g.best (v, idx) else g.best }

/-- What a vector word carries beside the state: groups by core, channel and number; the stored result slots of ACC by
core, output and slot; the flags; whether a result written was of an empty group. -/
structure VRun where
  st     : State
  grps   : SMap Grp
  stored : SMap (List Byte)
  fl     : LaneFlags
  empty  : Bool

/-- The key of a group. -/
def grpKey (c ch g : Nat) : Nat := 2 ^ 24 * (2 * c + ch) + g

/-- The anchor of a sum (R146, R149). -/
def VecJob.anchor (r : VRun) (j : VecJob) (c : CoreAt) (m g : Nat) (d : Desc) : Int :=
  if j.acc then (accOfSlot (smGet [] r.stored (grpKey c.c m (g / 1024)))).ae else d.ae

/-- The number of the output of channel position `k`: 1 for the first reduction, 0 for the second. -/
def chOut (k : Nat) : Nat := if k = 0 then 1 else 0

/-- The group of an element and its index there (R145). -/
def VecJob.place (j : VecJob) (axis : Nat) (v : LaneEnv) : Nat × Nat :=
  let row := 32 * v.i + v.n / 32
  let col := 32 * v.j + v.n % 32
  match axis with
  | 0 => (v.p * 32 * j.tr + row, col)
  | 1 => (v.p * 32 * j.tc + col, row)
  | _ => (v.p, row * 32 * j.tc + col)

/-- The contribution of one lane to the reduction at position `k`. -/
def VecJob.contribute (j : VecJob) (c : CoreAt) (v : LaneEnv) (k : Nat) (val : Option (BitVec 32)) (r : VRun) : VRun :=
  match val, j.reds[k]?, j.output (chOut k) with
  | some x, some red, some d =>
    let q := j.place red.axis v
    let key := grpKey c.c k q.1
    let g := smGet Grp.empty r.grps key
    { r with grps := smPut Grp.empty r.grps key (g.add red (j.anchor r c (chOut k) q.1 d) q.2 x) }
  | _, _, _ => r

/-! ## One tile -/

/-- A tile of the iteration space. -/
structure IterTile where
  q : Nat
  p : Nat
  i : Nat
  j : Nat
  deriving DecidableEq, Repr

/-- The tiles in (p, i, j) order. -/
def iterTiles (tr tc p : Nat) : List IterTile :=
  (List.range (p * tr * tc)).map (fun q => ⟨q, q / (tr * tc), q / tc % tr, q % tc⟩)

/-- The slot of a descriptor read or written by elements. -/
def elemSlot (d : Desc) (t : IterTile) (c : CoreAt) : Int := d.slotAt c t.i t.j (if d.tp = 1 then 0 else t.p)

/-- The first vector element that a tile reads in a mode (R139). -/
def VecJob.vec0 (j : VecJob) (mode : Nat) (t : IterTile) : Nat :=
  match mode with
  | 1 => t.p * 32 * j.tr + 32 * t.i
  | 2 => t.p * 32 * j.tc + 32 * t.j
  | _ => t.p

/-- The slot of a stream that a tile reads in a mode. -/
def VecJob.loadSlot (j : VecJob) (mode : Nat) (d : Desc) (t : IterTile) (c : CoreAt) : Int :=
  if mode = 0 then elemSlot d t c else d.vecSlot c (j.vec0 mode t)

/-- What a tile needs: the slots it loads and the element outputs it writes. -/
def VecJob.tileNeeds (j : VecJob) (mask : State) (t : IterTile) (c : CoreAt) : List Need :=
  j.loads.filterMap (fun p => (j.stream p.1).map (fun d => rNeed d (j.loadSlot p.2 d t c)))
    ++ j.elemOuts.flatMap (fun p =>
      if j.stores.contains p.1 then zNeed p.2 (elemSlot p.2 t c) (mask.maskTest p.2 (elemSlot p.2 t c)) else [])

/-- The lane values of every load of a tile, in the order of the loads, and the state after the reads. -/
def VecJob.loadAll (j : VecJob) (t : IterTile) (c : CoreAt) :
    List (Nat × Nat) → State → List ((Nat × Nat) × List LaneVal) × State
  | [], s => ([], s)
  | p :: l, s =>
    match j.stream p.1 with
    | none => j.loadAll t c l s
    | some d =>
      let r := s.readSlot 0 c.c d (j.loadSlot p.2 d t c)
      let rest := j.loadAll t c l r.2
      ((p, r.2.laneVals d r.1) :: rest.1, rest.2)

/-- The element of a loaded slot that lane element `n` takes in a mode. -/
def VecJob.pick (j : VecJob) (mode : Nat) (t : IterTile) (n : Nat) : Nat :=
  match mode with
  | 0 => n
  | 1 => (j.vec0 1 t + n / 32) % 1024
  | 2 => (j.vec0 2 t + n % 32) % 1024
  | _ => t.p % 1024

/-- The environment of element `n` of a tile. -/
def VecJob.env (j : VecJob) (s : State) (step : Word) (t : IterTile) (c : CoreAt)
    (vals : List ((Nat × Nat) × List LaneVal)) (n : Nat) : LaneEnv :=
  let it := j.iter.getD (descOf 0 0)
  { n := n, i := t.i, j := t.j, p := t.p, s := c.i
    elem := elementNumber (elemSlot it t c).toNat it.uaddr n
    seed := match s.cast with | some k => k.seed | none => 0
    step := step, tensor := it.index
    load := fun m mode =>
      match vals.find? (fun v => v.1.1 == m && v.1.2 == mode) with
      | some v => v.2.getD (j.pick mode t n) { bits := 0 }
      | none => { bits := 0 } }

/-- The value that STO converts (R141). -/
def stoVal (f : Fm) (v : BitVec 32) : Num := if f.isInt then .ofInt v.toInt 0 else f32Num v

/-- The slot of a tile of an element output: its bytes, which of them the elements stored fill, and the conversions. -/
def State.stoSlot (s : State) (d : Desc) (step : Word) (u : Nat) (vals : List (Option (BitVec 32))) :
    List Byte × List Bool × Counts :=
  let draw := s.draw d step u 0
  if d.mx || d.foil != 0 then
    let p := packSlot d.fm d.mx d.foil draw (s.draw d step u 1) (vals.map (fun v => stoVal d.fm (v.getD 0)))
    (p.1, List.replicate p.1.length true, p.2)
  else
    let p := mergeElems d draw (s.slotBytes u d.size) (vals.map (fun v => v.map (stoVal d.fm)))
    (p.1, mineBytes d.fm.width (vals.map Option.isSome), countConvs p.2)

/-- Write an element output of a tile (R141). A slag tile counts in the flags as a written one (R262). -/
def VecJob.writeOut (e : QEnt) (mask : State) (m : Nat) (d : Desc) (t : IterTile) (c : CoreAt)
    (lanes : List Lane) (r : VRun) : VRun :=
  let u := elemSlot d t c
  let vals := lanes.map (fun l => if m = 0 then l.out0 else l.out1)
  let nf := !d.fm.isInt && vals.any (fun v => v.any (fun x => !(f32Num x).isFin))
  let p := r.st.stoSlot d e.step u.toNat vals
  let fl := (r.fl.or p.2.2.flags).or { nf := nf }
  if mask.maskTest d u = some false then { r with st := r.st.slagTiles 1, fl := fl }
  else
    let s := r.st.destsOf e.seq (r.st.slotDests u d.size)
    { r with st := (s.noteConv (d.foil != 0) p.2.2).writeSome .vec e.seq c.c u p.1 p.2.1, fl := fl }

/-- One core runs one tile. -/
def VecJob.tile (j : VecJob) (e : QEnt) (mask : State) (t : IterTile) (c : CoreAt) (r : VRun) : VRun :=
  let l := j.loadAll t c j.loads r.st
  let envs := (List.range 1024).map (j.env mask e.step t c l.1)
  let lanes := envs.map (fun v => laneRun v j.ops)
  let conv : Counts := { sat := (lanes.map (·.conv.sat)).foldl (· + ·) 0, nanz := (lanes.map (·.conv.nanz)).foldl (· + ·) 0 }
  let r := { r with st := l.2.noteConv false conv, fl := lanes.foldl (fun f x => f.or x.fl) r.fl }
  let two := decide (j.reds.length = 2)
  let r := (envs.zip lanes).foldl (fun r p =>
    let r := j.contribute c p.1 0 (if two then p.2.red0 else p.2.red0.orElse (fun _ => p.2.red1)) r
    if two then j.contribute c p.1 1 p.2.red1 r else r) r
  (j.elemOuts.filter (fun p => j.stores.contains p.1)).foldl (fun r p => VecJob.writeOut e mask p.1 p.2 t c lanes r) r

/-! ## Results -/

/-- Elements of the result slot `k`: the groups it holds. -/
def slotGroups (total k : Nat) : List Nat := (List.range (min 1024 (total - 1024 * k))).map (fun g => 1024 * k + g)

/-- The stored value of an index kind as a register: FP32, or int32 clamped (R148, R149), and whether it was clamped. -/
def storedVal (s : State) (kind : Nat) (d : Desc) (bs : List Byte) (n : Nat) : BitVec 32 × Bool :=
  if 7 ≤ kind then
    let a := accOfSlot bs
    let i := if d.fm = .a128 then (alignCell 0 a.ae (a.vals.getD n 0)).i else sext 8 (elemAt 8 bs n)
    let c := clampI 32 i
    (BitVec.ofInt 32 c, decide (c ≠ i))
  else (((s.laneVals d bs).getD n { bits := 0 }).bits, false)

/-- The stored contender of a group: its value, and its index unless it is 0xFFFF_FFFF (R149). -/
def VecJob.contender (j : VecJob) (r : VRun) (c : CoreAt) (kind g : Nat) : Option (BitVec 32 × Nat) × Bool :=
  match j.d1, j.d0 with
  | some d, some _ =>
    let key (m : Nat) := grpKey c.c m (g / 1024)
    let idx := elemAt 32 (smGet [] r.stored (key 0)) (g % 1024)
    let v := storedVal r.st kind d (smGet [] r.stored (key 1)) (g % 1024)
    (if idx = 0xFFFFFFFF then none else some (v.1, idx), idx != 0xFFFFFFFF && v.2)
  | _, _ => (none, false)

/-- A group with what was stored for it under ACC, and whether a stored value was clamped. -/
def VecJob.final (j : VecJob) (r : VRun) (c : CoreAt) (k : Nat) (red : Red) (d : Desc) (g : Nat) : Grp × Bool :=
  let ae := j.anchor r c (chOut k) g d
  let x := smGet Grp.empty r.grps (grpKey c.c k g)
  let x := if x.n = 0 then { x with sum := Sum.none ae } else x
  if j.acc then
    let a := accOfSlot (smGet [] r.stored (grpKey c.c (chOut k) (g / 1024)))
    let i := a.vals.getD (g % 1024) 0
    if red.indexed then
      let st := j.contender r c red.kind g
      ({ x with best := match st.1 with | some v => contend red.kind x.best v | none => x.best }, st.2)
    else if red.kind = 1 then ({ x with sum := { x.sum with i := (alignCell 0 a.ae i).i } }, false)
    else ({ x with sum := x.sum.addSum { Sum.none a.ae with i := i } }, false)
  else (x, false)

/-- The count of a group, with the stored count. -/
def Grp.total (g : Grp) : Int := g.sum.i + g.n

/-- The value of an empty IMAX or IMIN (R148). -/
def emptyInt (kind : Nat) (f : Fm) : Int :=
  if kind = 7 then (if f = .int8 then -128 else -(2 ^ 31)) else if f = .int8 then 127 else 2 ^ 31 - 1

/-- A quotient of a finite value by a count, with a last bit that says whether it goes on. -/
def Num.divNat (v : Num) (n : Nat) : Num :=
  match v with
  | .fin s m e => if m = 0 then Num.zero else quot s m e n 0
  | v => v

/-- The result of a group as an exact value (R146 to R148). -/
def Grp.value (kind : Nat) (f : Fm) (g : Grp) : Num :=
  match kind with
  | 0 => g.sum.value
  | 1 => .ofInt g.total 0
  | 2 => if g.n = 0 then .nan else g.sum.value.divNat g.n
  | 7 | 8 => match g.best with | some b => .ofInt b.1.toInt 0 | none => .ofInt (emptyInt kind f) 0
  | _ => match g.best with | some b => f32Num b.1 | none => .nan

/-- The index of a group. -/
def Grp.index (g : Grp) : Nat := match g.best with | some b => b.2 | none => 0xFFFFFFFF

/-- The A128 slot of the groups `gs` over the old slot: integers of the groups, header over all of them (R146; log
entry 35). -/
def accResult (red : Red) (ae : Int) (acc : Bool) (old : Acc) (gs : List Grp) : Acc :=
  let val (g : Grp) : Int := if red.kind = 0 then g.sum.i else if red.kind = 1 then g.total else
    match g.best with | some b => b.1.toInt | none => emptyInt red.kind .a128
  let terms := (gs.map (·.n)).foldl (· + ·) 0
  let keep := acc && red.kind == 0
  { ae := if red.kind = 0 then ae else 0
    high := (red.kind == 0 && gs.any (·.sum.high)) || (keep && old.high)
    loss := (red.kind == 0 && gs.any (·.sum.loss)) || (keep && old.loss)
    empty := gs.all (fun g => g.n == 0) && (!acc || old.empty)
    f32 := false
    terms := satTerms (terms + if acc then old.terms else 0)
    vals := gs.map val ++ old.vals.drop gs.length }

/-- What a result slot of an MX or foil output holds beyond its groups: free values (log entry 36). -/
def restVals (s : State) (k : Nat) : List Num :=
  (List.range (1024 - k)).map (fun i => f32Num (fld (Config.freeWord (s.fresh + i)) 0 32))

/-- The bytes of a result slot, which of them the groups fill, and the conversions. -/
def resultBytes (s : State) (d : Desc) (step : Word) (u : Nat) (red : Red) (index acc : Bool) (ae : Int)
    (gs : List Grp) : List Byte × List Bool × Counts :=
  let old := s.slotBytes u d.size
  let n := gs.length
  let mine := List.replicate n true ++ List.replicate (1024 - n) false
  if index then
    (packElems 32 (gs.map Grp.index ++ (slotElems .fp32 old).drop n), mineBytes 32 mine, {})
  else if d.fm = .a128 then
    ((accResult red ae acc (accOfSlot old) gs).slot, mineBytes 128 mine ++ List.replicate 64 true, {})
  else
    let vals := gs.map (Grp.value red.kind d.fm)
    if d.mx || d.foil != 0 then
      let p := packSlot d.fm d.mx d.foil (s.draw d step u 0) (s.draw d step u 1) (vals ++ restVals s n)
      (p.1, List.replicate p.1.length true, p.2)
    else
      let p := mergeElems d (s.draw d step u 0) old (vals.map some ++ List.replicate (1024 - n) none)
      (p.1, mineBytes d.fm.width mine, countConvs p.2)

/-- Write result slot `k` of one output on one core. -/
def VecJob.writeResult (j : VecJob) (e : QEnt) (mask : State) (k : Nat) (c : CoreAt) (o : Nat × Desc × Red × Bool)
    (r : VRun) : VRun :=
  let d := o.2.1
  let red := o.2.2.1
  let pos := if o.1 = 1 ∨ o.2.2.2 then 0 else 1
  let fin := (slotGroups (j.groups red.axis) k).map (j.final r c pos red (j.output (chOut pos) |>.getD d))
  let gs := fin.map (·.1)
  if gs.isEmpty then r
  else
    let u := d.slotAt c 0 k 0
    let none_ := if o.2.2.2 then 0 else (gs.filter (fun g => g.n == 0)).length
    let clamped := if o.2.2.2 then 0 else (fin.filter (·.2)).length
    let s := { r.st with vec := { r.st.vec with stats := addHi r.st.vec.stats none_ } }
    let s := s.noteConv false { sat := clamped }
    let r := { r with empty := r.empty || decide (0 < none_), fl := { r.fl with sat := r.fl.sat || decide (0 < clamped) } }
    let b := resultBytes s d e.step u.toNat red o.2.2.2 j.acc (j.anchor r c o.1 (1024 * k) d) gs
    let r := { r with fl := r.fl.or b.2.2.flags }
    if mask.maskTest d u = some false then { r with st := s.slagTiles 1 }
    else
      let s := (s.noteConv (d.foil != 0) b.2.2).drawn
      let s := s.destsOf e.seq (s.slotDests u d.size)
      { r with st := s.writeSome .vec e.seq c.c u b.1 b.2.1 }

/-- The number of result slots of the word. -/
def VecJob.resultSlots (j : VecJob) : Nat :=
  (j.results.map (fun o => (j.groups o.2.2.1.axis + 1023) / 1024)).foldl max 0

/-- The write step of result slot `k` (R99, R145). -/
def VecJob.resultStep (j : VecJob) (e : QEnt) (mask : State) (k : Nat) : WStep VRun :=
  { tile := k
    needs := fun c => j.results.flatMap (fun o =>
      if 1024 * k < j.groups o.2.2.1.axis then
        zNeed o.2.1 (o.2.1.slotAt c 0 k 0) (mask.maskTest o.2.1 (o.2.1.slotAt c 0 k 0))
      else [])
    act := fun c r => j.results.foldl (fun r o => j.writeResult e mask k c o r) r }

/-- Under ACC every result slot is read before the word (R149). -/
def VecJob.accSteps (j : VecJob) : List (WStep VRun) :=
  if j.acc then
    [{ tile := 0
       needs := fun c => j.results.flatMap (fun o =>
         (List.range ((j.groups o.2.2.1.axis + 1023) / 1024)).map (fun k => rNeed o.2.1 (o.2.1.slotAt c 0 k 0)))
       act := fun c r => j.results.foldl (fun r o =>
         (List.range ((j.groups o.2.2.1.axis + 1023) / 1024)).foldl (fun r k =>
           let b := r.st.readSlot 0 c.c o.2.1 (o.2.1.slotAt c 0 k 0)
           { r with st := b.2, stored := smPut [] r.stored (grpKey c.c o.1 k) b.1 }) r) r }]
  else []

/-- The tile steps. -/
def VecJob.tileSteps (j : VecJob) (e : QEnt) (mask : State) : List (WStep VRun) :=
  (iterTiles j.tr j.tc j.p).map (fun t => { tile := t.q, needs := j.tileNeeds mask t, act := j.tile e mask t })

/-! ## Summaries (R150) -/

/-- Group 0 of the first reduction over the participating cores, with the section index for its index. -/
def VecJob.combined (j : VecJob) (r : VRun) (cores : List CoreAt) (red : Red) (d : Desc) : Grp :=
  let gs := cores.map (fun c => (c, (j.final r c 0 red d 0).1))
  match gs with
  | [] => Grp.empty
  | (c, g) :: t =>
    let one (c : CoreAt) (g : Grp) : Grp := { g with best := g.best.map (fun b => (b.1, c.i)) }
    t.foldl (fun a p =>
      { sum := if red.kind = 1 then { a.sum with i := a.sum.i + p.2.sum.i } else a.sum.addSum p.2.sum
        n := a.n + p.2.n
        best := match (one p.1 p.2).best with | some b => contend red.kind a.best b | none => a.best }) (one c g)

/-- The summary under SMVAL. -/
def VecJob.smValue (j : VecJob) (r : VRun) (cores : List CoreAt) : Word :=
  match j.red1, j.d1 with
  | some red, some d =>
    let g := j.combined r cores red d
    let v := (Lay.mk 8 23 127 .ieee).convert false none (g.value red.kind d.fm)
    let hi := if red.indexed then g.index else if red.kind = 1 then sat32 g.total.toNat else 0
    pair32 hi v.bits
  | _, _ => 0

/-- The flag word (R150). -/
def VecJob.flagWord (r : VRun) : Word :=
  r.fl.word ||| putBit 6 r.empty ||| putBit 7 (r.grps.any (fun g => g.2.sum.high)) |||
    putBit 8 (r.grps.any (fun g => g.2.sum.loss))

/-! ## The word -/

/-- A word completed in the lanes. -/
def State.vecDone (s : State) (fl : Word) (ok : Bool) : State :=
  let v := s.vec
  { s with vec := { v with flags := v.flags ||| fl
                           stats := if ok then pair32 (hi32 v.stats) ((lo32 v.stats + 1) % 2 ^ 32) else v.stats } }

/-- The output slots of a core: those of element outputs that a program stores to, and the result slots (R261). -/
def VecJob.zSlots (j : VecJob) (c : CoreAt) : List (Desc × List Int) :=
  (j.elemOuts.filter (fun p => j.stores.contains p.1)).map (fun p =>
      (p.2, (iterTiles j.tr j.tc j.p).map (fun t => elemSlot p.2 t c)))
    ++ j.results.map (fun o =>
      (o.2.1, (List.range ((j.groups o.2.2.1.axis + 1023) / 1024)).map (fun k => o.2.1.slotAt c 0 k 0)))

/-- Carry out a vector word that passed its checks. -/
def VecJob.run (j : VecJob) (e : QEnt) (s : State) : State :=
  let cores := s.coresOf j.sect j.limit
  let s1 := cores.foldl (fun s c => (j.zSlots c).foldl (fun s p => s.noteMasks p.1 [p.2]) s) s
  let r0 : VRun := ⟨s1.idleCores j.sect j.limit, [], [], {}, false⟩
  let steps := j.accSteps ++ j.tileSteps e s ++ (List.range j.resultSlots).map (j.resultStep e s)
  let r := runSteps VRun.st cores steps r0
  let v := r.st
  let t := (v.st.vecDone v.fl.word r.stop.isNone).drawn
  let t := match r.stop with | some q => t.flaw .vec e.word (faultFlaw q) | none => t
  let value := if r.did.isEmpty then 0 else if j.smval then j.smValue v cores else VecJob.flagWord v
  t.formSummary e.seq value

/-- The zero extents of a word (R138). -/
def VecJob.zeroWork (j : VecJob) : Bool := j.tr == 0 || j.tc == 0 || j.p == 0 || j.limit == 0

/-- The effect of EMAP or ERED at issue. -/
def vecEffect (ered : Bool) (a : ArrayArgs) (e : QEnt) (s : State) : State :=
  match vecChecks ered a s with
  | some f => s.refuse .vec e f
  | none =>
    let j := vecJob ered a (match s.elemProg (fldN a.c 16 16) with | .ok l => l | .error _ => []) s
    if j.zeroWork then s.formSummary e.seq 0 else j.run e s

/-- EMAP (R137). -/
def execEmap (a : ArrayArgs) (s : State) : Out := arrayCmd 0x60 a (vecEffect false a) (refuseReserved .vec) s

/-- ERED (R137). -/
def execEred (a : ArrayArgs) (s : State) : Out := arrayCmd 0x61 a (vecEffect true a) (refuseReserved .vec) s

end Sys2Proof.Machine
end

