-- ==== Sys2Proof/Machine/ConvLanes.lean ====
section
/-! DEFINITION. The convolution-class words of the lanes: VDW (R154, R172), POOL (R173) and RESAMPLE (R174). -/

namespace Sys2Proof.Machine

/-- Which of the three. -/
inductive LaneConv where
  | vdw | pool (mode : Nat) | resample (mode : Nat)
  deriving DecidableEq, Repr

/-- The fields of a word. -/
structure LaneJob where
  kind : LaneConv
  x    : Desc
  w    : Desc
  z    : Desc
  bias : Option Desc
  g    : Geo
  sect : Sect

/-- The block that executes it and records for it. -/
def LaneConv.blk : LaneConv → Blk
  | .vdw => .vec
  | _ => .ary

/-- The fields of VDW (R172). -/
def vdwJob (a : ArrayArgs) (s : State) : LaneJob :=
  { kind := .vdw, x := s.desc (fldN a.a 0 16), w := s.desc (fldN a.b 0 16), z := s.desc (fldN a.c 0 16)
    bias := s.optDesc (fldN a.a 16 16), g := s.geo (fldN a.b 16 16), sect := sectOf a.sec }

/-- The fields of POOL and RESAMPLE (R166). -/
def planeJob (kind : LaneConv) (a : ArrayArgs) (s : State) : LaneJob :=
  { kind := kind, x := s.desc (fldN a.a 0 16), w := s.desc (fldN a.a 0 16), z := s.desc (fldN a.c 0 16), bias := none
    g := s.geo (fldN a.c 16 16), sect := sectOf a.sec }

/-- POOL or RESAMPLE with its mode bits. -/
def poolKind (a : ArrayArgs) : LaneConv := .pool (fldN a.flg 5 2)
/-- RESAMPLE with its mode bits. -/
def resampleKind (a : ArrayArgs) : LaneConv := .resample (fldN a.flg 5 2)

/-- The output frame. -/
def LaneJob.outExt (j : LaneJob) : Ext := match j.kind with | .resample _ => j.g.upExt | _ => j.g.outExt

/-- Input channels per group; the exact quotient is a check (R171). -/
def LaneJob.cg (j : LaneJob) : Nat := 32 * j.x.tc / j.g.groups
/-- Output channels per group. -/
def LaneJob.cog (j : LaneJob) : Nat := 32 * j.z.tc / j.g.groups

/-- The tile descriptors used. -/
def LaneJob.used (j : LaneJob) : List Desc :=
  match j.kind with
  | .vdw => [j.x, j.w, j.z] ++ j.bias.toList
  | _ => [j.x, j.z]

/-- A word that forms a sum at Z's anchor reads AMODE. -/
def LaneJob.sums (j : LaneJob) : Bool := match j.kind with | .vdw => true | .pool m => m == 1 | .resample _ => false

/-- Layout and role checks (R158 to R160, R172). -/
def LaneJob.roleBad (j : LaneJob) : Option Nat :=
  if j.x.actBad then some j.x.index
  else if j.z.actBad then some j.z.index
  else if j.g.reservedBad then some j.g.index
  else none

/-- Formats: VDW (R172), POOL (R173), RESAMPLE (R174). -/
def LaneJob.formatBad (j : LaneJob) : Option Nat :=
  let bad (d : Desc) : Bool := d.fm == .a128 || d.fm == .e8m0
  match j.kind with
  | .vdw =>
    if bad j.x then some j.x.index
    else if bad j.w || j.x.fm.isInt != j.w.fm.isInt then some j.w.index
    else if j.bias.any (fun d => !d.biasFmOk) then j.bias.map (·.index)
    else if !(outFmOk j.z.fm || j.z.fm == .a128) || j.z.amode != 1 then some j.z.index
    else none
  | .pool m =>
    if ! [Fm.fp32, .bf16, .fp16, .e5m2].contains j.z.fm || (m == 1 && j.z.amode != 1) then some j.z.index else none
  | .resample m => if m == 1 then (if (layOf j.z.fm).isNone then some j.z.index else none)
    else if !outFmOk j.z.fm then some j.z.index else none

/-- TR of an activation. -/
def LaneJob.actTr (j : LaneJob) (d : Desc) (frame : Ext) : Nat := if j.g.emptyIn then 0 else (j.g.actExt d frame).tiles

/-- Extents (R158, R168, R172). -/
def LaneJob.extentBad (j : LaneJob) : Option Nat :=
  let act (d : Desc) (frame : Ext) : Bool := d.tr != j.actTr d frame || d.frameBad
  if act j.x j.g.inExt then some j.x.index
  else if act j.z j.outExt || j.z.tp != j.x.tp then some j.z.index
  else match j.kind with
    | .vdw =>
      if j.w.layout != 3 || j.w.tr != 1 || j.w.tp != 1 || decide (j.w.tc * 1024 < 32 * j.z.tc * j.cg * j.g.taps) then
        some j.w.index
      else if j.bias.any (Desc.biasBad (32 * j.z.tc)) then j.bias.map (·.index)
      else none
    | _ => if j.z.tc != j.x.tc then some j.z.index else none

/-- The geometry of the word beyond R162 and R164 (R173, R174). -/
def LaneJob.geoBad (j : LaneJob) : Bool :=
  match j.kind with
  | .vdw => j.g.limitBad
  | .pool _ => j.g.limitBad || j.g.groups != 1
      || j.g.dims.any (fun d => d.u != 1 || decide (d.p0 < 0) || decide (d.p1 < 0) || decide ((d.reach : Int) < d.p0)
        || decide ((d.reach : Int) < d.p1))
  | .resample m => j.g.groups != 1 || j.g.pmode != 0
      || j.g.dims.any (fun d => d.k != 1 || d.s != 1 || d.d != 1 || d.p0 != 0 || d.p1 != 0
        || (m == 1 && ! [1, 2, 4, 8].contains d.u))

/-- VDW takes groups of 1, 2, 4, 8 or 16 channels (R171). -/
def LaneJob.handoffBad (j : LaneJob) : Bool :=
  let ok (c n : Nat) : Bool := n % j.g.groups == 0 && [1, 2, 4, 8, 16].contains c
  !ok j.cg (32 * j.x.tc) || !ok j.cog (32 * j.z.tc)

/-- Check 2. -/
def LaneConv.fieldsBad (kind : LaneConv) (a : ArrayArgs) : Bool :=
  match kind with
  | .vdw => !flgOk a.flg 0x40 || fldN a.c 16 16 != 0
  | .pool m => !flgOk a.flg 0x60 || m == 3 || fldN a.a 16 16 != 0 || a.b != 0xFFFFFFFF
  | .resample m => !flgOk a.flg 0x60 || decide (1 < m) || fldN a.a 16 16 != 0 || a.b != 0xFFFFFFFF

/-- The REGION rules: POOL and RESAMPLE require REGION 0 (R175). -/
def LaneJob.regionBad (j : LaneJob) : Bool :=
  match j.kind with
  | .vdw => j.g.regionBad j.x (some j.z) [j.x, j.z]
  | _ => j.g.region || j.g.regionBad j.x (some j.z) [j.x, j.z]

/-- The checks of a word in order: those of R178, or for VDW those of R144 as R172 gives their codes. -/
def laneChecks (kind : LaneConv) (j : LaneJob) (a : ArrayArgs) (s : State) : Option Flaw :=
  let big := bigIndex s.descCount (j.used.map (·.index) ++ [j.g.index])
  let zero := j.used.find? (fun d => d.zeroBad (j.sums && d.index == j.z.index))
  let res := j.used.find? (Desc.reservedBad s.fmt.loaded)
  let at_ (o : Option Desc) : Nat := match o with | some d => d.index | none => 0
  let vdw := kind == .vdw
  let late (c : Bool) : Bool := c && !j.g.emptyIn
  let head : List (Bool × Flaw) :=
    [(a.sec == 3, ⟨if vdw then 0x01 else 0x03, 0, 0x3FF, 0, none⟩),
     (kind.fieldsBad a, ⟨0x02, 0, 0x3FF, 0, none⟩),
     (big.isSome, flawDesc 0x10 1 (big.getD 0)),
     (zero.isSome, flawDesc 0x11 1 (at_ zero)),
     (j.g.zeroBad, flawDesc 0x11 1 j.g.index),
     (res.isSome, flawDesc 0x12 1 (at_ res)),
     (j.roleBad.isSome, flawDesc 0x12 1 (j.roleBad.getD 0))]
  let tail : List (Bool × Flaw) :=
    if vdw then
      [(late j.geoBad, flawDesc 0x12 1 j.g.index),
       (j.formatBad.isSome, flawDesc 0x15 1 (j.formatBad.getD 0)),
       (j.extentBad.isSome, flawDesc 0x13 1 (j.extentBad.getD 0)),
       (late (j.handoffBad || j.regionBad), flawDesc 0x13 1 j.g.index)]
    else
      [(j.formatBad.isSome, flawDesc 0x15 1 (j.formatBad.getD 0)),
       (j.extentBad.isSome, flawDesc 0x13 1 (j.extentBad.getD 0)),
       (late j.geoBad, flawDesc 0x16 1 j.g.index),
       (late j.regionBad, flawDesc 0x18 1 j.g.index)]
  firstFlaw (head ++ tail)

/-! ## One output tile -/

/-- An output tile of a core: plane, position tile, channel tile counted from the core's first. -/
def LaneJob.tiles (j : LaneJob) : List ResTile := resTiles 0 j.g.m j.g.n j.x.tp

/-- A core computes the tile. -/
def LaneJob.active (j : LaneJob) (t : ResTile) (c : CoreAt) : Bool :=
  decide (j.g.firstChan c + t.j < j.z.tc) && decide (j.g.firstTile c + t.i < j.g.setTiles j.z j.outExt)

/-- The position of row `y` of a tile. -/
def LaneJob.pos (j : LaneJob) (t : ResTile) (c : CoreAt) (y : Nat) : Option P3 :=
  j.g.computed j.z j.outExt c (32 * (j.g.firstTile c + t.i) + y)

/-- The input slot, row and column of an input position and channel. -/
def LaneJob.elemAt (j : LaneJob) (t : ResTile) (c : CoreAt) (p : P3) (ch : Nat) : Option (Int × Nat) :=
  (j.g.locate j.x j.g.inExt c p).map (fun q =>
    (j.x.slotAt c (q / 32) (ch / 32) (if j.x.tp = 1 then 0 else t.p), 32 * (q % 32) + ch % 32))

/-- A tap of an output element: what it reads, if anything, and the vector index of its weight (R172). -/
structure TapRead where
  src    : Option (Int × Nat)
  weight : Nat
  deriving DecidableEq, Repr

/-- The taps of output channel `co` at a position, over the group's input channels. -/
def LaneJob.tapsAt (j : LaneJob) (t : ResTile) (c : CoreAt) (p : P3) (co : Nat) : List TapRead :=
  let first := co / j.cog * j.cg
  (List.range (j.g.taps * j.cg)).map (fun n =>
    let tap := n / j.cg
    let ci := n % j.cg
    { src := (j.g.tap p tap).bind (fun i => j.elemAt t c i (first + ci))
      weight := (co * j.cg + ci) * j.g.taps + tap })

/-- The taps of POOL at a position: the window of the same channel. -/
def LaneJob.poolTaps (j : LaneJob) (t : ResTile) (c : CoreAt) (p : P3) (ch : Nat) : List (Option (Int × Nat)) :=
  (List.range j.g.taps).map (fun tap => (j.g.tap p tap).bind (fun i => j.elemAt t c i ch))

/-- The one or two samples of a dimension of RESAMPLE: coordinate and weight over 2f (R174). -/
def samples (linear : Bool) (d : Dim) (o : Int) : List (Int × Nat) :=
  let f := d.u
  if linear then
    let v := 2 * o + 1 - f
    let x0 := v / (2 * f : Nat)
    let w1 := (v % (2 * f : Nat)).toNat
    let clamp (x : Int) : Int := if x < 0 then 0 else if (d.i : Int) - 1 < x then (d.i : Int) - 1 else x
    (if w1 = 2 * f then [] else [(clamp x0, 2 * f - w1)]) ++ (if w1 = 0 then [] else [(clamp (x0 + 1), w1)])
  else [(o / f, 2 * f)]

/-- The sources of RESAMPLE at a position with their exact weights. -/
def LaneJob.sampleReads (j : LaneJob) (t : ResTile) (c : CoreAt) (p : P3) (ch : Nat) :
    List (Option (Int × Nat) × Num) :=
  let lin := match j.kind with | .resample m => m == 1 | _ => false
  let den := 8 * j.g.t.u * j.g.h.u * j.g.w.u
  (samples lin j.g.t p.t).flatMap (fun a => (samples lin j.g.h p.h).flatMap (fun b =>
    (samples lin j.g.w p.w).map (fun d =>
      (j.elemAt t c ⟨a.1, b.1, d.1⟩ ch,
       if lin then .fin false (a.2 * b.2 * d.2) (-(Nat.log2 den : Int)) else .fin false 1 0))))

/-- Every input element that an output element reads. -/
def LaneJob.reads (j : LaneJob) (t : ResTile) (c : CoreAt) (p : P3) (ch : Nat) : List (Option (Int × Nat)) :=
  match j.kind with
  | .vdw => (j.tapsAt t c p ch).map (·.src)
  | .pool _ => j.poolTaps t c p ch
  | .resample _ => (j.sampleReads t c p ch).map (·.1)

/-- The elements of a tile: position if computed, and channel. -/
def LaneJob.elems (j : LaneJob) (t : ResTile) (c : CoreAt) : List (Option P3 × Nat) :=
  (List.range 1024).map (fun n => (j.pos t c (n / 32), 32 * (j.g.firstChan c + t.j) + n % 32))

/-- The input slots that a tile reads. -/
def LaneJob.xSlots (j : LaneJob) (t : ResTile) (c : CoreAt) : List Int :=
  (((j.elems t c).flatMap (fun e => match e.1 with | some p => j.reads t c p e.2 | none => [])).filterMap id).map (·.1)
    |>.eraseDups

/-- The weight slots that a tile of VDW reads. -/
def LaneJob.wSlots (j : LaneJob) (t : ResTile) (c : CoreAt) : List Int :=
  match j.kind with
  | .vdw =>
    let lo := 32 * (j.g.firstChan c + t.j) * j.cg * j.g.taps
    let hi := lo + 32 * j.cg * j.g.taps
    (List.range ((hi + 1023) / 1024 - lo / 1024)).map (fun k => j.w.slotAt c 0 (lo / 1024 + k) 0)
  | _ => []

/-- The bias slot of a tile. -/
def LaneJob.bSlots (j : LaneJob) (t : ResTile) (c : CoreAt) : List (Desc × Int) :=
  j.bias.toList.map (fun d => (d, d.vecSlot c (32 * (j.g.firstChan c + t.j))))

/-- A value as the lanes take it. -/
def asLane (v : Num) : BitVec 32 := (laneOf v).bits

/-- The result of an element, and whether its window was empty. -/
structure LaneOut where
  val   : Num
  sum   : Option Sum
  empty : Bool

/-- POOL of one window: the values its taps read (R173). -/
def poolElem (mode : Nat) (incpad : Bool) (ae : Int) (vals : List (Option Num)) : LaneOut :=
  let got := (vals.filterMap id).map asLane
  if mode = 1 then
    let s := got.foldl (fun s v => s.addNum (f32Num v)) (Sum.none ae)
    let n := if incpad then vals.length else got.length
    if n = 0 then ⟨.nan, some s, true⟩ else ⟨s.value.divNat n, some s, false⟩
  else
    let kind := if mode = 0 then 3 else 5
    match got.foldl (fun b v => contend kind b (v, 0)) none with
    | some b => ⟨f32Num b.1, none, false⟩
    | none => ⟨.nan, none, got.isEmpty⟩

/-- One element of a tile, from the tiles read. -/
def LaneJob.elem (j : LaneJob) (t : ResTile) (c : CoreAt) (xs : List (Int × List Num)) (ws : List Num) (w0 : Nat)
    (bias : Option (List Num)) (p : P3) (ch : Nat) : LaneOut :=
  let read (o : Option (Int × Nat)) : Option Num := o.map (fun q => (tileAt xs q.1).getD q.2 Num.zero)
  match j.kind with
  | .vdw =>
    let s := (j.tapsAt t c p ch).foldl (fun s r =>
      s.addNum (match read r.src with | some v => v.mul (ws.getD (r.weight - w0) Num.zero) | none => Num.zero))
      (Sum.none j.z.ae)
    let s := match bias with | some b => s.addNum (b.getD (ch % 1024) Num.zero) | none => s
    ⟨s.value, some s, false⟩
  | .pool m => poolElem m (j.g.incpad && j.g.pmode == 0) j.z.ae ((j.poolTaps t c p ch).map read)
  | .resample _ =>
    let l := j.sampleReads t c p ch
    ⟨match l with
      | [(o, .fin _ 1 0)] => (read o).getD Num.zero
      | _ => l.foldl (fun a q => a.add (((read q.1).getD Num.zero).mul q.2)) (.fin false 0 0), none, false⟩

/-- The Z slots that a tile writes: its own, or under REGION those of a frame's rows (R177). -/
def LaneJob.rowDest (j : LaneJob) (t : ResTile) (c : CoreAt) (y : Nat) : Option (Int × Nat) :=
  (j.pos t c y).map (fun p =>
    let q := j.outExt.index p
    (j.z.slotAt c (q / 32) (j.g.firstChan c + t.j) (if j.z.tp = 1 then 0 else t.p), q % 32))

/-- Z is written element by element. -/
def LaneJob.byElement (j : LaneJob) : Bool := j.g.region && j.z.halo == 0

/-- The Z slots of a tile. -/
def LaneJob.zSlots (j : LaneJob) (t : ResTile) (c : CoreAt) : List Int :=
  if j.byElement then sourceSlots ((List.range 32).map (j.rowDest t c))
  else [j.z.slotAt c (j.g.firstTile c + t.i) (j.g.firstChan c + t.j) (if j.z.tp = 1 then 0 else t.p)]

/-- The tile element that goes to element `n` of Z slot `u`, when written element by element. -/
def LaneJob.elemSource (j : LaneJob) (t : ResTile) (c : CoreAt) (u : Int) (n : Nat) : Option Nat :=
  ((List.range 32).find? (fun y => j.rowDest t c y == some (u, n / 32))).map (fun y => 32 * y + n % 32)

/-- What a word carries beside the state: the flags of its results. -/
structure LRun where
  st    : State
  fl    : LaneFlags
  empty : Bool
  high  : Bool
  loss  : Bool

/-- The header of an A128 tile of VDW: flags over its elements, the terms of one element (R154). -/
def LaneJob.accOut (j : LaneJob) (outs : List (Option LaneOut)) (old : List Int) : Acc :=
  let sums := outs.filterMap (fun o => o.bind (·.sum))
  { ae := j.z.ae, high := sums.any (·.high), loss := sums.any (·.loss), empty := sums.all (·.empty), f32 := false
    terms := (sums.map (·.terms)).foldl max 0
    vals := (outs.zip old).map (fun p => match p.1 with | some o => (o.sum.map (·.i)).getD 0 | none => p.2) }

/-- What the elements of Z slot `u` receive: results of the tile, +0 beyond the positions of a frame (R158), or
nothing. -/
def LaneJob.slotOuts (j : LaneJob) (t : ResTile) (c : CoreAt) (outs : List (Option LaneOut)) (u : Int) :
    List (Option LaneOut) :=
  if j.byElement then
    let e := j.outExt
    let last := j.z.slotAt c (e.tiles - 1) (j.g.firstChan c + t.j) (if j.z.tp = 1 then 0 else t.p)
    (List.range 1024).map (fun n =>
      match j.elemSource t c u n with
      | some k => outs.getD k none
      | none => if padElem e last u n then some ⟨Num.zero, none, false⟩ else none)
  else outs

/-- A Z slot of a tile: its bytes, which of them the tile means, and the conversions. -/
def LaneJob.slotImage (j : LaneJob) (e : QEnt) (s : State) (src : List (Option LaneOut)) (u : Nat) :
    List Byte × List Bool × Counts :=
  let mine := src.map (fun o => o.isSome || !j.byElement)
  if j.z.fm = .a128 then
    let ints := if j.byElement then (accOfSlot (s.slotBytes u j.z.size)).vals else List.replicate 1024 0
    ((j.accOut src ints).slot, mineBytes 128 mine ++ List.replicate 64 true, {})
  else if j.z.mx || j.z.foil != 0 then
    let p := packSlot j.z.fm j.z.mx j.z.foil (s.draw j.z e.step u 0) (s.draw j.z e.step u 1)
      (src.map (fun o => (o.map (·.val)).getD Num.zero))
    (p.1, List.replicate p.1.length true, p.2)
  else
    let vals := src.map (fun o => if j.byElement then o.map (·.val) else some ((o.map (·.val)).getD Num.zero))
    let p := mergeElems j.z (s.draw j.z e.step u 0) (s.slotBytes u j.z.size) vals
    (p.1, mineBytes j.z.fm.width mine, countConvs p.2)

/-- Write one Z slot of a tile; a slag slot counts in the flags as a written one (R262). -/
def LaneJob.writeZ (j : LaneJob) (e : QEnt) (mask : State) (t : ResTile) (c : CoreAt) (outs : List (Option LaneOut))
    (r : LRun) (u : Int) : LRun :=
  let p := j.slotImage e r.st (j.slotOuts t c outs u) u.toNat
  let r := { r with fl := r.fl.or p.2.2.flags }
  if mask.slagged j.z u then r
  else
    let s := r.st.destsOf e.seq (r.st.slotDests u j.z.size)
    { r with st := (s.noteConv (j.z.foil != 0) p.2.2).writeSome j.kind.blk e.seq c.c u p.1 p.2.1 }

/-- An element that some tap of the tile reads is not finite. -/
def LaneJob.readsNonFinite (j : LaneJob) (t : ResTile) (c : CoreAt) (xs : List (Int × List Num)) : Bool :=
  (j.elems t c).any (fun q => q.1.any (fun p => (j.reads t c p q.2).any (fun o =>
    o.any (fun a => !((tileAt xs a.1).getD a.2 Num.zero).isFin))))

/-- One core runs one output tile. -/
def LaneJob.tile (j : LaneJob) (e : QEnt) (mask : State) (t : ResTile) (c : CoreAt) (r : LRun) : LRun :=
  if j.active t c then
    let rx := State.readTiles 0 c.c j.x (j.xSlots t c) r.st
    let rw := State.readTiles 0 c.c j.w (j.wSlots t c) rx.2
    let w0 := 32 * (j.g.firstChan c + t.j) * j.cg * j.g.taps / 1024 * 1024
    let rb := (j.bSlots t c).foldl (fun (b : Option (List Num) × State) p =>
      let q := b.2.readTile 0 c.c p.1 p.2; (some q.1, q.2)) (none, rw.2)
    let ws := (rw.1.map (·.2)).flatten
    let outs := (j.elems t c).map (fun q => q.1.map (fun p => j.elem t c rx.1 ws w0 rb.1 p q.2))
    let got := outs.filterMap id
    let none_ := (got.filter (·.empty)).length
    let sums := got.filterMap (·.sum)
    let s := { rb.2 with vec := { rb.2.vec with stats := addHi rb.2.vec.stats none_ } }
    let nf := j.kind != .vdw && (j.readsNonFinite t c rx.1 || got.any (fun o => !o.val.isFin))
    let us := j.zSlots t c
    let r := { r with st := s, empty := r.empty || decide (0 < none_), high := r.high || sums.any (·.high)
                      loss := r.loss || sums.any (·.loss), fl := { r.fl with nf := r.fl.nf || nf } }
    let r := us.foldl (j.writeZ e mask t c outs) r
    if us.any (mask.slagged j.z) then { r with st := r.st.slagTiles 1 } else r
  else r

/-- The step of an output tile (R99). -/
def LaneJob.step (j : LaneJob) (e : QEnt) (mask : State) (t : ResTile) : WStep LRun :=
  { tile := t.t
    needs := fun c =>
      if j.active t c then
        (j.xSlots t c).map (rNeed j.x) ++ (j.wSlots t c).map (rNeed j.w) ++ (j.bSlots t c).map (fun p => rNeed p.1 p.2)
          ++ (j.zSlots t c).flatMap (fun u => zNeed j.z u (mask.maskTest j.z u))
      else []
    act := j.tile e mask t }

/-- The summary: the flag word of R150, for VDW with bits [5:0] zero (R154). -/
def LaneJob.summary (j : LaneJob) (r : LRun) : Word :=
  (if j.kind = .vdw then 0 else r.fl.word) ||| putBit 6 r.empty ||| putBit 7 r.high ||| putBit 8 r.loss

/-- The zero extents of a word. -/
def LaneJob.zeroWork (j : LaneJob) : Bool :=
  j.g.emptyIn || j.g.m == 0 || j.g.n == 0 || j.x.tp == 0 || j.z.tq == 0 || j.x.tc == 0 || j.z.tc == 0

/-- Carry out a word that passed its checks. -/
def LaneJob.run (j : LaneJob) (e : QEnt) (s : State) : State :=
  let cores := (s.coresOf j.sect j.z.tq).filter (fun c => !j.g.outsideFrame j.outExt c)
  let s1 := s.noteMasks j.z
    (cores.map (fun c => (j.tiles.filter (fun t => j.active t c)).flatMap (fun t => j.zSlots t c)))
  let s1 := (s1.idleCores j.sect j.z.tq).idleWindows j.sect j.z.tq cores
  let r := runSteps LRun.st cores (j.tiles.map (j.step e s)) ⟨s1, {}, false, false, false⟩
  let t := if j.kind = .vdw then r.st.st.vecDone 0 r.stop.isNone
    else { r.st.st with vec := { r.st.st.vec with flags := r.st.st.vec.flags ||| r.st.fl.word } }
  let t := t.stopFault j.kind.blk e.word r.stop
  t.formSummary e.seq (if r.did.isEmpty then 0 else j.summary r.st)

/-- The effect of a word at issue. -/
def laneConvEffect (kind : LaneConv) (job : State → LaneJob) (a : ArrayArgs) (e : QEnt) (s : State) : State :=
  match laneChecks kind (job s) a s with
  | some f => s.refuse kind.blk e f
  | none => if (job s).zeroWork then s.formSummary e.seq 0 else (job s).run e s

/-- VDW (R154, R172). -/
def execVdw (a : ArrayArgs) (s : State) : Out :=
  arrayCmd 0x62 a (laneConvEffect .vdw (vdwJob a) a) (refuseReserved .vec) s

/-- POOL (R173). -/
def execPool (a : ArrayArgs) (s : State) : Out :=
  arrayCmd 0x48 a (laneConvEffect (poolKind a) (planeJob (poolKind a) a) a) (refuseReserved .ary) s

/-- RESAMPLE (R174). -/
def execResample (a : ArrayArgs) (s : State) : Out :=
  arrayCmd 0x49 a (laneConvEffect (resampleKind a) (planeJob (resampleKind a) a) a) (refuseReserved .ary) s

end Sys2Proof.Machine
end

