-- ==== Sys2Proof/Machine/Copy.lean ====
section
/-! DEFINITION. TCOPY (R195, R197, R198). -/

namespace Sys2Proof.Machine

/-- The fields of a TCOPY. -/
structure CopyJob where
  x   : Desc
  z   : Desc
  hub : Bool
  sec : BitVec 2

/-- The fields of a word. -/
def copyJob (a : ArrayArgs) (s : State) : CopyJob :=
  { x := s.desc (fldN a.a 0 16), z := s.desc (fldN a.c 0 16), hub := a.sec == 3, sec := a.sec }

/-- X and Z agree in TF, MX and FOIL: slots are copied bit for bit. -/
def CopyJob.bits (j : CopyJob) : Bool := j.x.tf == j.z.tf && j.x.mx == j.z.mx && j.x.foil == j.z.foil

/-- The formats of R197. -/
def CopyJob.formatBad (j : CopyJob) : Bool := !j.bits && (j.z.fm == .a128 || j.z.fm == .e8m0 || j.z.fm.isCb)

/-- The extents of R197. -/
def CopyJob.extentBad (j : CopyJob) : Bool := j.x.tr != j.z.tr || j.x.tc != j.z.tc || !(j.x.tp == 1 || j.x.tp == j.z.tp)

/-- The checks of TCOPY in order (R198). -/
def copyChecks (a : ArrayArgs) (s : State) : Option Flaw :=
  let j := copyJob a s
  let big := [j.x, j.z].find? (fun d => decide (s.descCount ≤ d.index))
  let zero := [j.x, j.z].find? (fun d => d.zeroBad false)
  let res := [j.x, j.z].find? (Desc.reservedBad s.fmt.loaded)
  let at_ (o : Option Desc) : Nat := match o with | some d => d.index | none => 0
  firstFlaw
    [(!flgOk a.flg 0 || fldN a.a 16 16 != 0 || a.b != 0 || fldN a.c 16 16 != 0, ⟨0x02, 0, 0x3FF, 0, none⟩),
     (big.isSome, flawIndex 0x10 1 (at_ big)),
     (zero.isSome, flawIndex 0x11 1 (at_ zero)),
     (res.isSome, flawIndex 0x12 1 (at_ res)),
     (j.formatBad, flawIndex 0x15 1 j.z.index),
     (j.extentBad, flawIndex 0x13 1 j.x.index)]

/-- The X slot of a tile. -/
def CopyJob.xSlot (j : CopyJob) (t : ResTile) (c : CoreAt) : Int := j.x.slotAt c t.i t.j (if j.x.tp = 1 then 0 else t.p)

/-- The Z slot of a tile. -/
def CopyJob.zSlot (j : CopyJob) (t : ResTile) (c : CoreAt) : Int := j.z.slotAt c t.i t.j t.p

/-- One core, or the hub, copies one tile. -/
def CopyJob.tile (j : CopyJob) (e : QEnt) (mask : State) (t : ResTile) (c : CoreAt) (s : State) : State :=
  let u := j.zSlot t c
  let slag := mask.maskTest j.z u == some false
  if j.bits then
    let ux := (j.xSlot t c).toNat
    let bs := s.slotBytes ux j.x.size
    let s := s.noteRead 0 ux j.x.size
    if slag then s.slagTiles 1 else (s.destsOf e.seq (s.slotDests u j.z.size)).writeSlot .tmv e.seq c.c u bs
  else
    let r := s.readTile 0 c.c j.x (j.xSlot t c)
    if slag then r.2.slagTiles 1
    else (r.2.destsOf e.seq (s.slotDests u j.z.size)).writeTile .tmv e c.c j.z u r.1

/-- The step of a tile (R99). -/
def CopyJob.step (j : CopyJob) (e : QEnt) (mask : State) (t : ResTile) : WStep State :=
  { tile := t.t
    needs := fun c => rNeed j.x (j.xSlot t c) :: zNeed j.z (j.zSlot t c) (mask.maskTest j.z (j.zSlot t c))
    act := j.tile e mask t }

/-- The place of the hub's one copy: r = k = 0, and no core. -/
def hubAt : CoreAt := ⟨0x3FF, 0, 0, 0⟩

/-- A translation fault with the descriptor at [31:8] (R206). -/
def faultIndex (q : CoreAt × Need) : Flaw := ⟨0x20, 2, q.1.c, 2 ^ 8 * q.2.desc, some (recAddr q.2.u)⟩

/-- Carry out a TCOPY that passed its checks. -/
def CopyJob.run (j : CopyJob) (e : QEnt) (s : State) : State :=
  let t := sectOf j.sec
  let cores := if j.hub then [hubAt] else s.coresOf t j.z.tq
  let tiles := resTiles 0 j.z.tr j.z.tc j.z.tp
  let s1 := s.noteMasks j.z (cores.map (fun c => tiles.map (fun t => j.zSlot t c)))
  let s1 := if j.hub then s1 else s1.idleCores t j.z.tq
  let r := runSteps id cores (tiles.map (j.step e s)) s1
  match r.stop with
  | some q => r.st.flaw .tmv e.word (faultIndex q)
  | none => r.st

/-- Zero extents are zero work. -/
def CopyJob.zeroWork (j : CopyJob) : Bool :=
  j.z.tr == 0 || j.z.tc == 0 || j.z.tp == 0 || (!j.hub && j.z.tq == 0)

/-- The effect of TCOPY at issue. -/
def copyEffect (a : ArrayArgs) (e : QEnt) (s : State) : State :=
  match copyChecks a s with
  | some f => s.refuse .tmv e f
  | none => let j := copyJob a s; if j.zeroWork then s else j.run e s

/-- TCOPY (R197). -/
def execTcopy (a : ArrayArgs) (s : State) : Out := arrayCmd 0x80 a (copyEffect a) (refuseReserved .tmv) s

end Sys2Proof.Machine
end

