-- ==== Sys2Proof/Machine/Launch.lean ====
section
/-! DEFINITION. Launches of bank programs (R239 to R245): the launch record and bank list, BLAUNCH and BWAIT, the start
of a program and the completion of a launch. -/

namespace Sys2Proof.Machine

/-! ## Records (R240, R241) -/

/-- A launch record. -/
structure LaunchRec where
  list   : Nat
  plen   : Nat
  pstart : Nat
  param  : Nat
  budget : Nat
  pwords : Nat
  zeros  : Bool
  deriving DecidableEq, Repr

/-- The fields of a 256-bit entry read as a launch record. -/
def launchRec (w : Wide) : LaunchRec :=
  { list := fldN w 0 48, plen := fldN w 96 16, pstart := fldN w 64 14, param := fldN w 128 48, budget := fldN w 224 32,
    pwords := fldN w 192 4
    zeros := fldN w 48 16 == 0 && fldN w 112 16 == 0 && fldN w 78 18 == 0 && fldN w 176 16 == 0 && fldN w 196 28 == 0 }

/-- PLEN or BUDGET is an invalid zero. -/
def LaunchRec.zeroBad (r : LaunchRec) : Bool := r.plen == 0 || r.budget == 0

/-- Reserved values and alignments, and the range within the `count` bank instructions of the cast. -/
def LaunchRec.layoutBad (r : LaunchRec) (count : Nat) : Bool :=
  !r.zeros || decide (8 < r.pwords) || decide (1024 < r.plen) || r.list % 16 != 0
    || (r.pwords != 0 && r.param % 8 != 0) || decide (count < r.pstart + r.plen)

/-- A bank-list entry. -/
structure BankEntry where
  raw  : Nat
  wrow : Nat
  wlen : Nat
  zero : Nat
  arg  : Word
  deriving DecidableEq, Repr

/-- The device, die and bank of an entry, and the bank number they make. -/
def BankEntry.bank (e : BankEntry) : Nat := 640 * (e.raw / 1024 % 32) + 32 * (e.raw / 32 % 32) + e.raw % 32

/-- The entry of 16 bytes. -/
def bankEntry (l : List Byte) : BankEntry :=
  ⟨leNat (l.take 2), leNat ((l.drop 2).take 2), leNat ((l.drop 4).take 2), leNat ((l.drop 6).take 2),
    BitVec.ofNat 64 (leNat ((l.drop 8).take 8))⟩

/-- The bytes of the entries of a range. -/
def State.listBytes (s : State) (list first n : Nat) : List Byte := (s.readU (list + 16 * first) (16 * n)).getD []

/-- The entries of a range. -/
def State.bankList (s : State) (list first n : Nat) : List BankEntry :=
  let bs := s.listBytes list first n
  (List.range n).map (fun i => bankEntry (chunk 16 i bs))

/-- An entry is in order (R241, order 8 of R243). -/
def BankEntry.ok (e : BankEntry) : Bool :=
  decide (e.raw < 32768) && decide (e.raw / 1024 % 32 < 24) && decide (e.raw / 32 % 32 < 20)
    && decide (e.wrow + e.wlen ≤ 65536) && e.zero == 0

/-- The first entry that is out of order or names a bank again, with its place in the list. -/
def badEntry : List Nat → Nat → List BankEntry → Option (Nat × BankEntry)
  | _, _, [] => none
  | seen, i, e :: t => if !e.ok || seen.contains e.raw then some (i, e) else badEntry (e.raw :: seen) (i + 1) t

/-- The bank instructions of the cast. -/
def State.bprogCount (s : State) : Nat := (s.cast.map (fun c => c.bprog.length)).getD 0

/-- Every instruction of a range is valid. -/
def State.rangeValid (s : State) (pstart plen : Nat) : Bool :=
  (List.range plen).all (fun i => bankValid (s.bprogAt (pstart + i)))

/-! ## Checks of BLAUNCH and BWAIT (R242, R243) -/

/-- A flaw of a bank word: code, cause bit, and the bits above VALID. -/
def bankFlaw (code cause low : Nat) (addr : Option Nat) : Flaw := ⟨code, cause, 0x3FF, low, addr⟩

/-- COMB. -/
def combOf (flg : BitVec 8) : BitVec 2 := fld flg 5 2

/-- The FLG rules of the bank opcodes: COMB 0b11 is refused, [3:0] zero without SUMM. -/
def bankFlgOk (flg : BitVec 8) : Bool := combOf flg != 3 && (bitAt flg 7 || flg &&& 0x0F == 0)

/-- The first untranslated address of the list and then of the parameter words. -/
def State.launchUnmapped (s : State) (r : LaunchRec) (first n : Nat) : Option Nat :=
  (s.lostFor (r.list + 16 * first) (16 * n)).or (s.lostFor r.param (8 * r.pwords))

/-- The check of a BLAUNCH that fails first. -/
def blaunchFlaw (a : ArrayArgs) (s : State) : Option Flaw :=
  let i := fldN a.a 0 16
  let r := launchRec (s.descWide i)
  let first := fldN a.b 0 24
  let n := fldN a.c 0 24
  let lost := s.launchUnmapped r first n
  let bad := badEntry [] 0 (s.bankList r.list first n)
  let at_ := match bad with
    | some q => 2 ^ 47 * (q.2.raw / 1024 % 32) + 2 ^ 42 * (q.2.raw / 32 % 32) + 2 ^ 37 * (q.2.raw % 32) | none => 0
  firstFlaw
    [(a.sec != 3, bankFlaw 0x01 0 0 none),
     (!bankFlgOk a.flg || fldN a.a 20 12 != 0 || fldN a.b 24 8 != 0 || fldN a.c 24 8 != 0, bankFlaw 0x02 0 0 none),
     (decide (s.descCount ≤ i), bankFlaw 0x10 1 0 none),
     (r.zeroBad, bankFlaw 0x11 1 0 none),
     (r.layoutBad s.bprogCount, bankFlaw 0x12 1 0 none),
     (!s.rangeValid r.pstart r.plen, bankFlaw 0x13 1 0 none),
     (lost.isSome, bankFlaw 0x20 2 0 lost),
     (bad.isSome, bankFlaw 0x14 1 at_ none)]

/-! ## Effects -/

/-- What the hub reads for a launch: the list and the parameter words (R227, SRC 2). -/
def State.noteLaunch (s : State) (r : LaunchRec) (first n : Nat) : State :=
  let s := s.noteRead 2 (r.list + 16 * first) (16 * n)
  if r.pwords = 0 then s else s.noteRead 2 r.param (8 * r.pwords)

/-- The parameter words. -/
def State.paramWords (s : State) (r : LaunchRec) : List Word :=
  (List.range r.pwords).map (fun i => (s.readU64 (r.param + 8 * i)).getD 0)

/-- A launch of a word. -/
def State.newLaunch (s : State) (e : QEnt) (tag : BitVec 4) (r : LaunchRec) (first n : Nat) : Launch :=
  { seq := e.seq, tag := tag, pstart := r.pstart, plen := r.plen, budget := r.budget, params := s.paramWords r,
    step := e.step, done := false
    progs := (s.bankList r.list first n).map (fun q => ⟨q.bank, q.wrow, q.wlen, q.arg, .pending⟩) }

/-- A refused word of the bank and update class goes to the unit of its opcode. -/
def refuseBank (e : QEnt) (s : State) : State :=
  if wOpc e.word = 0xA2 ∨ wOpc e.word = 0xA3 then refuseReserved .bnk e s else refuseReserved .upd e s

/-- The effect of BLAUNCH: every bank is queued to start; with WAIT the word waits for the launch. A check that fails on
the list has read it. -/
def blaunchEffect (a : ArrayArgs) (e : QEnt) (s : State) : State :=
  match blaunchFlaw a s with
  | some f =>
    (if f.code = 0x14 then s.noteLaunch (launchRec (s.descWide (fldN a.a 0 16))) (fldN a.b 0 24) (fldN a.c 0 24)
      else s).refuse .bnk e f
  | none =>
    let n := fldN a.c 0 24
    if n = 0 then s.formSummary e.seq 0
    else
      let r := launchRec (s.descWide (fldN a.a 0 16))
      let tag : BitVec 4 := fld a.a 16 4
      let l := s.newLaunch e tag r (fldN a.b 0 24) n
      let s := s.noteLaunch r (fldN a.b 0 24) n
      let s := { s with bnk := { s.bnk with
          launches := s.bnk.launches.filter (fun x => !(x.tag == tag && x.done)) ++ [l] } }
      if bitAt a.flg 4 then (s.holdFor e.seq (.launch e.seq (combOf a.flg))).holdQueueH e.seq else s

/-- BLAUNCH (R242). -/
def execBlaunch (a : ArrayArgs) (s : State) : Out := arrayCmd 0xA0 a (blaunchEffect a) refuseBank s

/-! ## Summaries (R245) -/

/-- The results of the programs that ended by END. -/
def Launch.results (l : Launch) : List Word :=
  l.progs.filterMap (fun p => match p.state with | .ended r _ _ => r | _ => none)

/-- The programs that ended by a fault. -/
def Launch.faults (l : Launch) : Nat :=
  (l.progs.filter (fun p => match p.state with | .ended _ f _ => f | _ => false)).length

/-- The flags over all programs. -/
def Launch.flags (l : Launch) : BitVec 6 :=
  l.progs.foldl (fun f p => match p.state with | .ended _ _ g => f ||| g.bits | _ => f) 0

/-- The value that COMB chooses. -/
def Launch.value (l : Launch) (comb : BitVec 2) : Word :=
  if comb = 0 then
    putAt 48 16 (min l.faults 0xFFFF) ||| putBit 6 (l.faults != 0) ||| l.flags.setWidth 64
  else if comb = 1 then l.results.foldl (· ^^^ ·) 0
  else l.results.foldl (· + ·) 0

/-- The check of a BWAIT that fails first. -/
def bwaitFlaw (a : ArrayArgs) : Option Flaw :=
  firstFlaw
    [(a.sec != 3, bankFlaw 0x01 0 0 none),
     (!bankFlgOk a.flg || bitAt a.flg 4 || fldN a.a 4 28 != 0 || a.b != 0 || a.c != 0, bankFlaw 0x02 0 0 none)]

/-- The effect of BWAIT: on a tag with no launch it delivers 0 at once. -/
def bwaitEffect (a : ArrayArgs) (e : QEnt) (s : State) : State :=
  match bwaitFlaw a with
  | some f => s.refuse .bnk e f
  | none =>
    match (s.bnk.launches.filter (fun l => l.tag == fld a.a 0 4)).getLast? with
    | none => s.formSummary e.seq 0
    | some l =>
      if l.done then s.formSummary e.seq (l.value (combOf a.flg)) else s.holdFor e.seq (.launch l.seq (combOf a.flg))

/-- BWAIT (R242). -/
def execBwait (a : ArrayArgs) (s : State) : Out := arrayCmd 0xA1 a (bwaitEffect a) refuseBank s

/-! ## Starting a program (R222, R231, R239, R244) -/

/-- The banks on which a hub word is at work: each counts as an active bank core (R278, R336). -/
def Bnk.workBanks (b : Bnk) : List Nat :=
  match b.work with
  | some w => (w.tasks.filter (·.started)).map (·.bank)
  | none => []

/-- A TVERIFY is at work on the banks. -/
def Bnk.verifies (b : Bnk) : Bool :=
  match b.work with
  | some w => (match w.kind with | .verify _ => true | _ => false)
  | none => false

/-- Bank cores active on a device. -/
def State.activeOn (s : State) (d : Nat) : Nat :=
  (s.bnk.cores.filter (fun e => e.1 / 640 == d && e.2.run.isSome)).length
    + (s.bnk.workBanks.filter (fun b => b / 640 == d)).length

/-- Bank cores active on the die of a bank. -/
def State.activeDie (s : State) (bank : Nat) : Nat :=
  (s.bnk.cores.filter (fun e => e.1 / 32 == bank / 32 && e.2.run.isSome)).length
    + (s.bnk.workBanks.filter (fun b => b / 32 == bank / 32)).length

/-- The die and the device of a bank have room (R222). -/
def State.hasRoom (s : State) (bank : Nat) : Bool :=
  let l := s.activeLimits (bank / 640)
  decide (s.activeOn (bank / 640) < l.1) && decide (s.activeDie bank < l.2)

/-- An earlier launch of the list has not ended on the bank, or on the tag. -/
def blockedBy (before : List Launch) (l : Launch) (bank : Nat) : Bool :=
  before.any (fun x =>
    (x.tag == l.tag && !x.done)
      || x.progs.any (fun p => p.bank == bank && (match p.state with | .ended _ _ _ => false | _ => true)))

/-- The first pending program on a bank that nothing earlier blocks. -/
def startable (bank : Nat) : List Launch → List Launch → Option (Launch × Prog)
  | _, [] => none
  | before, l :: t =>
    match l.progs.find? (fun p => p.bank == bank && p.state == .pending) with
    | some p => if blockedBy before l bank then none else some (l, p)
    | none => startable bank (before ++ [l]) t

/-- The program that may start next on a bank, slots aside. -/
def State.mayStart (s : State) (bank : Nat) : Option (Launch × Prog) :=
  if s.coreRuns bank then none else startable bank [] s.bnk.launches

/-- The work of the hub word may start on a bank, slots aside: every earlier launch on it has ended (R278, R336). -/
def State.workMayStart (s : State) (bank : Nat) : Bool :=
  match s.bnk.work with
  | some w => w.tasks.any (fun k => !k.started && k.bank == bank) && !s.coreRuns bank
      && !s.bnk.launches.any (fun l => s.progAlive l.seq bank)
  | none => false

/-- A program or the work of a hub word may start on a bank, slots aside. -/
def State.bankWaits (s : State) (bank : Nat) : Bool := (s.mayStart bank).isSome || s.workMayStart bank

/-- The banks that a launch or a hub word names. -/
def Bnk.named (b : Bnk) : List Nat :=
  b.launches.flatMap (fun l => l.progs.map (·.bank)) ++ (b.work.map (fun w => w.tasks.map (·.bank))).getD []

/-- A lower bank of the device waits and has room (R222). -/
def State.lowerWaits (s : State) (bank : Nat) : Bool :=
  s.bnk.named.any (fun b => decide (b < bank) && b / 640 == bank / 640 && s.hasRoom b && s.bankWaits b)

/-- The work of the hub word starts on a bank. -/
def State.startWorkOn (s : State) (bank : Nat) : State :=
  { s with bnk := { s.bnk with work := s.bnk.work.map (fun w =>
      { w with tasks := w.tasks.map (fun k => if k.bank = bank then { k with started := true } else k) }) } }

/-- The registers at the start of a program (R231). -/
def startRegs (l : Launch) (p : Prog) : Vector Word 16 :=
  Vector.ofFn (fun i =>
    match i.val with
    | 1 => p.arg
    | 2 => BitVec.ofNat 64 p.wrow
    | 3 => BitVec.ofNat 64 p.wlen
    | 4 => l.step
    | n => if 8 ≤ n then l.params.getD (n - 8) 0 else 0)

/-- The core at the start of a program; words already sent to it stay in its inbox. -/
def BankCore.start (c : BankCore) (l : Launch) (p : Prog) : BankCore :=
  { c with b := startRegs l p, w := Vector.replicate 32 0, pc := 0, flags := {}, row := none,
           held := some (l.pstart, l.plen), ran := false, serving := none
           run := some { launch := l.seq, tag := l.tag, wrow := p.wrow, wlen := p.wlen, pstart := l.pstart,
                         plen := l.plen, budget := l.budget, count := 0, sent := 0 } }

/-- A core without a running program takes the range of a launch into its store. -/
def BankCore.loaded (c : BankCore) (l : Launch) : BankCore :=
  if c.run.isNone then { c with held := some (l.pstart, l.plen) } else c

/-- The one load of a launch for a device: its range goes into all of the device's target banks at once, where the bank
about to start does not hold it yet (R239). A target bank that an earlier program still occupies takes it when that has
ended (log entry 111). -/
def State.loadRange (s : State) (l : Launch) (bank : Nat) : State :=
  if (s.core bank).held = some (l.pstart, l.plen) then s
  else (l.progs.filter (fun p => p.bank / 640 == bank / 640)).foldl
    (fun s p => s.putCore p.bank ((s.core p.bank).loaded l)) s

/-- The program of a launch, or the work of the hub word, starts on a bank. -/
def State.startOn (s : State) (bank : Nat) : State :=
  match s.mayStart bank with
  | some (l, p) =>
    let t := s.loadRange l bank
    (t.putCore bank ((t.core bank).start l p)).putProg l.seq bank .running
  | none => if s.workMayStart bank then s.startWorkOn bank else s

/-- BANK_PROGRAM_START (R222, R239, R244), of a program or of a hub word's work on a bank (R278, R336): not while an
uncorrectable error awaits its stop (R227). -/
def execBankProgramStart (bank : Nat) (s : State) : Out :=
  whenB (s.mdv.uncorr.isNone && s.hasRoom bank && !s.lowerWaits bank) s (s.startOn bank)

/-! ## Completion (R245, R247) -/

/-- Every program of the launch has ended. -/
def Launch.finished (l : Launch) : Bool := l.progs.all (fun p => match p.state with | .ended _ _ _ => true | _ => false)

/-- The words that wait for a launch form their summaries and may complete. -/
def State.freeLaunch (s : State) (l : Launch) : State :=
  s.sheet.issued.foldl (fun s w =>
    match w.hold with
    | .launch q comb => if q = l.seq then (s.formSummary w.seq (l.value comb)).freeHold w.seq else s
    | _ => s) s

/-- Words of a launch left in inboxes are discarded and counted (R247). -/
def State.dropWords (s : State) (seq : Nat) : State :=
  let b := s.bnk
  let keep (l : List (Nat × Wide)) := l.filter (fun q => q.1 != seq)
  { s with bnk := { b with
      chain := addLo b.chain (b.leftWords [seq])
      cores := smMap BankCore.idle (fun c => { c with inbox := keep c.inbox, flight := keep c.flight }) b.cores } }

/-- LAUNCH_COMPLETE (R245): the oldest launch on the tag that is not complete. -/
def execLaunchComplete (tag : BitVec 4) (s : State) : Out :=
  match s.bnk.launches.find? (fun l => l.tag == tag && !l.done) with
  | none => .next s
  | some l =>
    let t := s.dropWords l.seq
    let t := { t with bnk := { t.bnk with
        done := addLo t.bnk.done 1
        launches := t.bnk.launches.map (fun (x : Launch) => if x.seq = l.seq then { x with done := true } else x) } }
    whenB l.finished s (t.freeLaunch l)

end Sys2Proof.Machine
end

