-- ==== Sys2Proof/Machine/Update.lean ====
section
/-! DEFINITION. The update words (chapter 12): GFLUSH, GDEPOSIT, GHARV and STEPABORT, with the update record, the
ingots of a bank list and the restore of an ingot. -/

namespace Sys2Proof.Machine

/-! ## GFLUSH (R265 to R267, R273) -/

/-- The fields of a GFLUSH. -/
structure FlushJob where
  z      : Desc
  e      : Desc
  scale  : Desc
  escale : Desc
  ns     : Option Desc
  gb     : Nat
  head   : Nat
  sec    : BitVec 2

/-- The fields of a word. -/
def flushJob (a : ArrayArgs) (s : State) : FlushJob :=
  { z := s.desc (fldN a.a 0 16), e := s.desc (fldN a.b 16 16), scale := s.desc (fldN a.b 0 16)
    escale := s.desc (fldN a.c 16 16), ns := if fldN a.c 0 16 = 0xFFFF then none else some (s.desc (fldN a.c 0 16))
    gb := fldN a.a 16 5, head := fldN a.a 29 3, sec := a.sec }

/-- The scale vectors. -/
def FlushJob.vectors (j : FlushJob) : List Desc := [j.scale, j.escale] ++ j.ns.toList

/-- Every descriptor present. -/
def FlushJob.used (j : FlushJob) : List Desc := [j.z, j.e] ++ j.vectors

/-- Check 6: the descriptor whose format breaks R273. -/
def FlushJob.formatBad (j : FlushJob) : Option Nat :=
  if j.z.fm != .int8 || j.z.mx || j.z.foil != 0 then some j.z.index
  else if j.e.layout != j.z.layout || j.e.tf != j.z.tf || j.e.mx || j.e.foil != 0 then some j.e.index
  else (j.vectors.find? (fun v => v.layout != 3 || v.fm != .e8m0 || v.mx || v.foil != 0 || !v.bcast)).map (·.index)

/-- The Z slot of a tile. -/
def FlushJob.zSlot (j : FlushJob) (t : ResTile) (c : CoreAt) : Int := j.z.slotAt c t.i t.j t.p
/-- The E slot of a tile. -/
def FlushJob.eSlot (j : FlushJob) (t : ResTile) (c : CoreAt) : Int := j.e.slotAt c t.i t.j t.p
/-- The number b of a tile in the scale vectors. -/
def FlushJob.block (j : FlushJob) (t : ResTile) (c : CoreAt) : Int := (j.zSlot t c - j.z.uaddr) / 1024

/-- The result tiles. -/
def FlushJob.tiles (j : FlushJob) : List ResTile := resTiles j.gb j.z.tr j.z.tc j.z.tp

/-- The participating cores. -/
def FlushJob.cores (j : FlushJob) (s : State) : List CoreAt := s.coresOf (sectOf j.sec) j.z.tq

/-- The numbers b of the word. -/
def FlushJob.blocks (j : FlushJob) (s : State) : List Int :=
  (j.cores s).flatMap (fun c => j.tiles.map (fun t => j.block t c))

/-- Check 7: the descriptor whose extents break R273. -/
def FlushJob.extentBad (j : FlushJob) (s : State) : Option Nat :=
  if j.e.tr != j.z.tr || j.e.tc != j.z.tc || j.e.tp != j.z.tp then some j.e.index
  else match j.vectors.find? (fun v => v.tr != 1 || v.tp != 1) with
    | some v => some v.index
    | none =>
      if 32 < j.gb + j.z.tr * j.z.tc * j.z.tp then some j.z.index
      else
        let l := j.blocks s
        if l.any (fun b => decide (b < 0)) then some j.z.index
        else (j.vectors.find? (fun v => l.any (fun b => decide ((v.tc * 1024 : Nat) ≤ b)))).map (·.index)

/-- The checks of GFLUSH in order (R280). -/
def gflushChecks (a : ArrayArgs) (s : State) : Option Flaw :=
  let j := flushJob a s
  let big := j.used.find? (fun d => decide (s.descCount ≤ d.index))
  let zero := j.used.find? (fun d => d.zeroBad false)
  let res := j.used.find? (Desc.reservedBad s.fmt.loaded)
  let at_ (o : Option Desc) : Nat := match o with | some d => d.index | none => 0
  firstFlaw
    [(a.sec == 3, ⟨0x01, 0, 0x3FF, 0, none⟩),
     (!flgOk a.flg 0x40 || fldN a.a 21 8 != 0, ⟨0x02, 0, 0x3FF, 0, none⟩),
     (big.isSome, flawIndex 0x10 1 (at_ big)),
     (zero.isSome, flawIndex 0x11 1 (at_ zero)),
     (res.isSome, flawIndex 0x12 1 (at_ res)),
     (j.formatBad.isSome, flawIndex 0x15 1 (j.formatBad.getD 0)),
     ((j.extentBad s).isSome, flawIndex 0x13 1 ((j.extentBad s).getD 0))]

/-- The address of element `b` of a scale vector. -/
def scaleAt (v : Desc) (c : CoreAt) (b : Int) : Int := v.vecSlot c b.toNat + b % 1024

/-- The code of a tile in a scale vector. -/
def State.scaleCode (s : State) (v : Desc) (c : CoreAt) (b : Int) : Nat :=
  match s.transl (scaleAt v c b).toNat with
  | some p => (s.readByte p).toNat
  | none => 0

/-- The tile is non-finite (R265). -/
def FlushJob.nonFinite (j : FlushJob) (t : ResTile) (c : CoreAt) (s : State) : Bool :=
  let b := j.block t c
  let a := s.acc c.c t.t
  a.high || (a.f32 && a.vals.any (fun i => !(fp32Val i.toNat).isFin)) || s.scaleCode j.scale c b == 255 || s.scaleCode j.escale c b == 255

/-- The nearest integer to v / 2^k, ties to even. -/
def rneAt (v : Num) (k : Int) : Int :=
  match v.scale (-k) with
  | .fin s m e => (roundInt none s m e).1
  | _ => 0

/-- One flushed element: q, the new error term, whether each was clamped, and x (R265). -/
structure FlushElem where
  q    : Int
  e    : Int
  gsat : Bool
  esat : Bool
  x    : Num

/-- Flush one element. -/
def flushElem (code ecode : Nat) (g : Num) (e : Nat) : FlushElem :=
  let sigma : Int := (code : Int) - 127
  let x := g.add (Num.ofInt (sext 8 e) ((ecode : Int) - 134))
  let q0 := rneAt x sigma
  let q := min (max q0 (-127)) 127
  let r := x.add (Num.ofInt (-q) sigma)
  let e0 := rneAt r (sigma - 7)
  let e1 := min (max e0 (-128)) 127
  ⟨q, e1, q != q0, e1 != e0, x⟩

/-- The scale proposal of a tile of values x (R266). -/
def proposal (head : Nat) (l : List Num) : Nat :=
  match maxExp l with
  | none => 0
  | some k => (min (max (k - 6 + (head : Int) + 127) 0) 254).toNat

/-- The values g of a tile; zero throughout when EMPTY (R265). -/
def Acc.flushValues (a : Acc) : List Num := if a.empty then List.replicate 1024 Num.zero else a.values

/-- Count a flushed tile: clamps and their cause (R265, R281). -/
def State.countFlush (s : State) (gsat esat : Nat) : State :=
  let u := s.upd
  let s := { s with upd := { u with stats := addLo (addHi u.stats gsat) esat, flush := addLo u.flush 1 } }
  s.raiseIf (decide (0 < gsat) || decide (0 < esat)) .upd 4

/-- A non-finite tile is counted and its cause set. -/
def State.countNonFinite (s : State) : State :=
  ({ s with upd := { s.upd with flush := addLo (addHi s.upd.flush 1) 1 } }).raise .upd 3

/-- Write Z, the error terms and the proposal of a tile. -/
def FlushJob.store (j : FlushJob) (e : QEnt) (keep : Bool) (t : ResTile) (c : CoreAt) (q : List Int)
    (err : Option (List Int)) (code : Nat) (s : State) : State :=
  let bytes (l : List Int) : List Byte := l.map (fun i => BitVec.ofInt 8 i)
  let s := if keep then
      let s := s.writeSlot .upd e.seq c.c (j.zSlot t c) (bytes q)
      match err with
      | some l => s.writeSlot .upd e.seq c.c (j.eSlot t c) (bytes l)
      | none => s
    else s.slagTiles 1
  match j.ns with
  | some v => s.writeSlot .upd e.seq c.c (scaleAt v c (j.block t c)) [BitVec.ofNat 8 code]
  | none => s

/-- Every flushed tile is cleared and keeps its anchor (R267, R101). -/
def State.clearTile (s : State) (c t : Nat) : State :=
  let a := s.acc c t
  s.putAcc c t (Acc.cleared s.fmt.fp32acc a.ae)

/-- One core flushes one tile; the word carries its summary bits beside the state. -/
def FlushJob.tile (j : FlushJob) (e : QEnt) (mask : State) (t : ResTile) (c : CoreAt) (p : State × Word) :
    State × Word :=
  let s := p.1
  let b := j.block t c
  let keep := !(mask.maskTest j.z (j.zSlot t c) == some false)
  let s := (s.noteRead 0 (scaleAt j.scale c b).toNat 1).noteRead 0 (scaleAt j.escale c b).toNat 1
  let code := s.scaleCode j.scale c b
  if j.nonFinite t c s then
    let s := j.store e keep t c (List.replicate 1024 0) none code s
    (s.countNonFinite.clearTile c.c t.t, p.2 ||| 1)
  else
    let r := s.readSlot 0 c.c j.e (j.eSlot t c)
    let l := ((s.acc c.c t.t).flushValues.zip r.1).map
      (fun q => flushElem code (s.scaleCode j.escale c b) q.1 q.2.toNat)
    let gs := (l.filter (·.gsat)).length
    let es := (l.filter (·.esat)).length
    let s := j.store e keep t c (l.map (·.q)) (some (l.map (·.e))) (proposal j.head (l.map (·.x))) r.2
    ((s.countFlush gs es).clearTile c.c t.t, p.2 ||| putBit 1 (gs != 0) ||| putBit 2 (es != 0))

/-- The slots that a core needs at a tile. -/
def FlushJob.needs (j : FlushJob) (mask : State) (t : ResTile) (c : CoreAt) : List Need :=
  let b := j.block t c
  let keep := mask.maskTest j.z (j.zSlot t c)
  let one (d : Desc) (w : Bool) : Need := ⟨scaleAt d c b, 1, w, d.index, false⟩
  let fin := !j.nonFinite t c mask
  [one j.scale false, one j.escale false]
    ++ (if fin then [⟨j.eSlot t c, j.e.size, keep != some false, j.e.index, false⟩] else [])
    ++ zNeed j.z (j.zSlot t c) keep
    ++ j.ns.toList.map (fun v => one v true)

/-- The places that the word writes. -/
def FlushJob.dests (j : FlushJob) (s : State) : List (Nat × Nat) :=
  (j.cores s).flatMap (fun c => j.tiles.flatMap (fun t =>
    accDests c.c t.t ++ s.slotDests (j.zSlot t c) j.z.size ++ s.slotDests (j.eSlot t c) j.e.size
      ++ j.ns.toList.flatMap (fun v => s.slotDests (scaleAt v c (j.block t c)) 1)))

/-- The word under trial reads its scale codes, which decide on what else it needs. -/
def FlushJob.trialScales (j : FlushJob) (s : State) : State :=
  if s.lnk.trial.isNone then s
  else (j.cores s).foldl (fun s c => j.tiles.foldl (fun s t =>
    [j.scale, j.escale].foldl (fun s v => s.trialRead (scaleAt v c (j.block t c)).toNat 1) s) s) s

/-- Carry out a GFLUSH that passed its checks. -/
def FlushJob.run (j : FlushJob) (e : QEnt) (s : State) : State :=
  let cores := j.cores s
  let s0 := ((j.trialScales s).noteMasks j.z (cores.map (fun c => j.tiles.map (fun t => j.zSlot t c)))).idleCores (sectOf j.sec) j.z.tq |>.destsOf e.seq (j.dests s)
  let steps := j.tiles.map (fun t => { tile := t.t, needs := j.needs s t, act := j.tile e s t : WStep (State × Word) })
  let r := runSteps Prod.fst cores steps (s0, 0)
  let t := match r.stop with
    | some q => r.st.1.flaw .upd e.word (faultIndex q)
    | none => r.st.1
  t.formSummary e.seq r.st.2

/-- Zero extents are zero work. -/
def FlushJob.zeroWork (j : FlushJob) : Bool := j.z.tr == 0 || j.z.tc == 0 || j.z.tp == 0 || j.z.tq == 0

/-- The effect of GFLUSH at issue. -/
def gflushEffect (a : ArrayArgs) (e : QEnt) (s : State) : State :=
  match gflushChecks a s with
  | some f => s.refuse .upd e f
  | none => let j := flushJob a s; if j.zeroWork then s.formSummary e.seq 0 else j.run e s

/-- GFLUSH (R272). -/
def execGflush (a : ArrayArgs) (s : State) : Out := arrayCmd 0xA4 a (gflushEffect a) refuseBank s

/-! ## Records and ingots (R270, R271) -/

/-- An update record. -/
structure UpdRec where
  sum   : Nat
  scl   : Nat
  mult  : BitVec 32
  tiles : Nat
  harv  : Nat
  zeros : Bool

/-- The fields of a 256-bit entry read as an update record. -/
def updRec (w : Wide) : UpdRec :=
  { sum := fldN w 0 48, scl := fldN w 64 48, mult := fld w 160 32, tiles := fldN w 128 24, harv := fldN w 192 48
    zeros := fldN w 48 16 == 0 && fldN w 112 16 == 0 && fldN w 152 8 == 0 && fldN w 240 16 == 0 }

/-- Reserved values, alignments and MULT (R271). -/
def UpdRec.layoutBad (r : UpdRec) : Bool :=
  !r.zeros || r.sum % 64 != 0 || r.harv % 64 != 0 || !(f32Num r.mult).isFin || (f32Num r.mult).isZero

/-- The ingots of a list, each by its bank and base row, in the order of R270. -/
def ingotsOf (l : List BankEntry) : List (Nat × Nat) :=
  l.flatMap (fun e => (List.range (e.wlen / 9)).map (fun i => (e.bank, e.wrow + 9 * i)))

/-- The fields of GDEPOSIT, GHARV and STEPABORT. -/
structure HubJob where
  launch : Nat
  update : Option Nat
  rec_   : LaunchRec
  upd    : UpdRec
  first  : Nat
  count  : Nat
  list   : List BankEntry

/-- The fields of a word; STEPABORT names no update record. -/
def hubJob (abort : Bool) (a : ArrayArgs) (s : State) : HubJob :=
  let r := launchRec (s.descWide (fldN a.a 16 16))
  { launch := fldN a.a 16 16, update := if abort then none else some (fldN a.a 0 16), rec_ := r
    upd := updRec (s.descWide (fldN a.a 0 16)), first := fldN a.b 0 24, count := fldN a.c 0 24
    list := s.bankList r.list (fldN a.b 0 24) (fldN a.c 0 24) }

/-- The ingots of the word. -/
def HubJob.ingots (j : HubJob) : List (Nat × Nat) := ingotsOf j.list

/-- The first entry whose WLEN is no multiple of 9, by its index in the whole list. -/
def HubJob.badLen (j : HubJob) : Option Nat := (j.list.findIdx? (fun e => e.wlen % 9 != 0)).map (j.first + ·)

/-- The checks of GDEPOSIT, GHARV and STEPABORT in order (R280). -/
def hubChecks (abort : Bool) (a : ArrayArgs) (s : State) : Option Flaw :=
  let j := hubJob abort a s
  let present := [j.launch] ++ j.update.toList
  let big := present.find? (fun i => decide (s.descCount ≤ i))
  let lost := s.lostFor (j.rec_.list + 16 * j.first) (16 * j.count)
  let bad := badEntry [] 0 j.list
  let at_ := j.first + (match bad with | some q => q.1 | none => 0)
  firstFlaw
    [(a.sec != 3, ⟨0x01, 0, 0x3FF, 0, none⟩),
     (!flgOk a.flg 0 || (abort && fldN a.a 0 16 != 0) || fldN a.b 24 8 != 0 || fldN a.c 24 8 != 0,
        ⟨0x02, 0, 0x3FF, 0, none⟩),
     (big.isSome, flawIndex 0x10 1 (big.getD 0)),
     (j.rec_.zeroBad, flawIndex 0x11 1 j.launch),
     (j.rec_.layoutBad (2 ^ 15), flawIndex 0x12 1 j.launch),
     (!abort && j.upd.layoutBad, flawIndex 0x12 1 (j.update.getD 0)),
     (lost.isSome, { flawIndex 0x20 2 j.launch with addr := lost }),
     (j.badLen.isSome, flawIndex 0x13 1 (j.badLen.getD 0)),
     (!abort && j.ingots.length != 2 * j.upd.tiles, flawIndex 0x13 1 (j.update.getD 0)),
     (bad.isSome, flawIndex 0x14 1 at_)]

/-! ## GDEPOSIT and GHARV (R274) -/

/-- The outcome of one ingot's move. -/
inductive Moved where
  | ok (s : State)
  | lost (u : Nat)

/-- The bytes of row 8 of an ingot: the G32 elements scaled to FP32. -/
def depositRow (mult : BitVec 32) (code : Nat) (elems : List Byte) : List Byte :=
  (List.range 512).flatMap (fun p =>
    let v := Num.ofInt (sext 32 (leNat (chunk 4 p elems))) ((code : Int) - 127)
    leBytes 4 (if code = 255 then 0x7FC00000 else (convertTo .fp32 none (v.mul (f32Num mult))).bits))

/-- Write whole bytes of a row as a hub unit, unless a running working window holds the row (R225). -/
def State.writeRow (s : State) (bank row : Nat) (bs : List Byte) : State :=
  let p := bankAddr bank row 0
  match s.windowHit [p] with
  | some q => s.refuseWindow 2 q
  | none => s.storeRun .tier p bs

/-- The deposit of ingot `i` from its tile of the sum and its scale code, where both were read. -/
def depositFrom (r : UpdRec) (i bank base : Nat) (s : State) : Option (List Byte) → Option (List Byte) → Moved
  | some bs, some code =>
    let t := i / 2
    let u := r.sum + 4096 * t
    let s := if i % 2 = 0 then (s.noteRead 2 u 4096).noteRead 2 (r.scl + t) 1 else s
    let row := depositRow r.mult (leNat code) ((bs.drop (2048 * (i % 2))).take 2048)
    let s := s.writeRow bank (base + 8) row
    .ok (if i % 2 = 1 then { s with upd := { s.upd with moved := addLo s.upd.moved 1 } } else s)
  | none, _ => .lost ((s.firstUnmapped (r.sum + 4096 * (i / 2)) 4096).getD (r.sum + 4096 * (i / 2)))
  | _, none => .lost (r.scl + i / 2)

/-- GDEPOSIT of ingot `i`. -/
def depositIngot (r : UpdRec) (i bank base : Nat) (s : State) : Moved :=
  depositFrom r i bank base s (s.readFor (r.sum + 4096 * (i / 2)) 4096) (s.readFor (r.scl + i / 2) 1)

/-- The bytes of a harvested ingot go to their place; the second ingot of a pair counts. -/
def harvestPut (seq : Nat) (r : UpdRec) (i : Nat) (bs : List Byte) (s : State) : Moved :=
  match s.writeU (.word seq .upd) 2 0x3FF (r.harv + 2048 * (i / 2) + 1024 * (i % 2)) bs with
  | .ok t => .ok (if i % 2 = 1 then { t with upd := { t.upd with moved := addHi t.upd.moved 1 } } else t)
  | .fault u => .lost u

/-- GHARV of ingot `i`. -/
def harvestIngot (seq : Nat) (r : UpdRec) (i bank base : Nat) (s : State) : Moved :=
  let p := bankAddr bank base 0
  harvestPut seq r i (s.readBytes p 1024) (s.noteMem .tier none ((List.range 1024).map (p + ·)))

/-- Move the ingots of a word in order, up to the first that meets a translation fault (R99). -/
def moveIngots (f : Nat → Nat → Nat → State → Moved) (e : QEnt) (record : Nat) :
    Nat → List (Nat × Nat) → State → State
  | _, [], s => s
  | i, q :: t, s =>
    match f i q.1 q.2 s with
    | .ok s => moveIngots f e record (i + 1) t s
    | .lost u => s.flaw .upd e.word { flawIndex 0x20 2 record with addr := some u }

/-- The list read of a word, made as tier-manager traffic. -/
def HubJob.noteList (j : HubJob) (s : State) : State :=
  if j.count = 0 then s else s.noteRead 2 (j.rec_.list + 16 * j.first) (16 * j.count)

/-- A word with a list is refused; a check that fails on the list has read it. -/
def HubJob.refused (j : HubJob) (b : Blk) (e : QEnt) (x : Flaw) (s : State) : State :=
  (if x.code = 0x13 ∨ x.code = 0x14 then j.noteList s else s).refuse b e x

/-- The effect of GDEPOSIT or GHARV: `f` moves an ingot, `d` gives the places it writes. -/
def moveEffect (f : QEnt → HubJob → Nat → Nat → Nat → State → Moved)
    (d : HubJob → State → List (Nat × Nat)) (a : ArrayArgs) (e : QEnt) (s : State) : State :=
  match hubChecks false a s with
  | some x => (hubJob false a s).refused .upd e x s
  | none =>
    let j := hubJob false a s
    let s := ((j.noteList s).holdQueueH e.seq).destsOf e.seq (d j s)
    moveIngots (f e j) e (j.update.getD 0) 0 j.ingots s

/-- The effect of GDEPOSIT at issue. -/
def gdepositEffect (a : ArrayArgs) (e : QEnt) (s : State) : State :=
  moveEffect (fun _ j => depositIngot j.upd) (fun j _ => j.ingots.map (fun q => (bankAddr q.1 (q.2 + 8) 0, 2048))) a e s

/-- GDEPOSIT (R272, R274). -/
def execGdeposit (a : ArrayArgs) (s : State) : Out := arrayCmd 0xA5 a (gdepositEffect a) refuseBank s

/-- The effect of GHARV at issue. -/
def gharvEffect (a : ArrayArgs) (e : QEnt) (s : State) : State :=
  moveEffect (fun e j => harvestIngot e.seq j.upd) (fun j s => s.slotDests j.upd.harv (2048 * j.upd.tiles)) a e s

/-- GHARV (R272, R274). -/
def execGharv (a : ArrayArgs) (s : State) : Out := arrayCmd 0xA6 a (gharvEffect a) refuseBank s

/-! ## The restore (R249, R276) -/

/-- Bytes of a row of a bank. -/
def State.rowBytes (s : State) (bank row off n : Nat) : List Byte := s.readBytes (bankAddr bank row off) n

/-- The bytes that follow H column `j` in the CRC of slot `t` of an ingot (R249). -/
def State.slotColumn (s : State) (bank base t j : Nat) : List Byte :=
  let r := base + 3 * t
  s.rowBytes bank (r + 4) (32 * j) 32 ++ s.rowBytes bank (r + 2) (64 * j) 64 ++ s.rowBytes bank (r + 3) (64 * j) 64
    ++ s.rowBytes bank (r + 4) (1024 + 16 * j) 16

/-- Column `j` of ring entry `k` (R248). -/
def State.ringColumn (s : State) (bank base k j : Nat) : List Byte :=
  match k with
  | 0 => s.rowBytes bank base (1024 + 32 * j) 32
  | 1 => s.rowBytes bank (base + 1) (32 * j) 32
  | _ => s.rowBytes bank (base + 1) (1024 + 32 * j) 32

/-- The CRC of slot `t` with the first `n` columns of H taken from ring entry `k`. -/
def State.candidateCrc (s : State) (bank base t k n : Nat) : Word :=
  crc64 0 ((List.range 32).flatMap (fun j =>
    (if j < n then s.ringColumn bank base k j else s.rowBytes bank base (32 * j) 32) ++ s.slotColumn bank base t j))

/-- The numbers of ring columns tried, in the order of R276: candidate j takes j + 1 of them. -/
def candidateOrder : List Nat := [0, 32] ++ (List.range 31).map (· + 1)

/-- How a restore ends. -/
inductive Restored where
  | kept | rolled | repaired | mismatch
  deriving DecidableEq, Repr

/-- Put `n` ring columns into row 0. -/
def State.ringToRow0 (s : State) (bank base k n : Nat) : State :=
  s.storeRun .bankCore (bankAddr bank base 0) ((List.range n).flatMap (s.ringColumn bank base k))

/-- Put eight bytes of a row. -/
def State.putRowWord (s : State) (bank row off : Nat) (v : Word) : State :=
  s.storeRun .bankCore (bankAddr bank row off) (leBytes 8 v.toNat)

/-- The commit word of the step before `t`, with slot `a` current. -/
def stepBefore (a t : Nat) : Word := putAt 63 1 a ||| BitVec.ofNat 64 ((t + 2 ^ 63 - 1) % 2 ^ 63)

/-- The restoring of an ingot once its matching candidate, if any, is found: `done` where the ring already holds the
step's commit, `a` the slot its row checks are read from, `k` the ring's place of the step. -/
def restoreFrom (bank base t63 a k : Nat) (done : Bool) (s : State) : Option Nat → Restored × State
  | none => (.mismatch, s)
  | some n =>
    let s := s.ringToRow0 bank base k n
    if done then
      (.rolled, s.putRowWord bank (base + 4) 1536 (stepBefore a t63))
    else (if n = 0 then .kept else .repaired, s)

/-- The restore of one ingot for step `t` (R276). -/
def restoreIngot (t : Word) (bank base : Nat) (s : State) : Restored × State :=
  let commit := BitVec.ofNat 64 (leNat (s.rowBytes bank (base + 4) 1536 8))
  let slot := fldN commit 63 1
  let t63 := t.toNat % 2 ^ 63
  let done := fldN commit 0 63 == t63
  let a := if done then 1 - slot else slot
  let stored := BitVec.ofNat 64 (leNat (s.rowBytes bank (base + 4 + 3 * a) 1568 8))
  let k := t.toNat % 3
  restoreFrom bank base t63 a k done s (candidateOrder.find? (fun n => s.candidateCrc bank base a k n == stored))

/-! ## The work of hub words on banks (R278, R336) -/

/-- The work of a range on its banks, entry by entry from the `i`th of the list and the `n`th ingot of the range; an entry
without ingots is no work. -/
def tasksFrom : Nat → Nat → List BankEntry → List BankTask
  | _, _, [] => []
  | i, n, e :: t =>
    let k := e.wlen / 9
    let rest := tasksFrom (i + 1) (n + k) t
    if k = 0 then rest
    else ⟨e.bank, i, e.wrow, e.wlen, (List.range k).map (fun j => (n + j, e.wrow + 9 * j)), false⟩ :: rest

/-- A hub word begins its work on the banks of its list; on each bank the work starts by BANK_PROGRAM_START. -/
def State.startWork (s : State) (e : QEnt) (k : HubKind) (j : HubJob) : State :=
  let w : HubWork := { ent := e, kind := k, total := j.ingots.length, tasks := tasksFrom j.first 0 j.list }
  ({ s with bnk := { s.bnk with work := some w } }).holdFor e.seq .banks

/-- The addresses of the rows of an ingot. -/
def ingotAddrs (bank row : Nat) : List Nat :=
  (List.range 9).flatMap (fun j => (List.range 2048).map (bankAddr bank (row + j) 0 + ·))

/-! ## STEPABORT (R278) -/

/-- UPD_RESTORE after one more ingot. -/
def countRestore (w : Word) (r : Restored) : Word :=
  match r with
  | .mismatch => setFld w 48 16 (min (fldN w 48 16 + 1) 0xFFFF)
  | .rolled => setFld w 24 24 (min (fldN w 24 24 + 1) 0xFFFFFF)
  | .repaired => setFld w 0 24 (min (fldN w 0 24 + 1) 0xFFFFFF)
  | .kept => w

/-- The tally after one more ingot. -/
def Tally.add (t : Tally) : Restored → Tally
  | .mismatch => { t with mismatch := t.mismatch + 1 }
  | .rolled => { t with rolled := t.rolled + 1 }
  | .repaired => { t with repaired := t.repaired + 1 }
  | .kept => t

/-- Restore the ingot at a row of the bank of the entry with index `i`; the word goes on where no candidate matches. The
reads are the bank core's (log entry 123). -/
def abortIngot (e : QEnt) (i bank row : Nat) (s : State) : State × Restored :=
  let r := restoreIngot e.step bank row (s.noteCode .bankCore none (ingotAddrs bank row))
  let s := { r.2 with upd := { r.2.upd with restore := countRestore r.2.upd.restore r.1 } }
  (if r.1 = .mismatch then s.flaw .upd e.word { flawIndex 0x38 6 i with addr := some (bankAddr bank row 0) } else s, r.1)

/-- The summary of a STEPABORT. -/
def Tally.word (t : Tally) : Word :=
  putAt 48 16 (min t.mismatch 0xFFFF) ||| putAt 24 24 (min t.rolled 0xFFFFFF) ||| putAt 0 24 (min t.repaired 0xFFFFFF)

/-- The effect of STEPABORT at issue: the record of it, and the work on the banks. An empty range is zero work, and a range
without ingots is done at once. -/
def abortEffect (a : ArrayArgs) (e : QEnt) (s : State) : State :=
  match hubChecks true a s with
  | some x => (hubJob true a s).refused .upd e x s
  | none =>
    let j := hubJob true a s
    if j.count = 0 then s.formSummary e.seq 0
    else
      let s := (j.noteList s).holdQueueH e.seq
      let s := ({ s with upd := { s.upd with last := putBit 63 true ||| (e.step &&& 0x7FFFFFFFFFFFFFFF) } }).raise .upd 5
      if j.ingots.isEmpty then s.formSummary e.seq 0 else s.startWork e .abort j

/-- STEPABORT (R278). -/
def execStepabort (a : ArrayArgs) (s : State) : Out := arrayCmd 0xA7 a (abortEffect a) refuseBank s

end Sys2Proof.Machine
end

