-- ==== Sys2Proof/Machine/Twins.lean ====
section
/-! DEFINITION. The twin unit and the step timers (chapter 15): soldering, mirror images and control transfers, the words
of class 0xD0 to 0xDF, the range-digest engine. -/

namespace Sys2Proof.Machine

/-! ## MIRR frames (R332) -/

/-- Send one MIRR frame on P6. -/
def State.sendMirr (s : State) (tag off : Nat) (last : Bool) (payload : List Byte) : State :=
  s.sendOn 6 11 (s.ownHdr s.twn.twin tag off 8 last) (padTo 512 payload)

/-- Take the next transfer number. -/
def State.nextMirr (s : State) : State := { s with twn := { s.twn with nextTag := (s.twn.nextTag + 1) % 8192 } }

/-- KIND of a control transfer. -/
inductive MirrKind where
  | solder | unsolder | digest | verify

/-- The code of a KIND. -/
def MirrKind.code : MirrKind → Byte
  | .solder => 1 | .unsolder => 2 | .digest => 3 | .verify => 4

/-- Send a control transfer; its data lies from byte 8 onward. -/
def State.sendControl (s : State) (k : MirrKind) (data : List Byte) : State :=
  (s.sendMirr s.twn.nextTag 65 true (padTo 8 [k.code] ++ data)).nextMirr

/-- `n` MIRR frames have come in order on P6 as the command `cmd` (R288, R297). -/
def State.mirrIn (s : State) (n : Nat) (cmd : Instr) (waits : Bool) (act : State → State) : State :=
  s.arrive 6 n (channelOf 11 false) cmd waits act

/-! ## Soldering (R329, R330) -/

/-- The aperture onto the twin with number `a`. -/
def twinEntry (a : Nat) : Word := putAt 60 4 0xE ||| putAt 13 29 (0x1000000 + 0x100000 * a)

/-- Both SOLDER transfers have passed: the pair is SOLDERED and its apertures open. -/
def State.soldered (s : State) : State :=
  let aps := (List.range 30).foldl (fun m a => smPut 0 m a (twinEntry a)) s.lnk.aps
  { s with lnk := { s.lnk with aps := aps }
           twn := { s.twn with pair := .soldered, twin := (s.port 6).neigh, sentS := false, gotS := false } }

/-- The conditions that soldering and unsoldering share. -/
def State.mayUnsolder (s : State) : Bool := s.loadMap && s.stopped .twn

/-- SOLDER written to TWN_CTRL (R329). -/
def State.startSolder (s : State) : State :=
  if s.twn.pair == .single && (s.port 6).isUp && s.mayUnsolder then
    let s := ({ s with twn := { s.twn with pair := .soldering, sentS := true } }).sendControl .solder []
    if s.twn.gotS then s.soldered else s
  else s.raise .twn 8

/-- UNSOLDER written to TWN_CTRL (R330). -/
def State.unsolder (s : State) : State :=
  if s.twn.pair == .soldered && s.mayUnsolder then
    let s := s.closeTwinAps.twinWordsLost
    let s := if (s.port 6).isUp then s.sendControl .unsolder [] else s
    { s with twn := { s.twn with pair := .single } }
  else s.raise .twn 8

/-- RESUME written to TWN_CTRL (R338): a waiting THOLD completes. -/
def State.resumeHold (s : State) (decision : BitVec 32) : State :=
  match s.twn.hold with
  | none => s
  | some q =>
    let s := s.endTwinWord q decision.toNat
    let s := { s with twn := { s.twn with hold := none } }
    if s.tim.opened then { s with tim := { s.tim with cur := s.tim.cur.set 11 (s.tim.cur[11] ||| 4) } } else s

/-- SOLDER_TIMEOUT (R329). -/
def execSolderTimeout (s : State) : Out :=
  whenB (s.twn.pair == .soldering) s
    (({ s with twn := { s.twn with pair := .single, sentS := false } }).raise .twn 8)

/-- SOLDER_TRANSFER (R329); one that comes before this module has sent its own is remembered (log entry 43). -/
def execSolderTransfer (s : State) : Out :=
  .next (s.mirrIn 1 .solderTransfer false (fun s =>
    let t := { s with twn := { s.twn with gotS := true } }
    if s.twn.pair == .soldering then t.soldered else if s.twn.pair == .single then t else s))

/-- UNSOLDER_TRANSFER (R330). -/
def execUnsolderTransfer (s : State) : Out := .next (s.mirrIn 1 .unsolderTransfer false State.loseTwin)

/-! ## Mirror images (R332 to R334) -/

/-- MOFF in force. -/
def State.moff (s : State) : Nat := fldN s.twn.set.current 0 16

/-- The bank that an image names, by its number; none where the encoding names no bank. -/
def imageBank (raw : BitVec 16) : Option Nat :=
  let n := raw.toNat
  if n < 32768 ∧ n / 1024 % 32 < 24 ∧ n / 32 % 32 < 20 then some (640 * (n / 1024 % 32) + 32 * (n / 32 % 32) + n % 32)
  else none

/-- Why an image is refused: 1 its rows, 2 a working window (R333). -/
def State.imageRefusal (s : State) (m : MirrorImage) : Option Nat :=
  match imageBank m.bank with
  | none => some 1
  | some b =>
    let r := m.row.toNat + s.moff
    if 65535 < r + 8 then some 1
    else if (s.windowHit ((List.range 9).map (fun j => bankAddr b (r + j) 0))).isSome then some 2
    else none

/-- The nine rows of an image in the order in which they are applied (R333). Row 4 holds the commit word, which comes
last; each row is written whole. -/
def imageOrder (commit : Word) : List Nat :=
  if bitAt commit 63 then [1, 8, 2, 3, 5, 6, 7, 0, 4] else [1, 8, 5, 6, 7, 2, 3, 0, 4]

/-- The first addresses of the rows that an image writes. -/
def State.imageRows (s : State) (m : MirrorImage) : List Nat :=
  (List.range 9).map (fun j => bankAddr ((imageBank m.bank).getD 0) (m.row.toNat + s.moff + j) 0)

/-- Apply an image. -/
def State.applyImage (s : State) (m : MirrorImage) : State :=
  let b := (imageBank m.bank).getD 0
  let r := m.row.toNat + s.moff
  let ps := s.imageRows m
  let s := (imageOrder m.commit).foldl (fun s j =>
    s.storeRun .remote (bankAddr b (r + j) 0) (padTo 2048 (m.rows.getD j []))) s
  ({ s with twn := { s.twn with mirror := addLo s.twn.mirror 1 } }).touchPlaces ps

/-- An image waits while TWN_FN does not run (R333); one that is not refused waits as a hub write to its rows does (R188,
R223, R230). -/
def State.imageWaits (s : State) (m : MirrorImage) : Bool :=
  !s.running .twn || ((s.imageRefusal m).isNone
    && (s.stopped .mdv || s.bankBusy .hubWrite (s.imageRows m) || s.placeMoves (s.imageRows m)))

/-- Acknowledge an image. -/
def State.ackImage (s : State) (tag : BitVec 13) (status : Nat) : State :=
  s.sendMirr tag.toNat 64 true (leBytes 2 status)

/-- An image is applied or refused, and acknowledged (R333). -/
def State.takeImage (s : State) (tag : BitVec 13) (m : MirrorImage) : State :=
  match s.imageRefusal m with
  | none => (s.applyImage m).ackImage tag 0
  | some c => (({ s with twn := { s.twn with refused := addLo s.twn.refused 1 } }).raise .twn 3).ackImage tag c

/-- MIRROR_IMAGE (R333). -/
def execMirrorImage (tag : BitVec 13) (m : MirrorImage) (s : State) : Out :=
  .next (s.mirrIn 37 (.mirrorImage tag m) (s.imageWaits m) (fun s => s.takeImage tag m))

/-- One image of a job is acknowledged. -/
def MirrorJob.ack (j : MirrorJob) (tag : Nat) (bad : Bool) : MirrorJob :=
  { j with tags := j.tags.erase tag, refused := j.refused + bad.toNat }

/-- Every image of the range has been sent and acknowledged. -/
def MirrorJob.over (j : MirrorJob) : Bool := j.tags.isEmpty && j.unsent == 0

/-- The image with a TAG is acknowledged; the last of a range completes its TMIRROR. -/
def State.takeAck (s : State) (tag : Nat) (status : BitVec 16) : State :=
  match s.twn.jobs.find? (fun j => j.tags.contains tag) with
  | none => s
  | some j =>
    let k := j.ack tag (status != 0)
    let rest := s.twn.jobs.filter (fun x => x.seq != j.seq)
    let t := { s with twn := { s.twn with
      jobs := if k.over then rest else rest ++ [k]
      refused := if status = 0 then s.twn.refused else addHi s.twn.refused 1 } }
    if k.over then t.endTwinWord k.seq k.refused else t

/-- MIRROR_ACK (R334). -/
def execMirrorAck (tag : BitVec 13) (status : BitVec 16) (s : State) : Out :=
  .next (s.mirrIn 1 (.mirrorAck tag status) false (fun s => s.takeAck tag.toNat status))

/-! ## Digests (R335) -/

/-- The digest of the ingot at a row of a bank, and the CRC that is stored for its committed slot. -/
def State.ingotDigest (s : State) (bank row : Nat) : Word × Word :=
  let commit := BitVec.ofNat 64 (leNat (s.rowBytes bank (row + 4) 1536 8))
  let slot := fldN commit 63 1
  (s.candidateCrc bank row slot 0 0, BitVec.ofNat 64 (leNat (s.rowBytes bank (row + 4 + 3 * slot) 1568 8)))

/-- The rows of an ingot, or of its mirror, end within the bank. -/
def rowsFit (row : Nat) : Bool := decide (row + 8 ≤ 65535)

/-- The reads of an ingot's rows by the hub. -/
def State.noteIngot (s : State) (bank row : Nat) : State :=
  (s.noteUnsealed 2 ((List.range 9).map (fun j => bankAddr bank (row + j) 0))).noteCode .tier none (ingotAddrs bank row)

/-- The digest of an ingot, with a digest that differs from the stored CRC counted if `check` is set. A mirror beyond
the last row has no digest: it is a free value (log entry 44). -/
def State.takeDigest (s : State) (check : Bool) (bank row : Nat) : State × Word :=
  if rowsFit row then
    let d := s.ingotDigest bank row
    let s := s.noteIngot bank row
    if check && d.1 != d.2 then
      let c := s.twn.divcnt
      let s := { s with twn := { s.twn with divcnt := setFld c 48 16 (min (fldN c 48 16 + 1) 0xFFFF) } }
      (s.raise .twn 4, d.1)
    else (s, d.1)
  else (s.drawn, Config.freeWord s.fresh)

/-- The CRC of a 64-byte line with its U-address (R335). -/
def lineDigest (u : Nat) (bs : List Byte) : Word := crc64 0 (leBytes 8 u ++ bs)

/-- The range digest of `n` lines from `u`, up to the first line that is not translated or that its target refuses. -/
def State.rangeDigest (s : State) (u : Nat) : Nat → Word → Word × Option Nat
  | 0, d => (d, none)
  | n + 1, d =>
    match s.readFor u 64 with
    | none => (d, some u)
    | some bs => s.rangeDigest (u + 64) n (d ^^^ lineDigest u bs)

/-! ## Checks (R336, R339) -/

/-- The words that need a twin. -/
def needsTwin (opc : Nat) (a : ArrayArgs) : Bool :=
  opc == 0xD0 || (opc == 0xD2 && bitAt a.flg 6) || opc == 0xD3 || opc == 0xD4

/-- FLG and the fields of a word with a list. -/
def twinListFields (opc : Nat) (a : ArrayArgs) : Bool :=
  flgOk a.flg (if opc = 0xD2 then 0x40 else 0) && fldN a.b 24 8 == 0 && fldN a.c 24 8 == 0
    && (if opc = 0xD7 then true
        else if opc = 0xD1 then
          fldN a.a 0 8 == 0 && decide (32 ≤ fldN a.a 8 8) && decide (fldN a.a 8 8 ≤ 226)
        else fldN a.a 0 16 == 0)

/-- FLG and the fields of a word without a list. -/
def twinPlainFields (opc : Nat) (a : ArrayArgs) : Bool :=
  flgOk a.flg 0 && a.b == 0 && a.c == 0
    && (match opc with
        | 0xD3 => fldN a.a 8 24 == 0
        | 0xD5 => fldN a.a 16 16 == 0
        | 0xD6 => fldN a.a 1 31 == 0
        | _ => a.a == 0 && bitAt a.flg 7)

/-- A snapshot record is in order (R344). -/
def snapBad (w : Wide) : Bool :=
  fldN w 48 16 != 0 || fldN w 0 48 % 64 != 0 || bitAt w 127 || fldN w 128 64 != 0 || fldN w 192 64 != 0

/-- The checks of a word with a list, in the order of R280. -/
def twinListChecks (opc : Nat) (a : ArrayArgs) (s : State) : Option Flaw :=
  let j := hubJob true a s
  let snap := opc == 0xD7
  let present := [j.launch] ++ (if snap then [fldN a.a 0 16] else [])
  let big := present.find? (fun i => decide (s.descCount ≤ i))
  let lost := s.lostFor (j.rec_.list + 16 * j.first) (16 * j.count)
  let bad := badEntry [] 0 j.list
  let at_ := j.first + (match bad with | some q => q.1 | none => 0)
  firstFlaw
    [(a.sec != 3, ⟨0x01, 0, 0x3FF, 0, none⟩),
     (!twinListFields opc a, ⟨0x02, 0, 0x3FF, 0, none⟩),
     (needsTwin opc a && s.twn.pair != .soldered && !s.alone, ⟨0x30, 0, 0x3FF, 0, none⟩),
     (big.isSome, flawIndex 0x10 1 (big.getD 0)),
     (j.rec_.zeroBad, flawIndex 0x11 1 j.launch),
     (j.rec_.layoutBad (2 ^ 15), flawIndex 0x12 1 j.launch),
     (snap && snapBad (s.descWide (fldN a.a 0 16)), flawIndex 0x12 1 (fldN a.a 0 16)),
     (lost.isSome, { flawIndex 0x20 2 j.launch with addr := lost }),
     (j.badLen.isSome, flawIndex 0x13 1 (j.badLen.getD 0)),
     (bad.isSome, flawIndex 0x14 1 at_)]

/-- The checks of a word without a list; TRDIG also checks X. -/
def twinPlainChecks (opc : Nat) (a : ArrayArgs) (s : State) : Option Flaw :=
  let x := s.desc (fldN a.a 0 16)
  let isX := opc == 0xD5
  firstFlaw
    [(a.sec != 3, ⟨0x01, 0, 0x3FF, 0, none⟩),
     (!twinPlainFields opc a, ⟨0x02, 0, 0x3FF, 0, none⟩),
     (needsTwin opc a && s.twn.pair != .soldered && !s.alone, ⟨0x30, 0, 0x3FF, 0, none⟩),
     (isX && decide (s.descCount ≤ x.index), flawIndex 0x10 1 x.index),
     (isX && x.zeroBad false, flawIndex 0x11 1 x.index),
     (isX && x.reservedBad s.fmt.loaded, flawIndex 0x12 1 x.index),
     (isX && !((x.layout == 0 || x.layout == 3) && x.rp == 0 && x.bcast), flawIndex 0x15 1 x.index)]

/-- The effect of a word with a list at issue: one that passes its checks begins its work on the banks, which `run` sets
up. A range without ingots is done at once. -/
def twinListEffect (opc : BitVec 8) (a : ArrayArgs) (run : HubJob → QEnt → State → State) (e : QEnt) (s : State) : State :=
  let j := hubJob true a s
  match twinListChecks opc.toNat a s with
  | some f => j.refused .twn e f s
  | none =>
    if j.count = 0 || (needsTwin opc.toNat a && s.alone) then s.formSummary e.seq 0
    else
      let s := (j.noteList s).holdQueueH e.seq
      if j.ingots.isEmpty then s.formSummary e.seq 0 else run j e s

/-- A command that issues a word with a list. -/
def twinListCmd (opc : BitVec 8) (a : ArrayArgs) (run : HubJob → QEnt → State → State) (s : State) : Out :=
  arrayCmd opc a (twinListEffect opc a run) (refuseReserved .twn) s

/-- The effect of a word without a list at issue. -/
def twinPlainEffect (opc : BitVec 8) (a : ArrayArgs) (run : QEnt → State → State) (e : QEnt) (s : State) : State :=
  match twinPlainChecks opc.toNat a s with
  | some f => s.refuse .twn e f
  | none => run e s

/-- A command that issues a word without a list. -/
def twinPlainCmd (opc : BitVec 8) (a : ArrayArgs) (run : QEnt → State → State) (s : State) : Out :=
  arrayCmd opc a (twinPlainEffect opc a run) (refuseReserved .twn) s

/-! ## The words (R338) -/

/-- The payload of an image: its head and its rows (R332). -/
def State.mirrorBytes (s : State) (bank row : Nat) : List Byte :=
  let raw := 1024 * (bank / 640) + bank % 640
  padTo 512 (leBytes 2 raw ++ leBytes 2 row ++ s.rowBytes bank (row + 4) 1536 8)
    ++ (List.range 9).flatMap (fun j => s.rowBytes bank (row + j) 0 2048)

/-- Send an image in its 37 frames; it awaits its acknowledgement. -/
def State.sendImage (s : State) (seq : Nat) (bytes : List Byte) : State :=
  let tag := s.twn.nextTag
  let s := (List.range 37).foldl (fun s i => s.sendMirr tag i (decide (i = 36)) (chunk 512 i bytes)) s
  let jobs := s.twn.jobs.map (fun (j : MirrorJob) =>
    if j.seq = seq then { j with unsent := j.unsent - 1, tags := j.tags ++ [tag] } else j)
  ({ s with twn := { s.twn with jobs := jobs, mirror := addHi s.twn.mirror 1 } }).nextMirr

/-- TMIRROR's work: an image for each ingot; the word completes with their acknowledgements. -/
def mirrorRun (j : HubJob) (e : QEnt) (s : State) : State :=
  ({ s with twn := { s.twn with jobs := s.twn.jobs ++ [(⟨e.seq, j.ingots.length, [], 0⟩ : MirrorJob)] } }).startWork e .mirror j

/-- TMIRROR (R332, R338). -/
def execTmirror (a : ArrayArgs) (s : State) : Out := twinListCmd 0xD0 a mirrorRun s

/-- The T3 address of a T2 linear-view address seen through apertures from `p`. -/
def pullAddr (p t2 : Nat) : Nat := t3Base + apSize * p + (t2 - t2Base)

/-- Read one row of an ingot through the apertures. -/
def pullRowStart (seq p off : Nat) (q : Nat × Nat) (s : State) (i : Nat) : State :=
  let src := pullAddr p (bankAddr q.1 (q.2 + off + i) 0)
  s.startTrans false src 2048 (.pull seq q.1 (q.2 + i))

/-- An aperture that an ingot is read through is closed. -/
def State.pullClosed (s : State) (p off : Nat) (q : Nat × Nat) : Bool :=
  !rowsFit (q.2 + off) || [0, 8].any (fun i =>
    !s.apOpen ((pullAddr p (bankAddr q.1 (q.2 + off + i) 0) - t3Base) / apSize))

/-- TPULL's work. -/
def pullRun (a : ArrayArgs) (j : HubJob) (e : QEnt) (s : State) : State :=
  (s.destsOf e.seq (j.ingots.map (fun q => (bankAddr q.1 q.2 0, 9 * 2048)))).startWork e
    (.pull (fldN a.a 8 8) s.moff j.launch) j

/-- TPULL (R338). -/
def execTpull (a : ArrayArgs) (s : State) : Out := twinListCmd 0xD1 a (pullRun a) s

/-- TDIGEST's work. -/
def digestRun (a : ArrayArgs) (j : HubJob) (e : QEnt) (s : State) : State :=
  s.startWork e (.digest (if bitAt a.flg 6 then s.moff else 0)) j

/-- TDIGEST (R338). -/
def execTdigest (a : ArrayArgs) (s : State) : Out := twinListCmd 0xD2 a (digestRun a) s

/-- Compare the digests of the twins (R338): TDCMP delivers its two mismatch bits. -/
def State.compareDigests (s : State) (seq : Nat) (own mir : Word) (theirs : Word × Word) : State :=
  let v := (own != theirs.2).toNat + 2 * (mir != theirs.1).toNat
  let d := s.twn.dig
  let s := { s with twn := { s.twn with dig := (d.set 2 theirs.1).set 3 theirs.2, digest := none } }
  (s.raiseIf (v != 0) .twn 5).endTwinWord seq v

/-- TDCMP's effect: the pair goes to the twin, and meets the twin's own pair once that has come. -/
def dcmpRun (e : QEnt) (s : State) : State :=
  if s.alone then s.formSummary e.seq 0
  else
    let v (i : Nat) : Word := match e.srcs[i]? with | some (_, some w) => w | _ => 0
    let s := (s.holdQueueH e.seq).sendControl .digest (leBytes 8 (v 0).toNat ++ leBytes 8 (v 1).toNat)
    let s := { s with twn := { s.twn with dig := (s.twn.dig.set 0 (v 0)).set 1 (v 1), digest := some (e.seq, v 0, v 1) } }
    match s.twn.digestIn with
    | [] => s.holdFor e.seq .digest
    | p :: rest => ({ s with twn := { s.twn with digestIn := rest } }).compareDigests e.seq (v 0) (v 1) p

/-- TDCMP (R338): the word starts once the values that it reads are delivered. -/
def execTdcmp (a : ArrayArgs) (s : State) : Out :=
  let waits := match s.issuing 0xD3 a with
    | some e => e.srcs.any (fun p => p.2.isNone)
    | none => false
  if waits then .next s else twinPlainCmd 0xD3 a dcmpRun s

/-- The twin's pair meets a waiting TDCMP, or waits for one. -/
def State.takePair (s : State) (own mirror : Word) : State :=
  match s.twn.digest with
  | some (q, o, m) => s.compareDigests q o m (own, mirror)
  | none => { s with twn := { s.twn with digestIn := s.twn.digestIn ++ [(own, mirror)] } }

/-- DIGEST_TRANSFER (R338). -/
def execDigestTransfer (own mirror : Word) (s : State) : Out :=
  .next (s.mirrIn 1 (.digestTransfer own mirror) false (fun s => s.takePair own mirror))

/-- Add to a 24-bit field of TWN_DIVCNT. -/
def addDiv (w : Word) (lo n : Nat) : Word := setFld w lo 24 (min (fldN w lo 24 + n) 0xFFFFFF)

/-- A verification takes one pair of the twin: the next in order. -/
def VerifyJob.take (j : VerifyJob) (p : Word × Word) : VerifyJob :=
  match j.pairs[j.got]? with
  | none => j
  | some (own, mir) =>
    let o := own != p.2
    let m := mir != p.1
    { j with got := j.got + 1, own := j.own + o.toNat, mir := j.mir + m.toNat,
             first := if j.first.isNone && (o || m) then some (j.got, !o) else j.first }

/-- The verification has every pair: TVERIFY completes, and TWN_DIV and the counts are recorded. -/
def State.endVerify (s : State) (j : VerifyJob) : State :=
  let t := s.twn
  let div := match j.first with
    | some (i, mirror) => putAt 63 1 1 ||| putBit 62 mirror ||| putAt 0 24 i
    | none => 0
  let s := { s with twn := { t with verify := none, div := div, divcnt := addDiv (addDiv t.divcnt 24 j.own) 0 j.mir } }
  s.endTwinWord j.seq (j.own + j.mir)

/-- The verification takes the pairs received so far. -/
def State.feedVerify (s : State) (j : VerifyJob) : State :=
  let n := j.pairs.length - j.got
  let k := (s.twn.verifyIn.take n).foldl VerifyJob.take j
  let s := { s with twn := { s.twn with verifyIn := s.twn.verifyIn.drop n } }
  if k.got = k.pairs.length then s.endVerify k else { s with twn := { s.twn with verify := some k } }

/-- Send digest pairs to the twin, 31 to a transfer. -/
def sendVerify : Nat → List (Word × Word) → State → State
  | 0, _, s => s
  | n + 1, l, s =>
    if l.isEmpty then s
    else sendVerify n (l.drop 31)
      (s.sendControl .verify ((l.take 31).flatMap (fun p => leBytes 8 p.1.toNat ++ leBytes 8 p.2.toNat)))

/-- TVERIFY's work: the digests of the own and the mirror ingots. -/
def verifyRun (j : HubJob) (e : QEnt) (s : State) : State := s.startWork e (.verify s.moff) j

/-- The digests of a TVERIFY go to the twin, and meet the twin's. -/
def State.sendDigests (s : State) (seq : Nat) (l : List (Word × Word)) : State :=
  ((sendVerify l.length l s).holdFor seq .verify).feedVerify ⟨seq, l, 0, 0, 0, none⟩

/-- TVERIFY (R338). -/
def execTverify (a : ArrayArgs) (s : State) : Out := twinListCmd 0xD4 a verifyRun s

/-- The twin's pairs meet a waiting TVERIFY, or wait for one. -/
def State.takePairs (s : State) (pairs : List (Word × Word)) : State :=
  let t := { s with twn := { s.twn with verifyIn := s.twn.verifyIn ++ pairs } }
  match t.twn.verify with | some j => t.feedVerify j | none => t

/-- VERIFY_TRANSFER (R338). -/
def execVerifyTransfer (pairs : List (Word × Word)) (s : State) : Out :=
  .next (s.mirrIn 1 (.verifyTransfer pairs) false (fun s => s.takePairs pairs))

/-- The reads of a range digest of `n` bytes from `u`, up to the line that ends it. -/
def State.noteDigest (s : State) (u n : Nat) (stop : Option Nat) : State :=
  let m := match stop with | some v => v - u | none => n
  if m = 0 then s else s.noteRead 2 u m

/-- TRDIG's effect: the digest of the lines of X's slots, up to the first that is not translated. -/
def rdigRun (a : ArrayArgs) (e : QEnt) (s : State) : State :=
  let x := s.desc (fldN a.a 0 16)
  let bytes := x.size * (x.tr * x.tc * x.tp)
  if bytes = 0 then s.formSummary e.seq 0
  else
    let r := s.rangeDigest x.uaddr (bytes / 64) 0
    let s := (s.holdQueueH e.seq).noteDigest x.uaddr bytes r.2
    let s := match r.2 with
      | some u => s.flaw .twn e.word { flawIndex 0x20 2 x.index with addr := some u }
      | none => s
    s.formSummary e.seq r.1

/-- TRDIG (R338). -/
def execTrdig (a : ArrayArgs) (s : State) : Out := twinPlainCmd 0xD5 a (rdigRun a) s

/-- THOLD's effect: the word holds until RESUME. -/
def holdRun (a : ArrayArgs) (e : QEnt) (s : State) : State :=
  let s := ((s.raise .twn 6).raiseIf (bitAt a.a 0) .twn 5).holdQueueH e.seq
  ({ s with twn := { s.twn with hold := some e.seq } }).holdFor e.seq .resume

/-- THOLD (R338). -/
def execThold (a : ArrayArgs) (s : State) : Out := twinPlainCmd 0xD6 a (holdRun a) s

/-- The high halves of an ingot as they stood before step `t`; none where the ring has passed them (R344). -/
def State.snapSource (s : State) (t : Nat) (q : Nat × Nat) : Option (List Byte) :=
  let commit := leNat (s.rowBytes q.1 (q.2 + 4) 1536 8) % 2 ^ 63
  let ahead := (commit + 2 ^ 63 - t) % 2 ^ 63
  if ahead = 2 ^ 63 - 1 then some (s.rowBytes q.1 q.2 0 1024)
  else if ahead ≤ 2 then some ((List.range 32).flatMap (s.ringColumn q.1 q.2 (t % 3)))
  else none

/-- The place of ingot `i` of a snapshot. -/
def snapPlace (dest i : Nat) : Nat := dest + 2048 * (i / 2) + 1024 * (i % 2)

/-- TSNAP's work. -/
def snapRun (a : ArrayArgs) (j : HubJob) (e : QEnt) (s : State) : State :=
  let rec_ := fldN a.a 0 16
  let w := s.descWide rec_
  let dest := fldN w 0 48
  (s.destsOf e.seq (s.slotDests dest (1024 * j.ingots.length))).startWork e (.snap dest (fldN w 64 63) rec_) j

/-- TSNAP (R344). -/
def execTsnap (a : ArrayArgs) (s : State) : Out := twinListCmd 0xD7 a (snapRun a) s

/-- TRECOV's effect: it delivers TWN_RECOV. -/
def recovRun (e : QEnt) (s : State) : State := (s.holdQueueH e.seq).formSummary e.seq (s.twn.recov.setWidth 64)

/-- TRECOV (R338). -/
def execTrecov (a : ArrayArgs) (s : State) : Out := twinPlainCmd 0xD9 a recovRun s

/-- TMARK is refused (R339, R345). -/
def markBad (a : ArrayArgs) : Bool :=
  !flgOk a.flg 0 || fldN a.a 5 27 != 0 || a.b != 0 || a.c != 0 || !(fldN a.a 0 4 == 1 || fldN a.a 0 4 == 2)

/-- TMARK's effect at issue: the phase FWD or SPLIT opens or closes. -/
def tmarkEffect (a : ArrayArgs) (e : QEnt) (s : State) : State :=
  let opn := !bitAt a.a 4
  if markBad a then (s.raise .tim 0).formSummary e.seq 0
  else if fldN a.a 0 4 = 1 then { s with tim := { s.tim with fwd := opn } }
  else { s with tim := { s.tim with split := opn } }

/-- TMARK (R345). -/
def execTmark (a : ArrayArgs) (s : State) : Out := arrayCmd 0xD8 a (tmarkEffect a) (refuseReserved .twn) s

/-! ## The range-digest engine (R335, R346) and the ring of records (R347) -/

/-- UADDR and GO written to TWN_RDCTL. -/
def State.putRdctl (s : State) (v : Word) : State :=
  if !bitAt v 63 then { s with twn := { s.twn with rdAddr := fld v 0 48 } }
  else if s.castRuns then s.raise .twn 9
  else { s with twn := { s.twn with rdAddr := fld v 0 48, rdBusy := true } }

/-- The requester number of the range-digest engine. -/
def digestKey : Nat := 2 ^ 64 + 2

/-- The digest of the engine's range, or what was formed before the first unmapped line. -/
def State.engineDigest (s : State) : State :=
  let u := s.twn.rdAddr.toNat / 64 * 64
  let n := s.twn.rdLen.toNat / 64
  let r := s.rangeDigest u n 0
  let t := (s.noteDigest u (64 * n) r.2).forget digestKey
  ({ t with twn := { t.twn with rdBusy := false, rdRes := r.1 } }).raiseIf r.2.isSome .twn 2

/-- RANGE_DIGEST_COMPLETE (R335, R346): the engine, which rests while a cast runs and waits as a hub read does (R188,
R230), is done. Lines of T3 in its range are read first. -/
def execRangeDigestComplete (s : State) : Out :=
  let u := s.twn.rdAddr.toNat / 64 * 64
  let n := s.twn.rdLen.toNat / 64 * 64
  let t := { s with lnk := { s.lnk with reading := digestKey } }
  let lines := s.missing digestKey (t3Lines (((List.range (n / 64)).map (fun i => u + 64 * i)).filterMap s.transl))
  whenB (s.twn.rdBusy && !s.castRuns && !s.stopped .mdv) s
    (if lines.isEmpty then t.engineDigest else s.fetch digestKey lines)

/-- CLEAR written to TIM_CTRL (R347). -/
def State.clearRing (s : State) : State := { s with tim := { s.tim with ring := [], closed := 0 } }

/-! ## The work of hub words on banks, ingot by ingot (R278, R336) -/

/-- The task of a bank without the ingot that it has just done. -/
def HubWork.advance (w : HubWork) (bank : Nat) : HubWork :=
  { w with tasks := w.tasks.map (fun k => if k.bank = bank then { k with left := k.left.drop 1 } else k) }

/-- The state with the hub word's work replaced. -/
def State.putWork (s : State) (w : HubWork) : State := { s with bnk := { s.bnk with work := some w } }

/-- The images that are ready go out in list order (R334). -/
def State.sendReady (s : State) : Nat → HubWork → State × HubWork
  | 0, w => (s, w)
  | n + 1, w =>
    match w.ready.find? (fun p => p.1 == w.sent) with
    | some p =>
      (s.sendImage w.ent.seq p.2).sendReady n
        { w with sent := w.sent + 1, ready := w.ready.filter (fun q => q.1 != p.1) }
    | none => (s, w)

/-- What became of the write of a snapshot's ingot. -/
def HubWork.snapped (w : HubWork) (record : Nat) (s : State) : Wrote → State × Option HubWork
  | .ok t => ({ t with twn := { t.twn with snap := addHi t.twn.snap 1 } }, some { w with copied := w.copied + 1 })
  | .fault u => (s.flaw .twn w.ent.word { flawIndex 0x20 2 record with addr := some u }, none)

/-- The bytes of ingot `i` of a snapshot go to their place; where the ring has passed them they count as overrun. -/
def HubWork.snapTo (w : HubWork) (dest record i : Nat) (s : State) : Option (List Byte) → State × Option HubWork
  | none =>
    (({ s with twn := { s.twn with snap := addLo s.twn.snap 1 } }).raise .twn 7, some { w with overrun := w.overrun + 1 })
  | some bs => w.snapped record s (s.writeU (.word w.ent.seq .twn) 2 0x3FF (snapPlace dest i) bs)

/-- Ingot `i` of a snapshot is put in its place; none where its place cannot be written (R344). -/
def State.snapIngot (s : State) (w : HubWork) (dest t record i : Nat) (q : Nat × Nat) : State × Option HubWork :=
  w.snapTo dest record i (s.noteIngot q.1 q.2) (s.snapSource t q)

/-- What a hub word does to ingot `i` of its range, at a row of a bank, for the list entry `entry`: the state with the
work as it then stands, none where the word stops there (R99). -/
def State.workIngot (s : State) (w : HubWork) (entry i bank row : Nat) : State × Option HubWork :=
  match w.kind with
  | .abort => let r := abortIngot w.ent entry bank row s; (r.1, some { w with tally := w.tally.add r.2 })
  | .mirror =>
    let bs := s.mirrorBytes bank row
    let r := (s.noteIngot bank row).sendReady w.total { w with ready := w.ready ++ [(i, bs)] }
    (r.1, some r.2)
  | .pull ap off launch =>
    if s.pullClosed ap off (bank, row) then (s.flaw .twn w.ent.word (flawIndex 0x20 2 launch), none)
    else ((List.range 9).foldl (pullRowStart w.ent.seq ap off (bank, row)) s, some w)
  | .digest off => let r := s.takeDigest true bank (row + off); (r.1, some { w with fold := w.fold ^^^ r.2 })
  | .verify off =>
    let o := s.takeDigest false bank row
    let m := o.1.takeDigest false bank (row + off)
    (m.1, some { w with ready := w.ready ++ [(i, leBytes 8 o.2.toNat ++ leBytes 8 m.2.toNat)] })
  | .snap dest t record => s.snapIngot w dest t record i (bank, row)

/-- A TPULL's reads for a bank are pending. -/
def State.pulling (s : State) (seq bank : Nat) : Bool :=
  (s.lnk.trans ++ s.lnk.stalled).any (fun t =>
    match t.who with | .pull q b _ => q == seq && b == bank | _ => false)

/-- The work of a task waits: rows of a TPULL are on their way, the place of a snapshot lies in a page in move (R188), the
memory controllers are STOPPED (R230). -/
def State.taskWaits (s : State) (w : HubWork) (k : BankTask) : Bool :=
  s.stopped .mdv || s.pulling w.ent.seq k.bank
    || (match w.kind, k.left with
        | .snap dest _ _, (i, _) :: _ => s.meetsMove (snapPlace dest i) 1024
        | _, _ => false)

/-- The pairs of a TVERIFY in the order of the range. -/
def HubWork.pairs (w : HubWork) : List (Word × Word) :=
  (List.range w.total).map (fun i =>
    let bs := ((w.ready.find? (fun p => p.1 == i)).map (·.2)).getD []
    (BitVec.ofNat 64 (leNat (bs.take 8)), BitVec.ofNat 64 (leNat (bs.drop 8))))

/-- The work of a hub word on its banks is over: the word forms its summary, or waits for its twin. -/
def State.endWork (s : State) (w : HubWork) : State :=
  let s := { s with bnk := { s.bnk with work := none } }
  let q := w.ent.seq
  let done (v : Word) : State := (s.formSummary q v).freeHold q
  match w.kind with
  | .abort => done w.tally.word
  | .mirror =>
    match s.twn.jobs.find? (fun j => j.seq == q) with
    | some j =>
      if j.over then ({ s with twn := { s.twn with jobs := s.twn.jobs.filter (fun x => x.seq != q) } }).endTwinWord q j.refused
      else s.holdFor q .image
    | none => s.freeHold q
  | .pull _ _ _ => s.freeHold q
  | .digest _ => done w.fold
  | .verify _ => s.sendDigests q w.pairs
  | .snap _ _ _ => done (pair32 w.copied w.overrun)

/-- A task ends when it has no ingot left; the word's work with the last task. -/
def State.settleWork (s : State) (w : HubWork) : State :=
  let w := { w with tasks := w.tasks.filter (fun k => !k.started || !k.left.isEmpty || s.pulling w.ent.seq k.bank) }
  if w.tasks.isEmpty then s.endWork w else s.putWork w

/-- The hub word at work does its next ingot: the first task in list order that has started and does not wait. While an
uncorrectable error awaits its stop nothing is done (R227). None where there is nothing to do. -/
def State.workStep (s : State) : Option State :=
  match s.bnk.work with
  | none => none
  | some w =>
    if s.mdv.uncorr.isSome then none
    else match w.tasks.find? (fun k => k.started && !s.taskWaits w k) with
      | none => none
      | some k =>
        some (match k.left with
          | [] => s.settleWork w
          | (i, row) :: _ =>
            match s.workIngot w k.entry i k.bank row with
            | (t, some v) => t.settleWork (v.advance k.bank)
            | (t, none) => t.settleWork { w with tasks := (w.tasks.filter (·.started)).map (fun k => { k with left := [] }) })

end Sys2Proof.Machine
end

