-- ==== Sys2Proof/Machine/Functions.lean ====
section
/-! DEFINITION. The function registers as the host writes them (R49 to R52): epochs, GO and STOP of the eight functions,
and the staged settings that an epoch brings into force. -/

namespace Sys2Proof.Machine

/-! ## Settings of an epoch (R50) -/

/-- The next epoch: the current set becomes the one before, and a copy of the staged set becomes current. -/
def Epoched.forward {α : Type} (e : Epoched α) : Epoched α := ⟨e.staged, e.staged, some e.current⟩

/-- Back to the set before; the set just left is discarded and the staged set stands. -/
def Epoched.back {α : Type} (e : Epoched α) : Epoched α := ⟨e.staged, e.before.getD e.current, none⟩

/-- After a recovery no set before is held. -/
def Epoched.recovered {α : Type} (e : Epoched α) : Epoched α := { e with before := none }

/-- Write the staged set. -/
def Epoched.stage {α : Type} (e : Epoched α) (a : α) : Epoched α := { e with staged := a }

/-- The units of a function hold a set before. Of the Conductor, which has no settings that the host stages (R81), State
holds only that (log entry 48). -/
def State.hasBefore (s : State) : FnBlock → Bool
  | .cnd => s.cnd.prior
  | .ary => s.sheet.set.before.isSome
  | .tmv => s.tmv.cfg.before.isSome
  | .mdv => s.mdv.cfg.before.isSome
  | .lnk => s.lnk.set.before.isSome
  | .fol => s.fol.set.before.isSome
  | .twn => s.twn.set.before.isSome
  | .pwr => s.pwr.set.before.isSome

/-- The effective cap by the latest sample, for the settings in force (R350): what a change of cap or curve makes of
CAPEFF before the next sample. Before the first sample there is no input voltage. -/
def State.refreshCap (s : State) : State :=
  if s.pwr.tel0 = 0 then { s with pwr := { s.pwr with effCap := s.pwr.cap } }
  else
    let own := s.setCap (fldN s.pwr.temp0 16 8)
    let v := vinCap (fldN s.pwr.tel0 48 16)
    let c := Watts.least own v
    { s with pwr := { s.pwr with effCap := BitVec.ofNat 8 (c.1 / c.2 / 10), effVin := decide (v.1 * own.2 < own.1 * v.2) } }

/-- How an accepted epoch write changes the settings of a function. -/
inductive EpochMove where
  | forward | back | recover
  deriving DecidableEq, Repr

/-- A set of settings after an epoch move. -/
def EpochMove.on {α : Type} (m : EpochMove) (e : Epoched α) : Epoched α :=
  match m with
  | .forward => e.forward
  | .back => e.back
  | .recover => e.recovered

/-- One waiting instance takes its number in a numbering that restarts. -/
def renumberOne (p : List Inst × SMap Nat) (i : Inst) : List Inst × SMap Nat :=
  let n := smGet 0 p.2 i.grp
  (p.1 ++ [{ i with num := n }], smPut 0 p.2 i.grp (n + 1))

/-- A new epoch of FOL_FN restarts the numbering of instances (R315): those that wait to start are numbered from 0 in their
order (log entry 124). -/
def Fol.renumber (f : Fol) : Fol :=
  let r := (f.insts.filter (fun i => !i.started && !i.abandoned)).foldl renumberOne ([], [])
  { f with insts := r.1, counts := r.2 }

/-- The settings of a function after an epoch move. -/
def State.moveSet (s : State) (m : EpochMove) : FnBlock → State
  | .cnd => { s with cnd := { s.cnd with prior := m == .forward } }
  | .ary => { s with sheet := { s.sheet with set := m.on s.sheet.set } }
  | .tmv => { s with tmv := { s.tmv with cfg := m.on s.tmv.cfg } }
  | .mdv => { s with mdv := { s.mdv with cfg := m.on s.mdv.cfg } }
  | .lnk => { s with lnk := { s.lnk with set := m.on s.lnk.set } }
  | .fol =>
    let f := { s.fol with set := m.on s.fol.set }
    { s with fol := if m = .recover then f else f.renumber }
  | .twn => { s with twn := { s.twn with set := m.on s.twn.set } }
  | .pwr =>
    let t := ({ s with pwr := { s.pwr with set := m.on s.pwr.set } }).refreshCap
    if t.swarfOn then t else t.endSwarf

/-! ## Epoch writes (R50 to R52) -/

/-- The epoch cannot be applied: two enabled curve entries have equal INLET (R350). -/
def State.epochBarred (s : State) (b : FnBlock) : Bool := b == .pwr && curveBad (curveOf s.pwr.set.staged.curve)

/-- Which move an epoch write makes; none where R50 or R350 refuses it. -/
def State.epochMove (s : State) (b : FnBlock) (e : BitVec 16) : Option EpochMove :=
  let f := s.fn.get b
  if f.state ≠ .stopped then none
  else if e = f.applied + 1 then (if s.epochBarred b then none else some .forward)
  else if e = f.applied - 1 ∧ !f.mixed ∧ s.hasBefore b then some .back
  else if e = f.applied ∧ f.mixed then some .recover
  else none

/-- Some unit cannot apply the epoch: the units are MIXED, the settings of APPLIED stay in force, EPOCH is set (R51). -/
def State.epochFails (s : State) (b : FnBlock) (e : BitVec 16) : State :=
  (s.putFn b { s.fn.get b with epoch := e, mixed := true }).raise (fnBlk b) (fnEpochBit b)

/-- EPOCH written to BLOCK_FN. It writes no epoch where it equals the present one; `fails` says that a unit cannot apply
the next epoch. -/
def State.writeEpoch (s : State) (b : FnBlock) (e : BitVec 16) (fails : Bool) : State :=
  if e = (s.fn.get b).epoch then s
  else match s.epochMove b e with
    | none => s.raise (fnBlk b) (fnEpochBit b)
    | some m =>
      if m = .forward ∧ fails then s.epochFails b e
      else (s.moveSet m b).putFn b { s.fn.get b with epoch := e, applied := e, mixed := false }

/-! ## GO and STOP (R51) -/

/-- The host resolves a partition switch that its epoch has stuck (R48, R52): with epoch n + 1 applied the switch goes
on at its tenth beat, with the old epoch it is abandoned. -/
def State.goSwitch (s : State) (w : PartSwitch) : State :=
  let f := s.fn.ary
  let t := s.setFnState .ary .run
  if f.applied = w.n + 1 then
    { t with sheet := { t.sheet with switch := some { w with stuck := false, beat0 := some (s.bea.count - 10) } } }
  else { t with sheet := { t.sheet with switch := some { w with dropped := true } } }

/-- GO written to BLOCK_FN: ignored where R51 does not allow it, and for the Sheet while a partition switch takes its
beats, which writes GO by itself (log entry 104). -/
def State.goFn (s : State) (b : FnBlock) : State :=
  if b = .cnd then s.conductorGo
  else if (s.fn.get b).mayGo then
    match b, s.sheet.switch with
    | .ary, some w => if w.stuck then s.goSwitch w else s
    | .lnk, _ => (s.setFnState .lnk .run).drainAll
    | _, _ => s.setFnState b .run
  else s

/-- MDV_FN.STOP (R230). -/
def State.stopMdv (s : State) : State :=
  if s.noCast && s.loadMap then s.setFnState .mdv .stopped else s.raise .mdv 7

/-- STOP written to BLOCK_FN. It has no effect while STOPPED, but for CND_FN (R51, R78). TWN_FN, LNK_FN and PWR_FN stop
at once, ARY_FN once no issued word is left, TMV_FN once no page is in move, FOL_FN once no instance is in flight. -/
def State.stopFn (s : State) (b : FnBlock) : State :=
  if b = .cnd then s.conductorStop
  else if b = .mdv then (if s.stopped .mdv then s else s.stopMdv)
  else if !s.running b then s
  else match b with
    | .ary => (s.setFnState .ary .stopping).aryRest
    | .tmv => (s.setFnState .tmv .stopping).tmvRest
    | .fol => (s.setFnState .fol .stopping).folRest
    | _ => s.setFnState b .stopped

/-- A whole write of BLOCK_FN: EPOCH, then STOP, or else GO. -/
def State.writeFn (s : State) (b : FnBlock) (v : Word) (fails : Bool) : State :=
  let s := s.writeEpoch b (fld v 16 16) fails
  if bitAt v 2 then s.stopFn b else if bitAt v 3 then s.goFn b else s

end Sys2Proof.Machine
end

