-- ==== Sys2Proof/Machine/Registers.lean ====
section
/-! DEFINITION. What a read of the control space returns (chapter 19 and the register tables of every block), and what a
read changes: RC registers clear (R8), CRW_DATA and MGT_FLASHDATA advance. Offsets are 24-bit control-space offsets. -/

namespace Sys2Proof.Machine

/-! ## Small parts -/

/-- The block of an index (R407). -/
def blkAt : Nat → Option Blk
  | 0 => some .sys | 1 => some .siz | 2 => some .bea | 3 => some .cnd | 4 => some .ary | 5 => some .crw
  | 6 => some .fmt | 7 => some .vec | 8 => some .tmv | 9 => some .tir | 10 => some .mdv | 11 => some .bnk
  | 12 => some .upd | 13 => some .lnk | 14 => some .fol | 15 => some .twn | 16 => some .tim | 17 => some .pwr
  | 18 => some .sec | 19 => some .atn | 20 => some .rst | 21 => some .bst | 22 => some .mgt | _ => none

/-- The number of causes of a block. -/
def causeWidth : Blk → Nat
  | .sys => 1 | .siz => 0 | .bea => 9 | .cnd => 11 | .ary => 6 | .crw => 2 | .fmt => 1 | .vec => 4 | .tmv => 7
  | .tir => 3 | .mdv => 8 | .bnk => 6 | .upd => 7 | .lnk => 13 | .fol => 7 | .twn => 10 | .tim => 1 | .pwr => 10
  | .sec => 7 | .atn => 0 | .rst => 3 | .bst => 3 | .mgt => 2

/-- The offset of BLOCK_CAUSE: 0x0E0, and 0x040 in BEA (R31, R409, log entry 49). -/
def causeOff (b : Blk) : Nat := if b = .bea then 0x040 else 0x0E0

/-- The offset of BLOCK_MASK: 0x0E8, and 0x048 in BEA. -/
def maskOff (b : Blk) : Nat := if b = .bea then 0x048 else 0x0E8

/-- The function that a block owns. -/
def fnOf : Blk → Option FnBlock
  | .cnd => some .cnd | .ary => some .ary | .tmv => some .tmv | .mdv => some .mdv | .lnk => some .lnk
  | .fol => some .fol | .twn => some .twn | .pwr => some .pwr | _ => none

/-- STATE of a function register. -/
def FnState.code : FnState → Nat
  | .run => 0 | .stopping => 1 | .stopped => 2

/-- BLOCK_FN as it reads (R49). -/
def FnReg.word (f : FnReg) : Word :=
  putBit 48 f.mixed ||| putAt 32 16 f.applied.toNat ||| putAt 16 16 f.epoch.toNat ||| putAt 0 2 f.state.code

/-- A register index in an array of registers that begins at `base`, 8 bytes apart, `n` of them. -/
def slotAt (o base n : Nat) : Option Nat := if base ≤ o ∧ o < base + 8 * n ∧ o % 8 = 0 then some ((o - base) / 8) else none

/-- The name of a value that only exists at one of several offsets; zero elsewhere (R6). -/
def pick (o : Nat) : List (Nat × Word) → Word
  | [] => 0
  | e :: t => if o = e.1 then e.2 else pick o t

/-! ## SYS, SIZ, BEA, CND -/

/-- SYS_STATUS (R403). -/
def State.sysStatus (s : State) : Word :=
  putAt 8 3 s.sys.ps.toNat ||| putBit 2 (s.sys.entering.isSome || s.sys.exiting) ||| putBit 1 s.sys.fail ||| putBit 0 s.sys.ready

/-- SYS. -/
def State.readSys (s : State) (o : Nat) : Word :=
  pick o [(0x000, s.flash.serial[0]), (0x008, s.flash.serial[1]), (0x010, s.sysStatus),
    (0x018, putAt 0 3 s.sys.target.toNat)]

/-- SIZ (R17). -/
def State.readSiz (s : State) (o : Nat) : Word :=
  match slotAt o 0 18 with | some k => s.sizEntry k | none => 0

/-- BEA_STATUS (R31). -/
def State.beaStatus (s : State) : Word :=
  let b := s.bea
  putAt 32 32 b.phaseErr.toNat ||| putAt 12 4 b.hops.toNat ||| putBit 7 b.holdExp ||| putBit 6 b.hold
    ||| putBit 5 b.lock ||| putAt 2 2 b.srcAct.toNat

/-- BEA. -/
def State.readBea (s : State) (o : Nat) : Word :=
  pick o [(0x000, s.bea.ctrl), (0x008, s.beaStatus), (0x010, s.bea.count), (0x020, s.bea.tai), (0x028, s.bea.alarm),
    (0x030, s.bea.bar), (0x038, s.bea.late)]

/-- CND_STATUS.ADMIT (R81). -/
def Admit.code : Admit → Nat
  | .idle => 0 | .admitting => 1 | .admitted => 2 | .running => 3 | .refused => 4 | .held => 5

/-- CND_STATUS (R81). -/
def State.cndStatus (s : State) : Word :=
  putAt 48 12 s.cnd.mould.toNat ||| putAt 40 4 s.cnd.why.toNat ||| putAt 32 3 s.cnd.adm.code
    ||| putAt 24 8 s.sheet.qH.length ||| putAt 16 8 s.sheet.qB.length ||| putAt 8 8 s.sheet.qF.length
    ||| putAt 0 2 s.cnd.part.toNat

/-- CND_SMVALID: bit n while smn has no pending summary. -/
def State.smValid (s : State) : Word :=
  (List.range 16).foldl (fun v n => v ||| putBit n (s.pendingSm (BitVec.ofNat 4 n) == 0)) 0

/-- CND. -/
def State.readCnd (s : State) (o : Nat) : Word :=
  match slotAt o 0x100 16, slotAt o 0x200 32 with
  | some n, _ => s.cnd.sm.toList.getD n 0
  | _, some n => if n ≠ 0 ∧ s.stopped .cnd then s.cnd.g.toList.getD n 0 else 0
  | _, _ =>
    pick o [(0x000, s.cnd.castBase.setWidth 64), (0x008, s.cnd.run), (0x010, s.cndStatus),
      (0x018, s.cnd.pc.setWidth 64), (0x020, s.cnd.step), (0x028, s.cnd.halt.setWidth 64), (0x030, s.cnd.mentry),
      (0x040, s.smValid), (0x048, s.cnd.late), (0x050, s.cnd.stall), (0x058, s.cnd.exc),
      (0x060, s.cnd.excInstr.setWidth 64), (0x068, s.cnd.excHi), (0x070, s.cnd.excLo)]

/-! ## ARY, CRW, FMT, VEC -/

/-- ARY_STATUS (R108): words held, the partition, whether a word is executing. -/
def State.aryStatus (s : State) : Word :=
  let f := s.sheet.buffered 0
  let b := s.sheet.buffered 1
  putAt 32 4 b ||| putAt 28 4 f ||| putAt 16 2 s.sheet.set.current.part.toNat ||| putBit 1 (b != 0) ||| putBit 0 (f != 0)

/-- ARY. -/
def State.readAry (s : State) (o : Nat) : Word :=
  let h := s.sheet
  pick o [(0x000, h.set.staged.cfg), (0x008, s.aryStatus), (0x010, h.words), (0x018, h.products), (0x020, h.slag),
    (0x028, h.ecc), (0x030, h.fault), (0x038, h.faultAddr)]

/-- The bytes of the store that CRW_SEL.STORE names (R109). -/
def crwSize (store : BitVec 2) : Nat := if store = 2 then 256 else 0x80000

/-- The byte offset of CRW_ADDR in its store, modulo the store's size. -/
def State.crwOffset (s : State) : Nat := (8 * s.crw.offset.toNat) % crwSize s.crw.store

/-- OFFSET advances by 8, wrapping at the size of the store. -/
def State.crwAdvance (s : State) : State :=
  { s with crw := { s.crw with offset := BitVec.ofNat 16 ((s.crwOffset + 8) % crwSize s.crw.store / 8) } }

/-- The first byte of the word that CRW names, in a tile store or G-buffer. -/
def State.crwByte (s : State) : Nat :=
  0x100000 * s.crw.core.toNat + (if s.crw.store = 1 then 0x80000 else 0) + s.crwOffset

/-- The 64 bits that CRW names. -/
def State.crwWord (s : State) : Word :=
  if s.crw.store = 2 then smGet 0 s.headers (s.crw.core.toNat * 32 + s.crwOffset / 8)
  else BitVec.ofNat 64 (leNat (s.bytes s.crwByte 8))

/-- A self-test of the quarter that holds the selected core runs (R396). -/
def State.crwTested (s : State) : Bool :=
  s.bst.busy && fldN s.bst.ctrl 8 4 == 1 && fldN s.bst.ctrl 0 5 == quarterOf (s.physCore s.crw.core.toNat)

/-- CRW_DATA may be accessed (R109). -/
def State.crwOpen (s : State) : Bool := s.stopped .ary && !s.crwTested

/-- CRW_INFO. -/
def State.crwInfo (s : State) : Word :=
  let p := s.physCore s.crw.core.toNat
  putAt 16 5 (p / 36) ||| putAt 8 6 (p % 36) ||| putAt 0 2 (quarterOf p)

/-- CRW. -/
def State.readCrw (s : State) (o : Nat) : Word :=
  pick o [(0x000, putAt 16 2 s.crw.store.toNat ||| putAt 0 10 s.crw.core.toNat), (0x008, putAt 3 16 s.crw.offset.toNat),
    (0x010, if s.crwOpen then s.crwWord else 0), (0x018, s.crwInfo), (0x020, smGet 0 s.crw.ecc s.crw.core.toNat)]

/-- FMT (R131). -/
def State.readFmt (s : State) (o : Nat) : Word :=
  match slotAt o 0x800 256 with
  | some j => (List.range 4).foldl (fun v i => v ||| putAt (16 * i) 16 (smGet 0 s.fmt.books (4 * j + i)).toNat) 0
  | none => pick o [(0x000, putBit 8 s.fmt.fp32acc ||| putAt 0 4 s.fmt.loaded.toNat), (0x008, s.fmt.conv)]

/-- VEC (R157). -/
def State.readVec (s : State) (o : Nat) : Word :=
  let p (i : Nat) : BitVec 32 := smGet 0 s.vec.prog i
  match slotAt o 0x4000 2048 with
  | some j => p (2 * j + 1) ++ p (2 * j)
  | none => pick o [(0x000, putAt 16 13 0x1000 ||| putAt 0 13 s.vec.loaded), (0x008, s.vec.flags), (0x010, s.vec.stats),
      (0x018, s.vec.fault), (0x020, s.vec.faultAddr), (0x028, s.vec.ecc)]

/-! ## TMV, TIR, MDV, BNK, UPD -/

/-- TMV_STATUS.MAP (R206). -/
def MapMode.code : MapMode → Nat
  | .load => 0 | .admitted => 1 | .running => 2 | .held => 3

/-- TMV_STATUS. -/
def State.tmvStatus (s : State) : Word :=
  putAt 16 32 (sat32 s.tmv.queue.length) ||| putAt 8 8 s.tmv.moving.length ||| putBit 2 s.tmv.releasing
    ||| putAt 0 2 s.tmv.map.code

/-- TMV. -/
def State.readTmv (s : State) (o : Nat) : Word :=
  let t := s.tmv
  pick o [(0x000, t.cfg.staged), (0x008, s.tmvStatus), (0x018, t.probe.setWidth 64),
    (0x020, if s.fromCold then 0 else s.mapEntry t.probe.toNat),
    (0x028, t.tmc), (0x030, t.moves), (0x038, t.evict), (0x040, t.fault), (0x048, t.faultAddr)]

/-- The slot that TIR_SLOTSEL names; zero beyond the slots. -/
def State.selSlot (s : State) : Slot := s.tir.slots.getD s.tir.slotSel.toNat ⟨0, 0, false, false⟩

/-- TIR (R207). -/
def State.readTir (s : State) (o : Nat) : Word :=
  let t := s.tir
  match slotAt o 0 4, slotAt o 0x020 4, slotAt o 0x400 64 with
  | some k, _, _ => pair32 ((s.crucible t.quota k).getD 0) (s.places k)
  | _, some k, _ => pair32 (smGet 0 t.peak k) (s.crucibleUse s.pages t.quota k)
  | _, _, some i => pair32 (s.used (i / 4) (i % 4)) (smGet 0 t.quota i)
  | _, _, _ => pick o [(0x040, t.lastAdm), (0x048, t.lastLen), (0x050, t.lastTag), (0x058, t.slotSel.setWidth 64),
      (0x060, s.selSlot.lo), (0x068, s.selSlot.hi), (0x070, putBit 1 s.selSlot.valid ||| putBit 0 (s.selSlot.valid && s.selSlot.inUse))]

/-- The bank cores of all devices that run a program. -/
def State.activeAll (s : State) : Nat := (s.bnk.cores.filter (fun e => e.2.run.isSome)).length + s.bnk.workBanks.length

/-- MDV_SEALMAP: the seal bits of the 64 rows that MDV_SEALSEL names (R230). -/
def State.sealMap (s : State) : Word :=
  let v := s.mdv.sealSel
  let dev := fldN v 20 5
  let die := fldN v 15 5
  if dev < 24 ∧ die < 20 then
    let base := rowKey (640 * dev + 32 * die + fldN v 10 5) (64 * fldN v 0 10)
    (List.range 64).foldl (fun w i => w ||| putBit i (!s.rowUnsealed (base + i))) 0
  else 0

/-- MDV_DEVd. -/
def State.devState (s : State) (d : Nat) : Word :=
  putAt 40 8 (s.devTemp d).toNat ||| putAt 32 8 (s.activeOn d)
    ||| putAt 16 16 ((s.flash.hard.filter (fun r => r.bank / 640 == d)).length)
    ||| putBit 1 (s.fastRefresh d) ||| putBit 0 (bitAt s.mdv.trained d)

/-- MDV (R230). -/
def State.readMdv (s : State) (o : Nat) : Word :=
  let m := s.mdv
  match slotAt o 0x100 24 with
  | some d => s.devState d
  | none =>
    pick o [(0x000, m.cfg.staged),
      (0x008, putAt 48 16 s.activeAll ||| putAt 24 24 m.hot.toNat ||| putAt 0 24 m.trained.toNat),
      (0x018, m.ce), (0x020, m.ue), (0x028, m.ifcrc), (0x030, m.errLoc), (0x038, m.errPaddr), (0x040, m.errUaddr),
      (0x048, m.fault), (0x050, m.sealSel.setWidth 64), (0x058, if s.fromCold then 0 else s.sealMap), (0x060, putBit 0 m.override),
      (0x068, m.repair), (0x070, putAt 4 4 m.spares ||| putAt 2 2 m.result.toNat ||| putBit 0 m.busy), (0x078, m.errBeat)]

/-- The launches that are not complete. -/
def Bnk.open_ (b : Bnk) : List Launch := b.launches.filter (fun l => !l.done)

/-- BNK_STATUS (R251). -/
def State.bnkStatus (s : State) : Word :=
  let l := s.bnk.open_
  let n := l.foldl (fun n l => n + (l.progs.filter (fun p => p.state == .pending)).length) 0
  let tags := (List.range 16).foldl (fun v t => v ||| putBit (16 + t) (l.any (fun l => l.tag.toNat == t))) (0 : Word)
  putAt 32 16 (min n 0xFFFF) ||| tags ||| putAt 0 16 l.length

/-- BNK. -/
def State.readBnk (s : State) (o : Nat) : Word :=
  let b := s.bnk
  pick o [(0x000, putAt 32 16 0x400 ||| putAt 0 15 b.loaded), (0x008, s.bnkStatus), (0x010, b.done),
    (0x018, b.flags.setWidth 64), (0x020, b.chain), (0x028, b.fault), (0x030, b.faultAddr)]

/-- UPD (R281). -/
def State.readUpd (s : State) (o : Nat) : Word :=
  let u := s.upd
  pick o [(0x000, u.stats), (0x008, u.flush), (0x010, u.moved), (0x018, u.restore), (0x020, u.last), (0x028, u.fault),
    (0x030, u.faultAddr)]

/-! ## LNK, FOL, TWN, TIM -/

/-- LNK_STATUS (R306). -/
def State.lnkStatus (s : State) : Word :=
  let bits (lo : Nat) (f : Port → Bool) : Word := (List.range 8).foldl (fun v p => v ||| putBit (lo + p) (f (s.port p))) 0
  let training := (List.range 6).any (fun p => (s.port p).state == 1 && !(s.port p).looped)
  let ring := if s.lnk.take then (if s.lnk.taking then 2 else 3) else if training then 1 else 0
  putBit 24 s.lnk.take ||| bits 16 (·.degraded) ||| bits 8 Port.isUp ||| putAt 0 2 ring

/-- LNK_PENDING: the pending transactions and the age of the oldest. -/
def State.lnkPending (s : State) : Word :=
  let old := s.lnk.trans.foldl (fun n t => max n (s.bea.count.toNat - t.since.toNat)) 0
  putAt 32 32 (sat32 old) ||| putAt 0 14 s.lnk.trans.length

/-- LNK_PORTn. -/
def Port.word (q : Port) : Word :=
  putAt 32 32 q.delay.toNat ||| putAt 14 18 q.neigh.toNat ||| putBit 13 q.nspare ||| putAt 8 5 q.width.toNat
    ||| putAt 0 4 q.state.toNat

/-- The table register of LNK at an offset: the register of a table and its reset value. -/
def State.readLnk (s : State) (o : Nat) : Word :=
  let l := s.lnk
  let t := l.set.staged
  match slotAt o 0x100 8, slotAt o 0x140 8, slotAt o 0x200 4, slotAt o 0x300 8 with
  | some p, _, _, _ => (s.port p).word
  | _, some p, _, _ => (s.port p).err
  | _, _, some r, _ => smGet 0xFFFFFFFFFFFFFFFF t.dom r
  | _, _, _, some n => smGet 0 t.exp n
  | _, _, _, _ =>
    match slotAt o 0x800 256, slotAt o 0x1000 512 with
    | some a, _ => s.aperture a
    | _, some r => smGet 0x0F0F0F0F0F0F0F0F t.rt r
    | _, _ => pick o [(0x000, t.id), (0x008, t.cfg), (0x018, s.lnkStatus), (0x020, s.lnkPending), (0x028, l.drop),
        (0x030, l.refused)]

/-- FOL_GRPg_HDR: what is written, and USABLE, MEMBER and SIZE as the written entry gives them (R313). -/
def State.groupHdr (s : State) (g : Nat) : Word :=
  let m := s.fol.set.staged
  let e := groupOf m g
  (smGet 0 m (4 * g) &&& 0x8000000000001FFF)
    ||| (if e.usable then putBit 62 true ||| putAt 32 18 e.m ||| putAt 13 19 e.j else 0)

/-- FOL (R328). -/
def State.readFol (s : State) (o : Nat) : Word :=
  let f := s.fol
  match slotAt o 0x1000 256 with
  | some i => if i % 4 = 0 then s.groupHdr (i / 4) else smGet 0 f.set.staged i
  | none => pick o [(0x000, putAt 0 5 f.flying), (0x008, f.tiles), (0x010, f.crc), (0x018, f.coll), (0x020, f.nfrows),
      (0x028, f.fault), (0x030, f.faultAddr)]

/-- TWN_PAIR.STATE. -/
def Pair.code : Pair → Nat
  | .single => 0 | .soldering => 1 | .soldered => 2

/-- TWN (R346). -/
def State.readTwn (s : State) (o : Nat) : Word :=
  let t := s.twn
  match slotAt o 0x038 4 with
  | some i => t.dig.toList.getD i 0
  | none =>
    pick o [(0x000, putAt 2 18 t.twin.toNat ||| putAt 0 2 t.pair.code), (0x008, t.set.staged),
      (0x018, putAt 2 16 t.outstanding ||| putBit 1 (t.verify.isSome || s.bnk.verifies) ||| putBit 0 t.hold.isSome),
      (0x020, t.recov.setWidth 64), (0x028, t.mirror), (0x030, t.refused), (0x058, t.div), (0x060, t.divcnt),
      (0x068, t.snap), (0x070, putBit 62 t.rdBusy ||| t.rdAddr.setWidth 64), (0x078, t.rdLen.setWidth 64),
      (0x080, t.rdRes), (0x088, t.fault), (0x090, t.faultAddr)]

/-- TIM (R347). -/
def State.readTim (s : State) (o : Nat) : Word :=
  match slotAt o 0x100 16, slotAt o 0x2000 1024 with
  | some w, _ => s.tim.cur.toList.getD w 0
  | _, some i => (smGet [] s.tim.ring (i / 16)).getD (i % 16) 0
  | _, _ =>
    let opn := (s.phases.zip (List.range 7)).foldl (fun v p => v ||| putBit (32 + p.2) p.1) (0 : Word)
    pick o [(0x000, opn ||| putBit 39 s.tim.opened ||| s.tim.closed.setWidth 64)]

/-! ## PWR, SEC, ATN, RST, BST, MGT -/

/-- PWR_STATUS (R365). -/
def State.pwrStatus (s : State) : Word :=
  putAt 48 16 s.pwr.power.toNat ||| putAt 32 16 s.pwr.clock ||| putAt 16 8 s.issueRate ||| putAt 8 8 s.pwr.effCap.toNat
    ||| putAt 0 7 s.reasons.toNat

/-- PWR_PATINA of the selected core. -/
def State.selPatina (s : State) : Word :=
  if s.pwr.patSel.toNat < s.sizCores then s.patinaNow (s.physCore s.pwr.patSel.toNat) else 0

/-- PWR. -/
def State.readPwr (s : State) (o : Nat) : Word :=
  let p := s.pwr
  let t := p.set.staged
  match slotAt o 0x080 8, slotAt o 0x100 14 with
  | some n, _ => smGet 0xC8 t.curve n
  | _, some i => if i % 2 = 0 then p.thrStep.toList.getD (i / 2) 0 else p.thrAcc.toList.getD (i / 2) 0
  | _, _ =>
    pick o [(0x000, p.cap.setWidth 64), (0x008, s.pwrStatus), (0x010, putBit 8 p.pending ||| p.fstep.setWidth 64),
      (0x020, p.tel0), (0x028, p.tel1), (0x030, p.energy), (0x038, p.temp0), (0x040, t.droop), (0x048, t.swarf),
      (0x050, t.loop), (0x058, p.dcount), (0x060, p.patSel.setWidth 64), (0x068, s.selPatina),
      (0x070, putBit 63 p.annealing ||| putAt 8 24 s.flash.annealed.toNat ||| putAt 0 8 s.minFmax), (0x078, p.swarfCnt)]

/-- The privilege of the open session; 0 where none is open. -/
def State.priv (s : State) : BitVec 2 := match s.sec.session with | some x => x.priv | none => 0

/-- SEC_STATE (R382). -/
def State.secState (s : State) : Word :=
  let x := s.sec.session
  putAt 11 5 s.sec.alt.toNat ||| putBit 10 s.flash.bank ||| putBit 9 s.sec.lockout ||| putBit 8 (!s.flash.fabric.isEmpty)
    ||| putAt 6 2 s.priv.toNat ||| putAt 2 4 ((x.map (fun x => x.slot.toNat)).getD 0) ||| putBit 1 x.isSome
    ||| putBit 0 s.flash.owned

/-- Five 8-bit fields, type 1 lowest. -/
def fiveBytes (v : Vector (BitVec 8) 5) : Word :=
  (List.range 5).foldl (fun w i => w ||| putAt (8 * i) 8 (v.toList.getD i 0).toNat) 0

/-- The privilege of a key slot; 0 empty. -/
def State.slotPriv (s : State) (n : Nat) : BitVec 2 := (smGet ⟨0, []⟩ s.flash.keys n).priv

/-- SEC (R382). -/
def State.readSec (s : State) (o : Nat) : Word :=
  match slotAt o 0x100 16 with
  | some n => (s.slotPriv n).setWidth 64
  | none =>
    pick o [(0x000, s.secState),
      (0x008, putAt 32 32 ((s.sec.session.map (fun x => x.sid.toNat)).getD 0) ||| s.sec.opens.setWidth 64),
      (0x018, s.lnk.set.staged.prot.setWidth 64), (0x020, fiveBytes s.sec.run), (0x028, s.sec.privlog),
      (0x030, s.sec.authfail), (0x060, fiveBytes s.flash.fuse)]

/-- ATN (R383). -/
def State.readAtn (s : State) (o : Nat) : Word :=
  pick o [(0x000, if s.fromCold then 0 else s.summary.setWidth 64), (0x008, s.atn.mask.setWidth 64), (0x010, putBit 0 s.atn.frame), (0x018, s.atn.count)]

/-- RST_STATUS (R404). -/
def State.rstStatus (s : State) : Word :=
  putAt 32 32 s.rst.warms.toNat ||| putAt 8 3 s.rst.fromPs.toNat ||| putAt 0 4 s.rst.last.toNat

/-- RST. -/
def State.readRst (s : State) (o : Nat) : Word :=
  pick o [(0x000, s.rstStatus), (0x008, s.rst.reverted.setWidth 64),
    (0x018, putAt 8 2 s.rst.quarter.toNat ||| putAt 4 4 s.flash.fence.toNat ||| putAt 0 4 s.rst.active.toNat)]

/-- BST (R405). -/
def State.readBst (s : State) (o : Nat) : Word :=
  let b := s.bst
  match slotAt o 0x100 128 with
  | some i => let e := b.log.getD (i / 2) (0, 0); if i % 2 = 0 then e.1 else e.2
  | none =>
    pick o [(0x000, s.flash.pumem.setWidth 64), (0x008, b.ctrl),
      (0x010, putBit 63 b.busy ||| putAt 61 2 b.result.toNat ||| putAt 48 8 b.progress.toNat ||| putAt 32 16 b.lost.toNat
        ||| putAt 0 7 b.log.length), (0x018, b.pu)]

/-- The eight bytes of the certificate area at MGT_FLASHADDR (R402, R406). -/
def State.certWord (s : State) : Word :=
  BitVec.ofNat 64 (leNat (smGetRun 0 s.flash.cert (8 * s.mgt.offset.toNat) 8))

/-- MGT (R406). -/
def State.readMgt (s : State) (o : Nat) : Word :=
  pick o [(0x000, putAt 56 8 s.mgt.stop.toNat ||| putAt 0 8 s.mgt.phase.toNat), (0x008, s.flash.log),
    (0x018, putAt 3 13 s.mgt.offset.toNat), (0x020, s.certWord)]

/-! ## Reading -/

/-- A register of a block beside its cause, mask and function registers. -/
def State.readBlk (s : State) (b : Blk) (o : Nat) : Word :=
  match b with
  | .sys => s.readSys o | .siz => s.readSiz o | .bea => s.readBea o | .cnd => s.readCnd o | .ary => s.readAry o
  | .crw => s.readCrw o | .fmt => s.readFmt o | .vec => s.readVec o | .tmv => s.readTmv o | .tir => s.readTir o
  | .mdv => s.readMdv o | .bnk => s.readBnk o | .upd => s.readUpd o | .lnk => s.readLnk o | .fol => s.readFol o
  | .twn => s.readTwn o | .tim => s.readTim o | .pwr => s.readPwr o | .sec => s.readSec o | .atn => s.readAtn o
  | .rst => s.readRst o | .bst => s.readBst o | .mgt => s.readMgt o

/-- The value of the register at an offset; zero where there is none (R6) and in every WO register (R8). -/
def State.readReg (s : State) (off : BitVec 24) : Word :=
  let o := fldN off 0 16
  match blkAt (fldN off 16 8) with
  | none => 0
  | some b =>
    if causeWidth b ≠ 0 ∧ o = causeOff b then s.causeOf b
    else if causeWidth b ≠ 0 ∧ o = maskOff b then s.maskOf b
    else match fnOf b with
      | some f => if o = 0x0F8 then (s.fn.get f).word else s.readBlk b o
      | none => s.readBlk b o

/-- The RC registers (R8): what a read clears. -/
def State.clearRc (s : State) (b : Blk) (o : Nat) : State :=
  match b, o with
  | .bea, 0x038 => { s with bea := { s.bea with late := 0 } }
  | .cnd, 0x048 => { s with cnd := { s.cnd with late := 0 } }
  | .cnd, 0x050 => { s with cnd := { s.cnd with stall := 0 } }
  | .ary, 0x018 => { s with sheet := { s.sheet with products := 0 } }
  | .ary, 0x020 => { s with sheet := { s.sheet with slag := 0 } }
  | .ary, 0x028 => { s with sheet := { s.sheet with ecc := 0 } }
  | .crw, 0x020 => { s with crw := { s.crw with ecc := smPut 0 s.crw.ecc s.crw.core.toNat 0 } }
  | .fmt, 0x008 => { s with fmt := { s.fmt with conv := 0 } }
  | .vec, 0x008 => { s with vec := { s.vec with flags := 0 } }
  | .vec, 0x010 => { s with vec := { s.vec with stats := 0 } }
  | .vec, 0x028 => { s with vec := { s.vec with ecc := 0 } }
  | .tmv, 0x028 => { s with tmv := { s.tmv with tmc := 0 } }
  | .tmv, 0x030 => { s with tmv := { s.tmv with moves := 0 } }
  | .tmv, 0x038 => { s with tmv := { s.tmv with evict := 0 } }
  | .mdv, 0x018 => { s with mdv := { s.mdv with ce := 0 } }
  | .mdv, 0x020 => { s with mdv := { s.mdv with ue := 0 } }
  | .mdv, 0x028 => { s with mdv := { s.mdv with ifcrc := 0 } }
  | .bnk, 0x010 => { s with bnk := { s.bnk with done := 0 } }
  | .bnk, 0x018 => { s with bnk := { s.bnk with flags := 0 } }
  | .bnk, 0x020 => { s with bnk := { s.bnk with chain := 0 } }
  | .upd, 0x000 => { s with upd := { s.upd with stats := 0 } }
  | .upd, 0x008 => { s with upd := { s.upd with flush := 0 } }
  | .upd, 0x010 => { s with upd := { s.upd with moved := 0 } }
  | .upd, 0x018 => { s with upd := { s.upd with restore := 0 } }
  | .lnk, 0x028 => { s with lnk := { s.lnk with drop := 0 } }
  | .lnk, 0x030 => { s with lnk := { s.lnk with refused := 0 } }
  | .fol, 0x008 => { s with fol := { s.fol with tiles := 0 } }
  | .fol, 0x010 => { s with fol := { s.fol with crc := 0 } }
  | .fol, 0x018 => { s with fol := { s.fol with coll := 0 } }
  | .fol, 0x020 => { s with fol := { s.fol with nfrows := 0 } }
  | .twn, 0x028 => { s with twn := { s.twn with mirror := 0 } }
  | .twn, 0x030 => { s with twn := { s.twn with refused := 0 } }
  | .twn, 0x060 => { s with twn := { s.twn with divcnt := 0 } }
  | .twn, 0x068 => { s with twn := { s.twn with snap := 0 } }
  | .pwr, 0x058 => { s with pwr := { s.pwr with dcount := 0 } }
  | .pwr, 0x078 => { s with pwr := { s.pwr with swarfCnt := 0 } }
  | .sec, 0x030 => { s with sec := { s.sec with authfail := 0 } }
  | .atn, 0x018 => { s with atn := { s.atn with count := 0 } }
  | .lnk, o =>
    match slotAt o 0x140 8 with
    | some p => s.putPort p { s.port p with err := 0 }
    | none => s
  | .pwr, o =>
    match slotAt o 0x100 14 with
    | some i => if i % 2 = 1 then { s with pwr := { s.pwr with thrAcc := s.pwr.thrAcc.set! (i / 2) 0 } } else s
    | none => s
  | _, _ => s

/-- A read of CRW_DATA advances OFFSET, or sets ACTIVE (R109). -/
def State.afterCrwData (s : State) : State := if s.crwOpen then s.crwAdvance else s.raise .crw 0

/-- A read of MGT_FLASHDATA advances OFFSET, wrapping at 64 KiB (R406). -/
def State.afterFlashData (s : State) : State := { s with mgt := { s.mgt with offset := s.mgt.offset + 1 } }

/-- What a read of a register changes. -/
def State.afterRead (s : State) (off : BitVec 24) : State :=
  match blkAt (fldN off 16 8), fldN off 0 16 with
  | none, _ => s
  | some .crw, 0x010 => s.afterCrwData
  | some .mgt, 0x020 => s.afterFlashData
  | some b, o => s.clearRc b o

/-- The blocks whose registers read zero and ignore writes in PS2 (R389). -/
def restBlocks : List Blk := [.cnd, .ary, .crw, .vec, .tmv, .tir, .bnk, .upd, .fol, .twn, .tim]

/-- The register lies in a block that PS2 has gated. -/
def State.gated (s : State) (off : BitVec 24) : Bool :=
  s.sys.ps == 2 && (match blkAt (fldN off 16 8) with | some b => restBlocks.contains b | none => false)

end Sys2Proof.Machine
end

