-- ==== Sys2Proof/Machine/Firmware.lean ====
section
/-! DEFINITION. Firmware images (R376 to R378): the header, what the Assay unit checks, the two banks of flash, and which
image of each type runs after a power-up. -/

namespace Sys2Proof.Machine

/-- The bytes of header and signatures that precede the body. -/
def imageHead : Nat := 512 + 384 + 16224

/-- The magic of an image. -/
def imageMagic : Nat := 0x4D494657524E5947

/-- A number of an image, little-endian. -/
def imgNum (m : List Byte) (at_ n : Nat) : Nat := leNat ((m.drop at_).take n)

/-- TYPE of an image. -/
def imgType (m : List Byte) : Nat := imgNum m 8 1

/-- SVN of an image. -/
def imgSvn (m : List Byte) : Nat := imgNum m 9 1

/-- The body of an image. -/
def imgBody (m : List Byte) : List Byte := m.drop imageHead

/-- What the Assay unit finds of an image. -/
inductive Verdict where
  | passes | lowSvn | fails
  deriving DecidableEq, Repr

/-- The fused counter of a type. -/
def State.fuseOf (s : State) (t : Nat) : Nat := (s.flash.fuse.toList.getD (t - 1) 0).toNat

/-- The image is whole, signed twice, and its body matches its hash (R376). -/
def imageSound (m : List Byte) : Bool :=
  imgNum m 0 8 == imageMagic && m.length == imageHead + imgNum m 16 8 && decide (imgSvn m ≤ 64)
    && sha384 (imgBody m) == (m.drop 24).take 48 && Config.imageSigned m

/-- Verify an image for the slot of type `t` (R376). -/
def State.verify (s : State) (t : Nat) (m : List Byte) : Verdict :=
  if !imageSound m || imgType m != t then .fails else if imgSvn m < s.fuseOf t then .lowSvn else .passes

/-! ## Banks (R376, R377) -/

/-- The key of a bank (false A, true B) and type in the store of images. -/
def imgKey (bank : Bool) (t : Nat) : Nat := (if bank then 8 else 0) + t

/-- Another bank than SEC_STATE.BANK is active for a type since its last update (log entry 52). -/
def State.switched (s : State) (t : Nat) : Bool := bitAt s.flash.switch (t - 1)

/-- The bank that a type runs from. -/
def State.runBank (s : State) (t : Nat) : Bool := s.flash.bank ^^ bitAt s.sec.alt (t - 1)

/-- The image of a type in a bank: its verdict and its SVN. A module is shipped with images in bank A that pass with SVN
0 and whose bytes the spec does not give (log entry 3); an empty place holds none. -/
def State.imageIn (s : State) (bank : Bool) (t : Nat) : Verdict × Nat :=
  match smGet [] s.flash.images (imgKey bank t) with
  | [] => if bank then (.fails, 0) else if s.fuseOf t = 0 then (.passes, 0) else (.lowSvn, 0)
  | m => (s.verify t m, imgSvn m)

/-- The SHA-384 of the running image of a type (R379). -/
def State.runHash (s : State) (t : Nat) : List Byte :=
  match smGet [] s.flash.images (imgKey (s.runBank t) t) with
  | [] => padTo 48 (Config.shippedHash t)
  | m => sha384 m

/-- Start a type from a bank. -/
def State.startImage (s : State) (bank : Bool) (t : Nat) (svn : Nat) : State :=
  let bit : BitVec 5 := 1 <<< (t - 1)
  { s with sec := { s.sec with
      run := s.sec.run.set! (t - 1) (BitVec.ofNat 8 svn),
      alt := if bank = s.flash.bank then s.sec.alt &&& ~~~ bit else s.sec.alt ||| bit } }

/-- Verify the image of a type at power-up: the active bank first, then the other one. The Bool says that an image
passes (R376, R378). -/
def State.bootType (s : State) (t : Nat) : State × Bool :=
  let first := s.flash.bank ^^ s.switched t
  let a := s.imageIn first t
  let b := s.imageIn (!first) t
  if a.1 = .passes then (s.startImage first t a.2, true)
  else
    let s := s.raiseIf (a.1 == .lowSvn) .sec 5
    if b.1 = .passes then ((s.startImage (!first) t b.2).raise .sec 3, true)
    else ((s.raiseIf (b.1 == .lowSvn) .sec 5).raise .sec 4, false)

/-- Verify the images of several types, in order, up to the first that no bank holds. -/
def State.bootTypes (s : State) : List Nat → State × Bool
  | [] => (s, true)
  | t :: l =>
    let r := s.bootType t
    if r.2 then r.1.bootTypes l else r

/-- Once every type is active from the other bank, that bank is the active one (log entry 52). -/
def Flash.settleBank (f : Flash) : Flash := if f.switch = 31 then { f with bank := !f.bank, switch := 0 } else f

/-! ## Updates (R377, R378) -/

/-- Install a verified image in the bank that its type does not run from; it is active from the next cold reset. -/
def State.installImage (s : State) (m : List Byte) : State :=
  let t := imgType m
  let bank := !s.runBank t
  let bit : BitVec 5 := 1 <<< (t - 1)
  { s with flash := { s.flash with
      images := smPut [] s.flash.images (imgKey bank t) m,
      switch := if bank = s.flash.bank then s.flash.switch &&& ~~~ bit else s.flash.switch ||| bit } }

/-- The image names one of the five types. -/
def knownType (t : Nat) : Bool := decide (1 ≤ t) && decide (t ≤ 5)

/-- The end of a verification: the installed image, or FWFAIL. -/
def State.verified (s : State) (m : List Byte) : State × Bool :=
  if knownType (imgType m) then
    match s.verify (imgType m) m with
    | .passes => (s.installImage m, true)
    | .lowSvn => ((s.raise .sec 4).raise .sec 5, false)
    | .fails => (s.raise .sec 4, false)
  else (s.raise .sec 4, false)

/-- COMMIT_SVN (R378): every counter rises to the SVN of the running image of its type; none falls. -/
def State.commitSvn (s : State) : State :=
  { s with flash := { s.flash with
      fuse := s.flash.fuse.zipWith (fun f r => if f.toNat < r.toNat then r else f) s.sec.run } }

end Sys2Proof.Machine
end

