-- ==== Sys2Proof/Machine/Supply.lean ====
section
/-! DEFINITION. Power states and the supplies (R355, R388 to R390, R413, R414): requests, entry and exit, what each exit
reverts or zeroes, thermal shutdown and the loss of a supply. -/

namespace Sys2Proof.Machine

/-! ## What resets and exits clear (R390) -/

/-- A vector of block words with the entries of three blocks kept, the others zero. -/
def keepThree (v : Vector Word 23) (a b c : Fin 23) : Vector Word 23 :=
  (((Vector.replicate 23 (0 : Word)).set a v[a]).set b v[b]).set c v[c]

/-- The causes that a warm reset and a PS3 exit leave: those of RST, BST and MGT, which follow their own tables, and
PWR_CAUSE.TSHUT (R355). -/
def State.keptCauses (s : State) : Vector Word 23 :=
  (keepThree s.cause 20 21 22).set 17 (s.cause[17] &&& 8)

/-- The tile stores, G-buffers and headers read zero. -/
def State.zeroT0 (s : State) : State := { s with mem := smClear 0 t1Base s.mem, headers := [] }

/-- T0 and T1, the descriptor table included, read zero. -/
def State.zeroT0T1 (s : State) : State := { s with mem := smClear 0 t1End s.mem, headers := [] }

/-- The Conductor without its records and counters. -/
def Cnd.cleared (c : Cnd) : Cnd := { c with late := 0, stall := 0, exc := 0, excInstr := 0, excHi := 0, excLo := 0 }

/-- The Sheet without its records and counters. -/
def Sheet.cleared (h : Sheet) : Sheet :=
  { h with words := 0, products := 0, slag := 0, ecc := 0, fault := noFault, faultAddr := 0 }

/-- VEC without its records and counters. -/
def Vec.cleared (v : Vec) : Vec := { v with flags := 0, stats := 0, fault := noFault, faultAddr := 0, ecc := 0 }

/-- TMV without its records and counters. -/
def Tmv.cleared (t : Tmv) : Tmv := { t with tmc := 0, moves := 0, evict := 0, fault := noFault, faultAddr := 0 }

/-- TIR without its records. -/
def Tir.cleared (t : Tir) : Tir := { t with peak := [], lastAdm := 0, lastLen := 0, lastTag := 0 }

/-- MDV without its records and counters. -/
def Mdv.cleared (m : Mdv) : Mdv :=
  { m with ce := 0, ue := 0, ifcrc := 0, errLoc := 0, errPaddr := 0, errUaddr := 0, errBeat := 0, fault := 0 }

/-- BNK without its records and counters. -/
def Bnk.cleared (b : Bnk) : Bnk := { b with done := 0, flags := 0, chain := 0, fault := 0, faultAddr := 0 }

/-- FOL without its records and counters. -/
def Fol.cleared (f : Fol) : Fol :=
  { f with tiles := 0, crc := 0, coll := 0, nfrows := 0, fault := noFault, faultAddr := 0 }

/-- The link block without its counters. -/
def Lnk.cleared (l : Lnk) : Lnk :=
  { l with drop := 0, refused := 0, ports := l.ports.map (fun q => { q with err := 0 }) }

/-- Causes, fault records, counters and the step ring read zero (R390). -/
def State.clearRecords (s : State) : State :=
  { s with cause := s.keptCauses, bea := { s.bea with late := 0 }, cnd := s.cnd.cleared, sheet := s.sheet.cleared,
           crw := { s.crw with ecc := [] }, fmt := { s.fmt with conv := 0 }, vec := s.vec.cleared,
           tmv := s.tmv.cleared, tir := s.tir.cleared, mdv := s.mdv.cleared, bnk := s.bnk.cleared,
           upd := Upd.atReset, lnk := s.lnk.cleared, fol := s.fol.cleared, tim := Tim.atReset,
           pwr := { s.pwr with dcount := 0, swarfCnt := 0, thrStep := Vector.replicate 7 0 },
           sec := { s.sec with authfail := 0, privlog := 0 }, atn := { s.atn with count := 0 } }

/-! ## Rails off -/

/-- Add an event to MGT_LOG, which the next cold reset reports (R406). -/
def State.logPower (s : State) (kind sensor : Nat) : State :=
  { s with flash := { s.flash with
      log := putAt 56 8 kind ||| putAt 48 8 sensor ||| putAt 0 32 s.flash.hours.toNat, logNew := true } }

/-- The main rails are off (PS4): memory and all that the main rails feed is lost; what fuses, flash, the standby log
and the management controller hold stays, and so do RST and BST until the cold reset that follows. -/
def State.railsOff (s : State) : State :=
  let z := State.reset
  ({ z with pending := s.pending, fresh := s.fresh, sent := s.sent, flash := s.flash, mgt := s.mgt, rst := s.rst,
            bst := s.bst, cause := keepThree s.cause 0 20 22, mask := keepThree s.mask 0 20 22,
            sys := { s.sys with ps := 4, entering := none, exiting := false }, atn := s.atn }).settleAttn

/-- The module shuts down and stays down until PWR_EN is cycled (R355, R413). -/
def State.shutDown (s : State) : State :=
  let t := s.railsOff
  { t with sys := { t.sys with wake := false, shutdown := true } }

/-! ## Requests (R388, R389) -/

/-- The entry condition of a power state. -/
def State.mayEnterPs (s : State) (t : BitVec 3) : Bool :=
  if t = 1 then s.stopped .ary else if t = 2 ∨ t = 3 then s.noCast && s.loadMap else true

/-- A wake to PS0: it waits for an entry in progress, and otherwise the exit begins at once. -/
def State.wakeUp (s : State) : State :=
  if s.sys.entering.isSome then { s with sys := { s.sys with wake := true } }
  else if s.sys.ps = 0 then s
  else if s.sys.ps = 4 then { s with sys := { s.sys with wake := true } }
  else { s with sys := { s.sys with exiting := true } }

/-- The state being entered after a request for `t`: PWR_EN low goes on asking for PS4 (R414). -/
def Sys.enters (y : Sys) (t : BitVec 3) : Option (BitVec 3) := if y.pwrLow then some 4 else some t

/-- A request for a power state. The latest request replaces an entry or exit in progress (log entry 51). -/
def State.requestPs (s : State) (t : BitVec 3) : State :=
  let idle := s.sys.entering.isNone && !s.sys.exiting
  if t = s.sys.ps ∧ (idle ∨ t ≠ 0) then { s with sys := { s.sys with target := t } }
  else if s.bst.busy then s.raise .sys 0
  else if t = 0 then ({ s with sys := { s.sys with target := 0 } }).wakeUp
  else if s.sys.ps < t ∧ s.mayEnterPs t then
    { s with sys := { s.sys with target := t, entering := s.sys.enters t, exiting := false, wake := false } }
  else s.raise .sys 0

/-- TARGET written to SYS_PSTATE; 5 to 7 are reserved and leave the field unchanged (R7). -/
def State.putPstate (s : State) (v : Word) : State :=
  let t := fld v 0 3
  if 4 < t then s else s.requestPs t

/-- A write of CND_RUN wakes the module from PS1 (R389), and from an entry in progress (log entry 51). -/
def State.runWakes (s : State) : State := if s.sys.ps = 1 ∨ s.sys.entering.isSome then s.wakeUp else s

/-- WAKE written to MGT_CTRL (R388); a module that has shut down waits for PWR_EN (R355, R413). -/
def State.mgtWake (s : State) : State := if s.sys.shutdown then s else s.wakeUp

/-! ## Entry and exit -/

/-- The links go down in PS3: every port is off, the ring is released, the session is closed, the twin is lost. -/
def State.linksOff (s : State) : State :=
  let s := s.loseRing
  let s := (List.range 8).foldl (fun s p => s.putPort p { s.port p with state := 0, width := 0, degraded := false }) s
  s.closeSession.loseTwin

/-- In PS3 the receiver counts in holdover unless its source is the pin (R389). -/
def Bea.inHold (b : Bea) : Bea :=
  if b.srcAct ≠ 1 ∧ !b.hold then
    { b with hold := true, lost := true, missed := 0, heldBeats := 0, lock := false, slewing := false }
  else b

/-- A receiver that runs free needs no source found again: its holdover ends with PS3. -/
def Bea.outOfHold (b : Bea) : Bea :=
  if b.srcAct = 0 then { b with hold := false, holdExp := false, lost := false, heldBeats := 0 } else b

/-- A power state is entered. -/
def State.enterPs (s : State) (t : BitVec 3) : State :=
  if t = 4 then s.loseRing.railsOff
  else
    let s := if t = 3 then s.linksOff else s
    { s with sys := { s.sys with ps := t, entering := none }, bea := if t = 3 then s.bea.inHold else s.bea }

/-- PSTATE_ENTRY_COMPLETE (R388, R389): a wake that has waited begins the exit at once; from PS4 a cold reset follows.
-/
def execPstateEntryComplete (s : State) : Out :=
  match s.sys.entering with
  | none => .next s
  | some t =>
    let a := (s.enterPs t).settleAttn
    .next (if s.sys.wake ∧ t ≠ 4 then { a with sys := { a.sys with wake := false, exiting := true } } else a)

/-- PAIR reverts: the pair state, TWN_CFG, TWN_RECOV and apertures 0 to 29, with the epochs of TWN_FN. -/
def State.revertPair (s : State) : State :=
  let t := s.twn
  { s with twn := { Twn.atReset with rdAddr := t.rdAddr, rdLen := t.rdLen, nextTag := t.nextTag },
           fn := { s.fn with twn := FnReg.atReset }, lnk := { s.lnk with aps := smClear 0 30 s.lnk.aps } }

/-- What a PS3 exit reverts: ARRAY, TIER and PAIR, epochs and APPLIED of their functions included (R390). -/
def State.revertPs3 (s : State) : State :=
  let s := s.revertPair
  { s with sheet := { s.sheet with set := Epoched.at ⟨0x81, 1⟩ }, tmv := { s.tmv with cfg := Epoched.at 0x20 },
           fn := { s.fn with ary := FnReg.atReset, tmv := FnReg.atReset } }

/-- Groups are recorded as reverted, and RST_CAUSE.REVERT is set (R391). -/
def State.reverted (s : State) (groups : BitVec 11) : State :=
  ({ s with rst := { s.rst with reverted := s.rst.reverted ||| groups } }).raise .rst 1

/-- P7 and P6 train with their neighbours, the torus ports through their bypasses (R389, R290). -/
def State.linksTrain (s : State) : State :=
  let s := (List.range 6).foldl (fun s p =>
    s.putPort p { s.port p with state := 1, looped := false, width := 0, degraded := false }) s
  (s.putPort 6 { s.port 6 with state := 2 }).putPort 7 { s.port 7 with state := 2 }

/-- What an exit to PS0 from a state zeroes, reverts and retrains (R389, R390); `trained` is what the training of the
memory devices finds. -/
def State.leavePs (s : State) (t : BitVec 3) (trained : BitVec 24) : State :=
  if t = 2 then s.zeroT0
  else if t = 3 then
    let s := ((s.zeroT0T1.clearRecords.revertPs3.linksTrain).trainDevices trained).reverted 0x46
    { s with bea := s.bea.outOfHold }
  else s

/-- PSTATE_EXIT_COMPLETE (R389, R390, R391). -/
def execPstateExitComplete (trained : BitVec 24) (s : State) : Out :=
  let t := s.sys.ps
  let a := s.leavePs t trained
  let a := { a with sys := { a.sys with ps := 0, exiting := false }, rst := { a.rst with last := 6, fromPs := t } }
  let a := if t = 2 then a.drainAll else a
  whenB (s.sys.exiting && t != 0 && t != 4) s a.settleAttn

/-! ## Shutdown and supplies -/

/-- THERMAL_SHUTDOWN (R355): quench, release of the ring, the record, rails off. -/
def execThermalShutdown (sensor : BitVec 8) (s : State) : Out :=
  let a := s.quenchNow.loseRing.logPower 1 sensor.toNat
  let a := { a with flash := { a.flash with tshut := true } }
  whenB s.mainOn s a.shutDown

/-- PWR_EN_LOW (R414): a request for PS4, with a record unless one by SYS_PSTATE is pending. In PS4 and after a shutdown
only the pin changes. -/
def execPwrEnLow (s : State) : Out :=
  let a := if s.sys.entering = some 4 then s else s.logPower 3 0
  let a := a.loseRing
  whenB (!s.sys.pwrLow) s
    (if s.mainOn then { a with sys := { a.sys with entering := some 4, exiting := false, wake := false, pwrLow := true } }
      else { s with sys := { s.sys with pwrLow := true } })

/-- MAIN_SUPPLY_LOSS (R413). -/
def execMainSupplyLoss (s : State) : Out := whenB s.mainOn s (s.loseRing.logPower 2 0).shutDown

/-- STANDBY_SUPPLY_LOSS (R413): as a loss of the main supply, with nothing logged; SMBus no longer answers. -/
def execStandbySupplyLoss (s : State) : Out :=
  let a := if s.mainOn then s.loseRing.shutDown else s
  whenB s.sys.standby s { a with sys := { a.sys with standby := false } }

end Sys2Proof.Machine
end

