-- ==== Sys2Proof/Machine/Resets.lean ====
section
/-! DEFINITION. Resets, the power-up and warm sequences, self-tests and the fence (R384 to R401). -/

namespace Sys2Proof.Machine

/-! ## The fail log (R395, R398) -/

/-- BST_LOGn_LOC and BST_LOGn_DET of an entry. -/
def failWords (cmd : Bool) (e : FailEntry) : Word × Word :=
  (putBit 63 true ||| putBit 62 cmd ||| putAt 58 4 e.area.toNat ||| putAt 48 10 e.core.toNat ||| putAt 43 5 e.dev.toNat
    ||| putAt 38 5 e.die.toNat ||| putAt 33 5 e.bank.toNat ||| putAt 17 16 e.row.toNat ||| putAt 11 6 e.col.toNat,
   putAt 55 9 e.bit.toNat ||| putAt 51 4 e.bits.toNat ||| putAt 0 48 e.offset.toNat)

/-- A test run records what it finds: the log cleared at its start, 64 entries, the rest counted. -/
def State.logFails (s : State) (cmd : Bool) (l : List FailEntry) : State :=
  let b := { s.bst with log := (l.take 64).map (failWords cmd), lost := BitVec.ofNat 16 (min (l.length - 64) 0xFFFF) }
  (({ s with bst := b }).raiseIf (!l.isEmpty) .bst 0).raiseIf (decide (64 < l.length)) .bst 2

/-- The bit of BST_PU that an entry sets; a bank core counts as its device (log entry 82). -/
def failPuBit (e : FailEntry) : Word :=
  match e.area.toNat with
  | 1 | 2 | 3 | 4 => putBit (24 + quarterOf e.core.toNat) true
  | 5 => putBit 29 true
  | 6 | 7 => putBit e.dev.toNat true
  | _ => 0

/-- The entry belongs to a fenced quarter, which power-up BIST skips (R401). -/
def State.skipsEntry (s : State) (e : FailEntry) : Bool :=
  decide (1 ≤ e.area.toNat) && decide (e.area.toNat ≤ 4) && s.fencedCore e.core.toNat

/-- Power-up BIST (R393, R395): phase 7, and phase 8 after a cold reset, which finds nothing where BST_CFG.PUMEM only zeroes.
It changes no behaviour. Where phase 8 does not run BST_PU keeps its DEVICE bits. -/
def State.powerBist (s : State) (cold : Bool) (l : List FailEntry) : State :=
  let t2 := cold && s.flash.pumem != 0
  let l := l.filter (fun e => !s.skipsEntry e && (t2 || decide (e.area.toNat ≤ 5)))
  let s := s.logFails false l
  let kept := if cold then 0 else s.bst.pu &&& 0xFFFFFF
  { s with bst := { s.bst with pu := l.foldl (fun w e => w ||| failPuBit e) kept } }

/-! ## The sequence (R393, R394) -/

/-- The sequence stops short of READY. -/
def State.stopAt (s : State) (phase code : Nat) : State :=
  ({ s with sys := { s.sys with fail := true },
            mgt := { s.mgt with stop := BitVec.ofNat 8 code, phase := BitVec.ofNat 8 phase } }).raise .mgt 0

/-- A phase that has not ended: the sequence stands in it until its limit. -/
def State.standsAt (s : State) (phase : Nat) : State := { s with mgt := { s.mgt with phase := BitVec.ofNat 8 phase } }

/-- Phase 4: the fence state comes into force, the core clock locks (R400, R360). -/
def State.phase4 (s : State) : State :=
  let s := { s with rst := { s.rst with active := s.flash.fence } }
  { s with pwr := { s.pwr with clock := s.clockTarget, why := s.clockWhy } }

/-- Phase 5: P7 trains from phase 3 of R290, and LNK_FN enters RUN; whether it comes up. -/
def State.phase5 (s : State) (pu : PowerUp) : State × Bool :=
  match widthOf 7 (pu.p7Lanes.setWidth 16) with
  | none => (s.portDown 7, false)
  | some (n, half) =>
    (((s.joinPort 7 n half pu.p7Neigh pu.p7Spare []).portUp 7 pu.p7Delay).setFnState .lnk .run, true)

/-- Phase 9: loop training of the torus pairs; P6 then trains with its neighbour (R290). -/
def State.phase9 (s : State) (pu : PowerUp) : State :=
  let s := (List.range 6).foldl (fun s p =>
    if bitAt pu.loops (p / 2) then s.putPort p { Port.off with state := 1, looped := true }
    else (s.putPort p Port.off).raise .lnk 2) s
  s.putPort 6 { Port.off with state := 2 }

/-- Phases 7 to 10. -/
def State.phases7 (s : State) (cold : Bool) (pu : PowerUp) : State :=
  let s := ((s.powerBist cold pu.fails).phase9 pu).standsAt 10
  { s with sys := { s.sys with ready := true } }

/-- Phases 4 to 10: the phase that hangs, if one does, holds the sequence there. -/
def State.phases4 (s : State) (cold : Bool) (pu : PowerUp) : State :=
  if pu.hang = some 4 then s.standsAt 4
  else
    let s := s.phase4
    if pu.hang = some 5 then s.standsAt 5
    else match s.phase5 pu with
      | (s, false) => s.stopAt 5 5
      | (s, true) =>
        if pu.hang = some 6 then s.standsAt 6
        else
          let t := s.trainDevices pu.trained
          if pu.trained ≠ 0xFFFFFF then t.stopAt 6 6 else (t.setFnState .mdv .run).phases7 cold pu

/-- A phase of the power-up sequence that verifies images: the types, and what follows. -/
def State.imagePhase (s : State) (n : BitVec 4) (types : List Nat) (pu : PowerUp) (rest : State → State) : State :=
  if pu.hang = some n then s.standsAt n.toNat
  else
    let r := s.bootTypes types
    if r.2 then rest r.1 else r.1.stopAt n.toNat n.toNat

/-- The power-up sequence: the management and Assay images, the regulator tables, the hub-boot and retimer images, then
the phases that a warm reset runs too. -/
def State.powerUp (s : State) (pu : PowerUp) : State :=
  s.imagePhase 1 [1, 2] pu (fun s => s.imagePhase 2 [4] pu (fun s =>
    s.imagePhase 3 [3, 5] pu (fun s => s.phases4 true pu)))

/-! ## Cold reset (R384, R390, R391) -/

/-- What a cold reset starts from: every field at its Reset value, fuses and flash kept; the standby log and the thermal
shutdown before it are reported (R355, R406), and so is a self-test that it ends (R397). -/
def State.coldBase (s : State) : State :=
  let flash := { s.flash.settleBank with logNew := false, tshut := false, claim := Vector.replicate 4 0 }
  let z := { State.reset with pending := s.pending, fresh := s.fresh, sent := s.sent, flash := flash,
                              bst := { Bst.atReset with result := if s.bst.busy then 3 else 0 } }
  (z.raiseIf s.flash.logNew .mgt 1).raiseIf s.flash.tshut .pwr 3

/-- COLD_RESET (R384, R393): power-on, a PWR_EN cycle or the exit from PS4; PWR_EN is high. -/
def execColdReset (pu : PowerUp) (s : State) : Out := .next (s.coldBase.powerUp pu).settleAttn

/-- A phase of the sequence has begun and not ended. -/
def State.hangs (s : State) : Bool := !s.sys.ready && !s.sys.fail && decide (1 ≤ s.mgt.phase.toNat) && decide (s.mgt.phase.toNat ≤ 6)

/-- POWER_UP_PHASE_TIMEOUT (R393): the code of phases 1 to 6 is the phase. -/
def execPowerUpPhaseTimeout (s : State) : Out := whenB s.hangs s (s.stopAt s.mgt.phase.toNat s.mgt.phase.toNat)

/-! ## Warm reset (R384, R385, R390 to R392, R394) -/

/-- A cold or warm reset is in progress: its sequence has neither reached READY nor stopped in a phase after which a
narrower reset can act (R385, log entry 126). -/
def State.inSequence (s : State) : Bool := !s.sys.ready && !(s.sys.fail && decide (4 ≤ s.mgt.phase.toNat))

/-- A cold reset is in progress; a narrower reset is then discarded (R385). -/
def State.coldRuns (s : State) : Bool := s.rst.last == 1 && s.inSequence

/-- A warm reset may start. -/
def State.mayWarm (s : State) : Bool := s.mainOn && !s.coldRuns

/-- A self-test on command is cut: RESULT reads 0b11, and a device holds undefined content and seal bits (R397). -/
def State.cutTest (s : State) : State :=
  if s.bst.busy then
    let t := { s with bst := { s.bst with busy := false, result := 3 } }
    if fldN s.bst.ctrl 8 4 = 3 then
      let d := fldN s.bst.ctrl 0 5
      { t.drawn with mdv := { t.mdv with lost := (d, s.fresh) :: t.mdv.lost.filter (fun e => e.1 != d) } }
    else t
  else s

/-- T2 alone of memory. -/
def onlyT2 (m : List Host.Cell) : List Host.Cell := smClear 0 t2Base (smClear (t2Base + t2Size) (t3Base + 256 * apSize) m)

/-- MDV through a warm reset: content, seals, repairs and temperatures stay. -/
def Mdv.warm (m : Mdv) : Mdv :=
  { Mdv.atReset with hot := m.hot, temp := m.temp, repairs := m.repairs, diff := m.diff, unsealed := m.unsealed,
                     lost := m.lost }

/-- PWR through a warm reset: PWR_ENERGY and the ACC fields clear only at a cold reset. -/
def Pwr.warm (p : Pwr) : Pwr := { Pwr.atReset with energy := p.energy, thrAcc := p.thrAcc }

/-- SEC through a warm reset: what the Assay unit runs, counts and locks stays; session and challenge go. -/
def Sec.warm (x : Sec) : Sec :=
  { Sec.atReset with fails := x.fails, lockout := x.lockout, opens := x.opens, alt := x.alt, run := x.run }

/-- The link block through a warm reset: SEC_PORTPROT is kept, staged and in force; the pending transactions are abandoned,
and what still answers them counts (R303). -/
def Lnk.warm (l : Lnk) : Lnk :=
  let z := Lnk.atReset
  let set := z.set
  { z with wire := l.wire, abandoned := l.abandoned ++ l.trans.map (·.tag), nextTag := l.nextTag, nextId := l.nextId
           set := { staged := { set.staged with prot := l.set.staged.prot },
                    current := { set.current with prot := l.set.current.prot }, before := none } }

/-- What a warm reset starts from (R390); `last` is RST_STATUS.LAST. -/
def State.warmBase (s : State) (last : BitVec 4) : State :=
  let s := (if s.mdv.busy then s.repairDone else s).cutTest
  { State.reset with
    pending := s.pending, fresh := s.fresh, sent := s.sent, cause := s.keptCauses, flash := s.flash,
    sys := { Sys.atReset with standby := s.sys.standby, pwrLow := s.sys.pwrLow,
                              entering := if s.sys.pwrLow then s.sys.entering else none },
    bea := { s.bea with loadPend := none, late := 0 },
    mem := onlyT2 s.mem, mdv := s.mdv.warm, lnk := s.lnk.warm, pwr := s.pwr.warm, sec := s.sec.warm,
    atn := { s.atn with mask := 0, frame := true, count := 0 },
    rst := { s.rst with last := last, warms := s.rst.warms + 1, arrayPend := false, arrayBusy := false },
    bst := s.bst, mgt := { s.mgt with stop := 0, phase := 0 } }

/-- A warm reset: groups 1 to 8 and 10 revert. -/
def State.warmReset (s : State) (last : BitVec 4) (pu : PowerUp) : State :=
  (((s.warmBase last).reverted 0x5FE).phases4 false pu).settleAttn

/-- RST_IN_N (R384, R385): the warm sequence that begins at its rising edge. It is ignored while PWR_EN is low (R414,
R417). -/
def execRstInN (pu : PowerUp) (s : State) : Out := whenB (s.mayWarm && !s.sys.pwrLow) s (s.warmReset 2 pu)

/-- What a sequence meets where nothing fails. -/
def cleanStart : PowerUp := ⟨none, 0xF, 0, false, 0, 0xFFFFFF, 7, []⟩

/-- WARM written to SYS_RESET. -/
def State.putSysReset (s : State) (v : Word) (pu : PowerUp) : State :=
  if bitAt v 0 ∧ s.mayWarm then s.warmReset 3 pu else s

/-! ## Array and port resets (R386, R387) -/

/-- An array reset is pending or under way. -/
def State.arrayReset (s : State) : Bool := s.rst.arrayPend || s.rst.arrayBusy

/-- ARRAY written to RST_CTRL: discarded while a wider reset is in progress, refused while a self-test runs, else it acts at
the next beat edge. -/
def State.askArrayReset (s : State) : State :=
  if s.inSequence then s
  else if s.bst.busy then s.raise .rst 2 else { s with rst := { s.rst with arrayPend := true } }

/-- Ports reset: they retrain from phase 3; the reset of P7 closes the session (R387). -/
def State.resetPorts (s : State) (ports : BitVec 8) : State :=
  if ports = 0 ∨ s.arrayReset ∨ s.inSequence then s
  else
    let t := s.retrainPorts ports
    let t := if bitAt ports 7 then t.closeSession else t
    { t with rst := { t.rst with last := 5 } }

/-- RST_CTRL as written: the array reset is the wider one (R385). -/
def State.putRstCtrl (s : State) (v : Word) : State :=
  if bitAt v 0 then
    let t := s.askArrayReset
    if s.bst.busy then t.resetPorts (fld v 8 8) else t
  else s.resetPorts (fld v 8 8)

/-- ARRAY_RESET_COMPLETE (R386). -/
def execArrayResetComplete (s : State) : Out :=
  whenB s.rst.arrayBusy s ({ s with rst := { s.rst with arrayBusy := false } }).stopArray

/-! ## Fence (R399) -/

/-- SET and CLEAR of RST_FENCE; QUARTER is stored whatever becomes of the request. -/
def State.putFence (s : State) (v : Word) : State :=
  let q := fld v 8 2
  let bit : BitVec 4 := 1 <<< q.toNat
  let held := s.rst.active ||| s.flash.fence
  let s := { s with rst := { s.rst with quarter := q } }
  if bitAt v 10 then
    if bitAt v 11 || (held &&& ~~~ bit) != 0 then s.raise .rst 0
    else if held &&& bit != 0 then s else { s with flash := { s.flash with fence := bit } }
  else if bitAt v 11 then { s with flash := { s.flash with fence := 0 } }
  else s

/-! ## Self-test on command (R396, R397) -/

/-- BST_CTRL after a write: TARGET and, for PATTERN, the values that are not reserved (R7). -/
def bstFields (old v : Word) : Word :=
  let t := fldN v 8 4
  let p := fldN v 16 2
  let w := setFld old 0 5 (fldN v 0 5)
  let w := if 1 ≤ t ∧ t ≤ 3 then setFld w 8 4 t else w
  if p < 2 then setFld w 16 2 p else w

/-- The condition of the target of BST_CTRL holds. -/
def State.mayTest (s : State) (ctrl : Word) : Bool :=
  let i := fldN ctrl 0 5
  let rest := s.stopped .ary && s.noCast && s.loadMap
  match fldN ctrl 8 4 with
  | 1 => decide (i < 4) && rest
  | 2 => i == 0 && rest
  | 3 => decide (i < 24) && s.loadMap && s.running .mdv && s.bnk.launches.all (·.done)
  | _ => false

/-- BST_CTRL as written. A refused test changes nothing else. -/
def State.putBstCtrl (s : State) (v : Word) : State :=
  let w := bstFields s.bst.ctrl v
  if !bitAt v 63 then { s with bst := { s.bst with ctrl := w } }
  else if s.sys.ps != 0 || s.bst.busy || !s.mayTest w then s.raise .bst 1
  else { s with bst := { s.bst with ctrl := w, busy := true, result := 0, progress := 0, log := [], lost := 0 } }

/-- A quarter's stores are zeroed: the logical cores that lie in it. -/
def State.zeroQuarter (s : State) (q : Nat) : State :=
  let here (c : Nat) : Bool := decide (c < s.sizCores) && quarterOf (s.physCore c) == q
  { s with mem := s.mem.filter (fun e => !(decide (e.1 < t1Base) && here (e.1 / 0x100000))),
           headers := s.headers.filter (fun e => !here (e.1 / 32)) }

/-- A device is zeroed, every row sealed. -/
def State.zeroDevice (s : State) (d : Nat) : State :=
  let a := t2Base + devSize * d
  let rows := 640 * 65536
  { s with mem := smClear a (a + devSize) s.mem,
           mdv := { s.mdv with diff := smClear (d * rows * 64) ((d + 1) * rows * 64) s.mdv.diff,
                               unsealed := smClear (d * rows) ((d + 1) * rows) s.mdv.unsealed,
                               lost := s.mdv.lost.filter (fun e => e.1 != d) } }

/-- A completed test leaves its target zeroed. -/
def State.zeroTarget (s : State) (ctrl : Word) : State :=
  let i := fldN ctrl 0 5
  match fldN ctrl 8 4 with
  | 1 => s.zeroQuarter i
  | 2 => { s with mem := smClear t1Base t1End s.mem }
  | 3 => s.zeroDevice i
  | _ => s

/-- BIST_COMPLETE (R397, R398). -/
def execBistComplete (fails : List FailEntry) (s : State) : Out :=
  let a := (s.zeroTarget s.bst.ctrl).logFails true fails
  whenB (s.bst.busy && s.mainOn) s
    { a with bst := { a.bst with busy := false, progress := 100, result := if fails.isEmpty then 1 else 2 } }

end Sys2Proof.Machine
end

