-- ==== Sys2Proof/Machine/Sessions.lean ====
section
/-! DEFINITION. The host's requests on P7 (R366 to R369): how one arrives and is answered, privilege; sessions, keys,
firmware updates and attestation (R370 to R379), attention frames (R381). -/

namespace Sys2Proof.Machine

/-! ## Requests and answers -/

/-- A HOST frame with a request arrives in order on P7 (R288). Its command stands for the request once the tag of its
group has been found good (log entry 54). -/
def State.hostIn (s : State) : State :=
  ({ s with sec := { s.sec with reqs := s.sec.reqs + 1 } }).takeFrames 7 1 (channelOf 12 false)

/-- A request on P7: it comes only while the port is up. -/
def hostReq (s : State) (act : State → State) : Out := whenB (s.port 7).isUp s (act s.hostIn)

/-- Answer a request with a status alone. -/
def State.status (s : State) (op st : Nat) (addr : Word) : State := s.respond op st addr [] []

/-- A request below its level (R369): PRIV, recorded if SEC_PRIVLOG has held no record since SEC_CAUSE.PRIV was last
zero (R382). -/
def State.refusePriv (s : State) (op need : Nat) (addr : Word) : State :=
  let free := !bitAt s.sec.privlog 63 || !bitAt (s.causeOf .sec) 0
  let rec_ := putBit 63 true ||| putAt 61 2 (min need 3) ||| putAt 55 6 op ||| putAt 0 48 addr.toNat
  let s := if free then { s with sec := { s.sec with privlog := rec_ } } else s
  (s.raise .sec 0).status op 1 addr

/-- The least privilege of an operation, a level above OWNER for what SMBus alone may write. -/
def State.allowed (s : State) (need : Nat) : Bool := decide (need ≤ s.priv.toNat)

/-- A request of a session: NOSESSION without one, BADREQ where its fields break the table, PRIV below its level. -/
def sessionReq (op need : Nat) (addr : Word) (wellMade : Bool) (act : State → State) (s : State) : Out :=
  hostReq s (fun s =>
    if s.sec.session.isNone then s.status op 5 addr
    else if !wellMade then s.status op 6 addr
    else if !s.allowed need then s.refusePriv op need addr
    else act s)

/-! ## Sessions (R371 to R373) -/

/-- SN: SIZ_ID.MEMBER and the module serial, least significant byte first. -/
def State.serialName (s : State) : List Byte :=
  leBytes 2 (fldN (s.sizEntry 0) 32 16) ++ leBytes 8 s.flash.serial[0].toNat ++ leBytes 8 s.flash.serial[1].toNat

/-- The key slot of a number. -/
def State.keySlot (s : State) (n : Nat) : KeySlot := smGet ⟨0, []⟩ s.flash.keys n

/-- What both sides put under the proofs: a label, two nonces, SN and the slot. -/
def State.proofText (s : State) (label : String) (a b : List Byte) (slot : BitVec 4) : List Byte :=
  textBytes label ++ a ++ b ++ s.serialName ++ [slot.setWidth 8]

/-- The traffic keys, in the order of R373. -/
def trafficKeys (key salt : List Byte) : List (List Byte) :=
  [hkdf384 key salt (textBytes "YN P7 H2M key") 32, hkdf384 key salt (textBytes "YN P7 M2H key") 32,
   hkdf384 key salt (textBytes "YN P7 H2M iv") 4, hkdf384 key salt (textBytes "YN P7 M2H iv") 4]

/-- The challenge to a host nonce: a new identifier and nonce, both free (R371). -/
def State.newChallenge (s : State) (slot : BitVec 4) (nh : List Byte) : Challenge :=
  { slot := slot, nh := nh, nd := (List.range 32).map (Config.freeByte s.fresh), sid := fld (Config.freeWord s.fresh) 0 32 }

/-- SOPEN (R371, R372): the newest challenge replaces the one before. -/
def execSopen (slot : Word) (nonce : List Byte) (s : State) : Out :=
  hostReq s (fun s =>
    if 15 < slot.toNat ∨ nonce.length ≠ 32 then s.status 0x10 6 slot
    else if s.sec.lockout then s.status 0x10 9 slot
    else
      let c := s.newChallenge (fld slot 0 4) nonce
      let t := s.drawn
      let t := { t with sec := { t.sec with challenge := some c } }
      t.respond 0x11 0 (c.sid.setWidth 64) c.nd [])

/-- A session proof fails: counted; the eighth in a row locks opening (R372). -/
def State.proofFails (s : State) (slot : Word) : State :=
  let x := s.sec
  let lock := decide (8 ≤ x.fails + 1)
  let s := { s with sec := { x with fails := x.fails + 1, authfail := addLo x.authfail 1, lockout := lock } }
  ((s.raise .sec 1).raiseIf lock .sec 2).status 0x12 8 slot

/-- The frames that follow on P7 are protected with the session's keys: the group under way ends first (R373, R374). -/
def State.newKeys (s : State) (n : Session) : State :=
  let s := s.sendCtrl 7 none
  s.putPort 7 { s.port 7 with key := some (n.keys.getD 1 [], n.keys.getD 3 []), group := [], ctrls := 0 }

/-- The proof is right: the session opens in place of any open one (R371, R372). -/
def State.openSession (s : State) (c : Challenge) : State :=
  let k := s.keySlot c.slot.toNat
  let x := s.sec
  let n : Session := { slot := c.slot, priv := k.priv, sid := c.sid, keys := trafficKeys k.key (c.nh ++ c.nd) }
  let t := (s.respond 0x13 0 (c.sid.setWidth 64) (hmac384 k.key (s.proofText "YN-OK" c.nh c.nd c.slot)) []).newKeys n
  { t with sec := { t.sec with session := some n, challenge := none, fails := 0, opens := x.opens + 1 } }

/-- The proof answers the challenge: the slot is the one challenged, it holds a key, and the code matches. -/
def State.proofRight (s : State) (c : Challenge) (slot : BitVec 4) (proof : List Byte) : Bool :=
  let k := s.keySlot c.slot.toNat
  c.slot == slot && k.priv != 0 && proof == hmac384 k.key (s.proofText "YN-OPEN" c.nd c.nh c.slot)

/-- SPROOF (R371, R372). -/
def execSproof (slot : Word) (proof : List Byte) (s : State) : Out :=
  hostReq s (fun s =>
    if 15 < slot.toNat ∨ proof.length ≠ 48 then s.status 0x12 6 slot
    else if s.sec.lockout then s.status 0x12 9 slot
    else match s.sec.challenge with
      | none => s.proofFails slot
      | some c => if s.proofRight c (fld slot 0 4) proof then s.openSession c else s.proofFails slot)

/-- SCLOSE (R372): served and answered, and the session closes. -/
def execSclose (s : State) : Out := sessionReq 0x14 1 0 true (fun s => (s.status 0x14 0 0).closeSession) s

/-- SESSION_LOCKOUT_EXPIRE (R372): the count of failures in a row begins again (log entry 53). -/
def execSessionLockoutExpire (s : State) : Out :=
  whenB s.sec.lockout s { s with sec := { s.sec with lockout := false, fails := 0 } }

/-! ## Keys (R370, R375) -/

/-- SKEY (R370): a slot filled, or emptied by privilege 0. -/
def execSkey (slot : Word) (priv : BitVec 8) (key : List Byte) (s : State) : Out :=
  let ok := decide (1 ≤ slot.toNat) && decide (slot.toNat ≤ 15) && decide (priv.toNat ≤ 3) && key.length == 32
  let v : KeySlot := if priv = 0 then ⟨0, []⟩ else ⟨fld priv 0 2, key⟩
  sessionReq 0x20 3 slot ok (fun s =>
    ({ s with flash := { s.flash with keys := smPut ⟨0, []⟩ s.flash.keys slot.toNat v } }).status 0x20 0 slot) s

/-- FKEY (R375): installed, or erased by LEN 0. -/
def execFkey (key : List Byte) (s : State) : Out :=
  sessionReq 0x21 3 0 (key.length == 32 || key.isEmpty) (fun s =>
    ({ s with flash := { s.flash with fabric := key } }).status 0x21 0 0) s

/-- RELEASE (R370): every slot and the fabric key erased, the session closed, the module UNCLAIMED. -/
def State.releaseOwner (s : State) : State :=
  ({ s with flash := { s.flash with keys := [], fabric := [], owned := false } }).closeSession

/-- SEC_CTRL as written: COMMIT_SVN, RELEASE, CLOSE. -/
def State.putSecCtrl (s : State) (v : Word) : State :=
  let s := if bitAt v 1 then s.commitSvn else s
  let s := if bitAt v 2 then s.releaseOwner else s
  if bitAt v 0 then s.closeSession else s

/-- SEC_CLAIMn as written over SMBus (R370). -/
def State.putClaim (s : State) (n : Nat) (v : Word) : State :=
  if s.flash.owned then s else { s with flash := { s.flash with claim := s.flash.claim.set! n v } }

/-- GO written to SEC_CLAIM_GO over SMBus (R370): slot 0 holds the key as OWNER. -/
def State.claimGo (s : State) (v : Word) : State :=
  if s.flash.owned || !bitAt v 0 then s
  else
    let key := s.flash.claim.toList.flatMap (fun w => leBytes 8 w.toNat)
    { s with flash := { s.flash with keys := smPut ⟨0, []⟩ s.flash.keys 0 ⟨3, key⟩, owned := true } }

/-! ## Firmware updates (R377) -/

/-- An update waits for the verification in progress. -/
def unlessVerifying (op : Nat) (addr : Word) (act : State → State) (s : State) : State :=
  if s.sec.verifying.isSome then s.status op 7 addr else act s

/-- FWW (R377): image bytes into the staged image. -/
def execFww (offset : Word) (data : List Byte) (s : State) : Out :=
  sessionReq 0x28 3 offset (decide (data.length ≤ 448)) (unlessVerifying 0x28 offset (fun s =>
    ({ s with sec := { s.sec with staged := smPutRun 0 s.sec.staged offset.toNat data } }).status 0x28 0 offset)) s

/-- FWEND (R377): verification begins; the answer comes with its end. -/
def execFwend (len : Word) (s : State) : Out :=
  sessionReq 0x29 3 len true (unlessVerifying 0x29 len (fun s =>
    ({ s with sec := { s.sec with verifying := some len.toNat } }).pushAnswer (some .image) [])) s

/-- FIRMWARE_VERIFY_COMPLETE (R376, R377): OK, or BADREQ with FWFAIL. The staged image is used up. An image longer than
any that its header could describe is not read. -/
def execFirmwareVerifyComplete (s : State) : Out :=
  match s.sec.verifying with
  | none => .next s
  | some n =>
    let head := smGetRun 0 s.sec.staged 0 24
    let m := if n = imageHead + imgNum head 16 8 then smGetRun 0 s.sec.staged 0 n else []
    let t := { s with sec := { s.sec with verifying := none, staged := [] } }
    let r := t.verified m
    .next (r.1.lateAnswer .image (oneFrame 0x29 (if r.2 then 0 else 6) (BitVec.ofNat 64 n) [] []))

/-! ## Attestation (R379) -/

/-- ATTEST (R379): a second one meanwhile is answered with BUSY. -/
def execAttest (nonce : List Byte) (s : State) : Out :=
  sessionReq 0x30 1 0 (nonce.length == 32) (fun s =>
    if s.sec.attest.isSome then s.status 0x30 7 0
    else ({ s with sec := { s.sec with attest := some nonce } }).pushAnswer (some .report) []) s

/-- Five bytes, type 1 first. -/
def typeBytes (v : Vector (BitVec 8) 5) : List Byte := v.toList

/-- Bytes 0 to 1,279 of the attestation report. -/
def State.reportBody (s : State) (nonce : List Byte) : List Byte :=
  padTo 1280 (leBytes 8 0x54525441524E5947 ++ padTo 32 nonce ++ leBytes 8 s.flash.serial[0].toNat
    ++ leBytes 8 s.flash.serial[1].toNat ++ leBytes 8 (s.sizEntry 0).toNat ++ leBytes 8 s.bea.count.toNat
    ++ leBytes 2 s.secState.toNat ++ typeBytes s.sec.run ++ typeBytes s.flash.fuse
    ++ (List.range 5).flatMap (fun i => s.runHash (i + 1))
    ++ (List.range 16).map (fun n => (s.slotPriv n).setWidth 8)
    ++ padTo 48 (Config.identityHash 0) ++ padTo 48 (Config.identityHash 1))

/-- The report with its two signatures, 17,888 bytes. -/
def State.report (s : State) (nonce : List Byte) : List Byte :=
  let b := s.reportBody nonce
  b ++ padTo 16608 (Config.attestSignature b s.fresh)

/-- The frames of a report: 448 bytes each, OFF ascending, LAST on the final one. -/
def reportFrames (off : Nat) : Nat → List Byte → List HostMsg
  | 0, _ => []
  | n + 1, l => ⟨0x30, 0, 0, off, n == 0, [], l.take 448⟩ :: reportFrames (off + 1) n (l.drop 448)

/-- ATTEST_COMPLETE (R379). -/
def execAttestComplete (s : State) : Out :=
  match s.sec.attest with
  | none => .next s
  | some nonce =>
    let t := s.drawn
    let t := { t with sec := { t.sec with attest := none } }
    .next (t.lateAnswer .report (reportFrames 0 40 (s.report nonce)))

/-! ## Attention frames (R381) -/

/-- An ATTN frame with the unmasked summary as it is. -/
def State.sendAttn (s : State) : State :=
  let t := s.hostFrame none ⟨0x38, 0, 0, 0, true, leBytes 8 s.attention.toNat, []⟩
  { t with atn := { t.atn with owed := false } }

/-- An ATTN frame can be sent: a session is open and P7 carries frames. -/
def State.mayAttn (s : State) : Bool := s.sec.session.isSome && (s.port 7).isUp

/-- ATTN_FRAME_SEND (R381). -/
def execAttnFrameSend (s : State) : Out := whenB (s.mayAttn && s.atn.frame && s.atn.owed) s s.sendAttn

/-- ATN_CTRL as written: FRAME, and RESEND, which sends the present value at once. -/
def State.putAtnCtrl (s : State) (v : Word) : State :=
  let t := { s with atn := { s.atn with frame := bitAt v 0 } }
  if bitAt v 1 && t.mayAttn then t.sendAttn else t

end Sys2Proof.Machine
end

