-- ==== Sys2Proof/Machine/RegWrite.lean ====
section
/-! DEFINITION. Writes of the control space (R7, R8, R11, R408 and the register tables of every block): the least
privilege that a write needs and the state after it. Privilege is 1 TENANT, 2 OPERATOR, 3 OWNER, and 4 for what only
SMBus may write. -/

namespace Sys2Proof.Machine

/-- What a write of a register is: the least privilege that it needs, and the state after it. -/
abbrev RegAct := Nat × State

/-! ## Fields (R7, R11) -/

/-- One field taken from the value written, unless the value is reserved: then the field stands (R7). -/
def takeFld (lo w : Nat) (ok : Nat → Bool) (v old : Word) : Word :=
  let x := fldN v lo w
  if ok x then setFld old lo w x else old

/-- A field with no reserved value. -/
def anyValue (_ : Nat) : Bool := true

/-- A field in which 0 is reserved. -/
def notZero (x : Nat) : Bool := x != 0

/-- A field with a range of values. -/
def inRange (a b x : Nat) : Bool := decide (a ≤ x) && decide (x ≤ b)

/-- The privilege of a write of RW fields: a field written with its present value does not count (R11). -/
def needIf (changes : Bool) (level : Nat) : Nat := if changes then level else 1

/-- Write an RW register of level `level`: `new` is its value with reserved values left out. -/
def rwAct (level : Nat) (old new : Word) (put : Word → State) : RegAct := (needIf (old != new) level, put new)

/-- Write an epoch-bound register: taken if `may`, otherwise the EPOCH cause is set (R50). -/
def State.stageAct (s : State) (b : FnBlock) (may : Bool) (old new : Word) (put : Word → State) : RegAct :=
  rwAct 2 old new (fun w => if may then put w else s.raise (fnBlk b) (fnEpochBit b))

/-- A write that changes nothing. -/
def State.ignored (s : State) : RegAct := (1, s)

/-! ## SYS, BEA, CND -/

/-- A write to SYS. -/
def State.writeSys (s : State) (o : Nat) (v : Word) : RegAct :=
  match o with
  | 0x018 => (needIf (!decide (4 < fld v 0 3) && fld v 0 3 != s.sys.target) 2, s.putPstate v)
  | 0x020 => (needIf (bitAt v 0) 3, s.putSysReset v cleanStart)
  | _ => s.ignored

/-- BEA_CTRL as a write leaves it (R31). -/
def beaCtrl (v old : Word) : Word :=
  takeFld 16 16 notZero v (takeFld 8 3 (· != 7) v (takeFld 4 2 (· != 3) v (takeFld 0 2 (· != 3) v old)))

/-- A write to BEA; only the value free-run of SRC needs OPERATOR. -/
def State.writeBea (s : State) (o : Nat) (v : Word) : RegAct :=
  let b := s.bea
  match o with
  | 0x000 =>
    let w := beaCtrl v b.ctrl
    (needIf (fldN w 0 2 == 0 && fldN b.ctrl 0 2 != 0) 2, { s with bea := { b with ctrl := w } })
  | 0x018 => (2, s.putBeaLoad v)
  | 0x020 => (1, { s with bea := { b with tai := v } })
  | 0x028 => (1, s.putBeaAlarm v)
  | 0x030 => rwAct 2 b.bar (takeFld 8 32 anyValue v (takeFld 0 8 notZero v b.bar)) (fun w => { s with bea := { b with bar := w } })
  | _ => s.ignored

/-- A write to CND. Check 2 of R39 refuses a CND_RUN write by privilege. -/
def State.writeCnd (s : State) (o : Nat) (v : Word) : RegAct :=
  match o with
  | 0x000 => (1, s.putCastBase v)
  | 0x008 => (needIf (s.stopped .cnd && s.noCast && s.flagsNeedOperator) 2, s.runWakes.putRunBeat v)
  | 0x078 => (needIf (bitAt v 0) 2, if bitAt v 0 then s.askQuench else s)
  | _ => s.ignored

/-! ## ARY, CRW -/

/-- A write to ARY (R108). -/
def State.writeAry (s : State) (o : Nat) (v : Word) : RegAct :=
  let e := s.sheet.set
  match o with
  | 0x000 =>
    s.stageAct .ary (s.stopped .ary && s.noCast) e.staged.cfg
      (takeFld 4 4 (inRange 1 8) v (takeFld 0 1 anyValue v e.staged.cfg))
      (fun w => { s with sheet := { s.sheet with set := e.stage { e.staged with cfg := w } } })
  | _ => s.ignored

/-- CRW_SEL as written: a CORE out of range leaves it unchanged (R109). -/
def State.putCrwSel (s : State) (v : Word) : State :=
  if s.sizCores ≤ fldN v 0 10 then s.raise .crw 1
  else { s with crw := { s.crw with core := fld v 0 10, store := if fld v 16 2 = 3 then s.crw.store else fld v 16 2 } }

/-- CRW_DATA as written (R109). -/
def State.putCrwData (s : State) (v : Word) : State :=
  if !s.crwOpen then s.raise .crw 0
  else if s.crw.store = 2 then
    ({ s with headers := smPut 0 s.headers (s.crw.core.toNat * 32 + s.crwOffset / 8) v }).crwAdvance
  else (s.putRun s.crwByte (leBytes 8 v.toNat)).crwAdvance

/-- A write to CRW. -/
def State.writeCrw (s : State) (o : Nat) (v : Word) : RegAct :=
  match o with
  | 0x000 => (1, s.putCrwSel v)
  | 0x008 => (1, { s with crw := { s.crw with offset := fld v 3 16 } })
  | 0x010 => (needIf (v != if s.crwOpen then s.crwWord else 0) 2, s.putCrwData v)
  | _ => s.ignored

/-! ## TMV, TIR, MDV -/

/-- A write to TMV (R206). -/
def State.writeTmv (s : State) (o : Nat) (v : Word) : RegAct :=
  let e := s.tmv.cfg
  match o with
  | 0x000 =>
    s.stageAct .tmv (s.stopped .tmv && s.loadMap) e.staged
      (takeFld 7 17 anyValue v (takeFld 0 6 notZero v e.staged))
      (fun w => { s with tmv := { s.tmv with cfg := e.stage w } })
  | 0x010 => (1, if bitAt v 0 then s.startRelease else s)
  | 0x018 => (1, { s with tmv := { s.tmv with probe := fld v 0 28 } })
  | _ => s.ignored

/-- A write to TIR (R207). -/
def State.writeTir (s : State) (o : Nat) (v : Word) : RegAct :=
  match o with
  | 0x058 => (1, { s with tir := { s.tir with slotSel := fld v 0 12 } })
  | _ => s.ignored

/-- The RW fields of MDV_REPAIR. -/
def repairFields : Word := 0x4000000FFFFFFFE0

/-- A write to MDV (R226, R229, R230). GO of MDV_REPAIR takes its fields only with a repair that starts; GO with HARD from a
session below OWNER is a request that R229 refuses, not a write that lacks privilege. -/
def State.writeMdv (s : State) (o : Nat) (v : Word) : RegAct :=
  let e := s.mdv.cfg
  match o with
  | 0x000 =>
    s.stageAct .mdv (s.stopped .mdv) e.staged
      (takeFld 24 8 anyValue v (takeFld 12 4 notZero v (takeFld 8 4 notZero v
        (takeFld 4 4 notZero v (takeFld 0 1 anyValue v e.staged)))))
      (fun w => { s with mdv := { s.mdv with cfg := e.stage w } })
  | 0x010 => (1, if bitAt v 0 && s.stopped .mdv then s.trainDevices s.mdv.trained else s)
  | 0x050 => (1, { s with mdv := { s.mdv with sealSel := fld v 0 25 } })
  | 0x060 => (needIf (bitAt v 0 != s.mdv.override) 2, { s with mdv := { s.mdv with override := bitAt v 0 } })
  | 0x068 =>
    let r := s.mdv.repair
    (if bitAt v 62 != bitAt r 62 && !(bitAt v 63 && bitAt v 62) then 3
     else needIf (bitAt v 63 || v &&& repairFields != r) 2,
     if bitAt v 63 then s.startRepair v (s.allowed 3)
     else { s with mdv := { s.mdv with repair := v &&& repairFields } })
  | _ => s.ignored

/-! ## LNK, FOL, TWN, TIM -/

/-- Stage an epoch-bound setting of LNK (R306). -/
def State.stageLnk (s : State) (old new : Word) (put : LnkSet → Word → LnkSet) : RegAct :=
  let e := s.lnk.set
  s.stageAct .lnk (s.stopped .lnk) old new (fun w => { s with lnk := { s.lnk with set := e.stage (put e.staged w) } })

/-- LNK_APa as written, for apertures 32 to 255: accepted if the aperture is closed, or if the write closes it under the
load map (R299). The lower apertures are read-only (R306). -/
def State.writeAp (s : State) (a : Nat) (v : Word) : RegAct :=
  if a < 32 then s.ignored
  else
    let old := s.aperture a
    let new := takeFld 62 2 anyValue v (takeFld 60 2 (· != 3) v (takeFld 13 47 anyValue v old))
    rwAct 2 old new (fun w =>
      if !bitAt old 63 || (!bitAt w 63 && s.loadMap) then { s with lnk := { s.lnk with aps := smPut 0 s.lnk.aps a w } }
      else s.raise .lnk 12)

/-- LNK_CTRL as written: TAKE, GIVE, RETRAIN (R291). -/
def State.putLnkCtrl (s : State) (v : Word) : State :=
  let s := if bitAt v 16 then s.takeIn else s
  let s := if bitAt v 17 then s.releaseRing else s
  s.retrainPorts (fld v 0 8)

/-- A write to LNK. Of an entry of LNK_RTr written with reserved bits set, the other bits are taken: the model's choice
(log entry 105). -/
def State.writeLnk (s : State) (o : Nat) (v : Word) : RegAct :=
  let t := s.lnk.set.staged
  match slotAt o 0x200 4, slotAt o 0x300 8, slotAt o 0x800 256, slotAt o 0x1000 512 with
  | some r, _, _, _ =>
    s.stageLnk (smGet 0xFFFFFFFFFFFFFFFF t.dom r) v (fun t w => { t with dom := smPut 0xFFFFFFFFFFFFFFFF t.dom r w })
  | _, some n, _, _ =>
    s.stageLnk (smGet 0 t.exp n) (v &&& 0xFFFFFFFF01FFFFFF) (fun t w => { t with exp := smPut 0 t.exp n w })
  | _, _, some a, _ => s.writeAp a v
  | _, _, _, some r =>
    s.stageLnk (smGet 0x0F0F0F0F0F0F0F0F t.rt r) (v &&& 0x2F2F2F2F2F2F2F2F)
      (fun t w => { t with rt := smPut 0x0F0F0F0F0F0F0F0F t.rt r w })
  | _, _, _, _ =>
    match o with
    | 0x000 => s.stageLnk t.id (v &&& 0x000080FC0FFF0FFF) (fun t w => { t with id := w })
    | 0x008 =>
      s.stageLnk t.cfg (takeFld 48 16 anyValue v (takeFld 8 32 anyValue v (takeFld 0 5 notZero v t.cfg)))
        (fun t w => { t with cfg := w })
    | 0x010 => (needIf (v &&& 0x300FF != 0) 2, s.putLnkCtrl v)
    | _ => s.ignored

/-- A write to FOL (R328): HDR takes VALID and GID, Dd all but [38:36]. -/
def State.writeFol (s : State) (o : Nat) (v : Word) : RegAct :=
  let e := s.fol.set
  match slotAt o 0x1000 256 with
  | some i =>
    s.stageAct .fol (s.stopped .fol) (smGet 0 e.staged i)
      (v &&& (if i % 4 = 0 then 0x8000000000001FFF else 0xFFFFFF8FFFFFFFFF))
      (fun w => { s with fol := { s.fol with set := e.stage (smPut 0 e.staged i w) } })
  | none => s.ignored

/-- TWN_CTRL as written: SOLDER, UNSOLDER, RESUME (R329, R330, R338). -/
def State.putTwnCtrl (s : State) (v : Word) : State :=
  let s := if bitAt v 63 then s.startSolder else s
  let s := if bitAt v 62 then s.unsolder else s
  if bitAt v 61 then s.resumeHold (fld v 0 32) else s

/-- A write to TWN (R346). -/
def State.writeTwn (s : State) (o : Nat) (v : Word) : RegAct :=
  let e := s.twn.set
  match o with
  | 0x008 => s.stageAct .twn (s.stopped .twn) e.staged (v &&& 0x1FFFF) (fun w => { s with twn := { s.twn with set := e.stage w } })
  | 0x010 => (1, s.putTwnCtrl v)
  | 0x020 => (1, { s with twn := { s.twn with recov := fld v 0 16 } })
  | 0x070 => (1, s.putRdctl v)
  | 0x078 => (1, { s with twn := { s.twn with rdLen := fld v 0 48 } })
  | _ => s.ignored

/-- A write to TIM (R347). -/
def State.writeTim (s : State) (o : Nat) (v : Word) : RegAct :=
  match o with
  | 0x008 => (1, if bitAt v 0 then s.clearRing else s)
  | _ => s.ignored

/-! ## PWR, SEC, ATN -/

/-- Stage an epoch-bound setting of PWR (R365). -/
def State.stagePwr (s : State) (old new : Word) (put : PwrSet → Word → PwrSet) : RegAct :=
  let e := s.pwr.set
  s.stageAct .pwr (s.stopped .pwr) old new (fun w => { s with pwr := { s.pwr with set := e.stage (put e.staged w) } })

/-- PWR_CAP as written: 80 to 200 (R350). -/
def State.putCap (s : State) (v : Word) : State :=
  if inRange 80 200 (fldN v 0 8) then ({ s with pwr := { s.pwr with cap := fld v 0 8 } }).refreshCap else s

/-- PWR_CTRL as written: CLRACC, ANNEAL. -/
def State.putPwrCtrl (s : State) (v : Word) : State :=
  let s := if bitAt v 1 then s.clearAcc else s
  if bitAt v 0 then s.startAnneal else s

/-- A write to PWR. A CAP10 outside 80 to 200 leaves its field of PWR_CURVEn unchanged: the model's choice (log entry
81). -/
def State.writePwr (s : State) (o : Nat) (v : Word) : RegAct :=
  let t := s.pwr.set.staged
  match slotAt o 0x080 8 with
  | some n =>
    let old := smGet 0xC8 t.curve n
    s.stagePwr old (takeFld 63 1 anyValue v (takeFld 8 8 anyValue v (takeFld 0 8 (inRange 80 200) v old)))
      (fun t w => { t with curve := smPut 0xC8 t.curve n w })
  | none =>
    match o with
    | 0x000 => (1, s.putCap v)
    | 0x010 => (needIf (inRange 40 96 (fldN v 0 8) && fld v 0 8 != s.pwr.fstep) 2, s.putFreq v)
    | 0x018 => (needIf (v &&& 3 != 0) 2, s.putPwrCtrl v)
    | 0x040 =>
      s.stagePwr t.droop (takeFld 24 8 notZero v (takeFld 16 8 (inRange 1 64) v (takeFld 0 16 anyValue v t.droop)))
        (fun t w => { t with droop := w })
    | 0x048 =>
      s.stagePwr t.swarf (takeFld 63 1 anyValue v (takeFld 32 16 anyValue v (takeFld 16 16 notZero v
          (takeFld 0 16 notZero v t.swarf)))) (fun t w => { t with swarf := w })
    | 0x050 =>
      s.stagePwr t.loop (takeFld 8 8 anyValue v (takeFld 0 8 (inRange 1 64) v t.loop)) (fun t w => { t with loop := w })
    | 0x060 => (1, { s with pwr := { s.pwr with patSel := fld v 0 10 } })
    | _ => s.ignored

/-- SEC_PORTPROT as written: OWNER, and epoch-bound to LNK_FN (R375). -/
def State.writePortprot (s : State) (v : Word) : RegAct :=
  let old := s.lnk.set.staged.prot
  let a := s.stageLnk (old.setWidth 64) (v &&& 0x7F) (fun t w => { t with prot := fld w 0 7 })
  (needIf (fld v 0 7 != old) 3, a.2)

/-- A write to SEC. SEC_CLAIM belongs to SMBus (R370). -/
def State.writeSec (s : State) (o : Nat) (v : Word) : RegAct :=
  match slotAt o 0x038 4 with
  | some n => (4, s.putClaim n v)
  | none =>
    match o with
    | 0x010 => (needIf (v &&& 6 != 0) 3, s.putSecCtrl v)
    | 0x018 => s.writePortprot v
    | 0x058 => (4, s.claimGo v)
    | _ => s.ignored

/-- A write to ATN (R383). -/
def State.writeAtn (s : State) (o : Nat) (v : Word) : RegAct :=
  match o with
  | 0x008 => (1, { s with atn := { s.atn with mask := fld v 0 23 } })
  | 0x010 => (1, s.putAtnCtrl v)
  | _ => s.ignored

/-! ## RST, BST, MGT -/

/-- A write to RST (R404): RST_REVERTED is W1C. -/
def State.writeRst (s : State) (o : Nat) (v : Word) : RegAct :=
  match o with
  | 0x008 => (1, { s with rst := { s.rst with reverted := s.rst.reverted &&& ~~~ (fld v 0 11) } })
  | 0x010 => (needIf (v &&& 0xFF01 != 0) 2, s.putRstCtrl v)
  | 0x018 => (needIf (v &&& 0xC00 != 0 || fld v 8 2 != s.rst.quarter) 2, s.putFence v)
  | _ => s.ignored

/-- A write to BST (R405): PUMEM 0b11 is reserved. -/
def State.writeBst (s : State) (o : Nat) (v : Word) : RegAct :=
  match o with
  | 0x000 =>
    let p := fld v 0 2
    if p = 3 then s.ignored else (needIf (p != s.flash.pumem) 2, { s with flash := { s.flash with pumem := p } })
  | 0x008 => (needIf (bitAt v 63 || bstFields s.bst.ctrl v != s.bst.ctrl) 2, s.putBstCtrl v)
  | _ => s.ignored

/-- MGT_CTRL as written: P7RST, WAKE (R387, R388). -/
def State.putMgtCtrl (s : State) (v : Word) : State :=
  let s := if bitAt v 1 && s.mainOn then s.resetPorts 0x80 else s
  if bitAt v 0 then s.mgtWake else s

/-- A write to MGT (R406). -/
def State.writeMgt (s : State) (o : Nat) (v : Word) : RegAct :=
  match o with
  | 0x010 => (1, s.putMgtCtrl v)
  | 0x018 => (1, { s with mgt := { s.mgt with offset := fld v 3 13 } })
  | _ => s.ignored

/-! ## Writing -/

/-- A register of a block beside its cause, mask and function registers. -/
def State.writeBlk (s : State) (b : Blk) (o : Nat) (v : Word) : RegAct :=
  match b with
  | .sys => s.writeSys o v | .bea => s.writeBea o v | .cnd => s.writeCnd o v | .ary => s.writeAry o v
  | .crw => s.writeCrw o v | .tmv => s.writeTmv o v | .tir => s.writeTir o v | .mdv => s.writeMdv o v
  | .lnk => s.writeLnk o v | .fol => s.writeFol o v | .twn => s.writeTwn o v | .tim => s.writeTim o v
  | .pwr => s.writePwr o v | .sec => s.writeSec o v | .atn => s.writeAtn o v | .rst => s.writeRst o v
  | .bst => s.writeBst o v | .mgt => s.writeMgt o v
  | .siz | .fmt | .vec | .bnk | .upd => s.ignored

/-- The causes of a block as a mask. -/
def causeBits (b : Blk) : Word := BitVec.ofNat 64 (2 ^ causeWidth b - 1)

/-- BLOCK_FN as written (R49): level O for EPOCH. Whether the units can apply it is drawn (log entry 23). -/
def State.writeFnReg (s : State) (f : FnBlock) (v : Word) : RegAct :=
  if fld v 16 16 = (s.fn.get f).epoch then (1, s.writeFn f v false)
  else (2, s.drawn.writeFn f v (!Config.unitsApply s.fresh))

/-- A write of the register at an offset: the privilege that it needs and the state after it. Where there is no register
it has no effect (R6). -/
def State.writeReg (s : State) (off : BitVec 24) (v : Word) : RegAct :=
  let o := fldN off 0 16
  match blkAt (fldN off 16 8) with
  | none => s.ignored
  | some b =>
    if causeWidth b ≠ 0 ∧ o = causeOff b then (1, s.putCause b (s.causeOf b &&& ~~~ v))
    else if causeWidth b ≠ 0 ∧ o = maskOff b then (1, s.putMask b (v &&& causeBits b))
    else match fnOf b with
      | some f => if o = 0x0F8 then s.writeFnReg f v else s.writeBlk b o v
      | none => s.writeBlk b o v

end Sys2Proof.Machine
end

