-- ==== Sys2Proof/Machine/HostMem.lean ====
section
/-! DEFINITION. The host's memory requests MRD and MWR (R367, R368): which bytes an address names, when a request is
answered BUSY, ADDR or REFUSED, and its transactions in T3. -/

namespace Sys2Proof.Machine

/-! ## The bytes of a request (R187, R298) -/

/-- Where the page of an address lies: its P-address, if the map in force translates it, or, for a P-address, if it is a
place of T0, T1 or T2 or lies in T3. -/
def State.hostPlace (s : State) (pspace : Bool) (a : Nat) : Option Nat :=
  if pspace then (if isT3 a || (s.tierOf (a / 0x10000)).isSome then some a else none) else s.paddr a

/-- The P-addresses of a request; a request touches at most two pages. -/
def State.hostRun (s : State) (pspace : Bool) (a n : Nat) : Option (List Nat) :=
  let k := a / 0x10000
  let ps := [s.hostPlace pspace (0x10000 * k), s.hostPlace pspace (0x10000 * (k + 1))]
  (List.range n).mapM (fun i => (ps.getD ((a + i) / 0x10000 - k) none).map (· + (a + i) % 0x10000))

/-- A byte lies in a closed aperture, or, for a write, in a read-only one (R300). -/
def State.closedAt (s : State) (write : Bool) (p : Nat) : Bool :=
  isT3 p && (!s.apOpen ((p - t3Base) / apSize) || (write && !s.apWritable p))

/-- A self-test isolates the memory at an address (R396). -/
def State.testedAt (s : State) (p : Nat) : Bool :=
  s.bst.busy && (match fldN s.bst.ctrl 8 4 with
    | 2 => decide (t1Base ≤ p) && decide (p < t1End)
    | 3 => isT2 p && (p - t2Base) / devSize == fldN s.bst.ctrl 0 5
    | _ => false)

/-- A host access to the canonical addresses `ps` touches its pages, by U-address or by P-address (R192). -/
def State.hostTouch (s : State) (pspace : Bool) (a n : Nat) (ps : List Nat) : State :=
  if pspace then s.touchPlaces ps else s.touchRun a n

/-- A host access meets a page in move (R188). -/
def State.hostMeetsMove (s : State) (pspace : Bool) (a n : Nat) (ps : List Nat) : Bool :=
  if pspace then s.placeMoves ps else s.meetsMove a n

/-! ## What a write may not touch -/

/-- The first byte of a write that lies in an image page of an admitted or held cast, by its U-address (R189). -/
def State.imageHit (s : State) (ps : List Nat) : Option Nat :=
  (ps.find? (fun p => isT2 p && s.readOnlyPage (restripe p / 0x10000))).map restripe

/-- The U-page is the first page of a buffer of some slot. -/
def State.firstPage (s : State) (k : Nat) : Bool :=
  s.tir.slots.any (fun t => t.page false == k || t.page true == k)

/-- A page carries a buffer on: mapped, of account INP, and no buffer's first page (R202). -/
def State.carriesBuffer (s : State) (k : Nat) : Bool :=
  let e := s.mapEntry k
  eValid e && eAcct e == 10 && !s.firstPage k

/-- The buffer that begins at U-page `f` covers U-page `k` (R202). -/
def State.bufferCovers (s : State) (f k : Nat) : Bool :=
  decide (f ≤ k) && (List.range (k - f)).all (fun i => s.carriesBuffer (f + 1 + i))

/-- The U-page belongs to a buffer in use (R205). -/
def State.inputBusy (s : State) (k : Nat) : Bool :=
  s.tir.slots.any (fun t => t.valid && s.bufferCovers (t.page t.inUse) k)

/-- The U-pages that a request writes to. -/
def State.writtenPages (s : State) (pspace : Bool) (a n : Nat) (ps : List Nat) : List Nat :=
  if pspace then ps.flatMap s.upagesAt
  else if a / 0x10000 = (a + n - 1) / 0x10000 then [a / 0x10000] else [a / 0x10000, (a + n - 1) / 0x10000]

/-! ## Transactions -/

/-- Start the transactions of a host access, over the 64-byte lines that it touches (R302); its answer is awaited. The
number of the first transaction is that of the access. -/
def State.startAccess (s : State) (write : Bool) (op : BitVec 8) (addr : Word) (ps : List Nat) : State :=
  let id := s.lnk.nextId
  (t3Runs (ps.filter isT3)).foldl (fun s r =>
    let a := r.1 / 64 * 64
    s.startTrans write a ((r.1 + r.2 + 63) / 64 * 64 - a) (.host op addr id ps)) (s.pushAnswer (some (.access id)) [])

/-! ## The requests -/

/-- The length of a request: 8 to 448 bytes, a multiple of 8, at a multiple of 8 (R367). -/
def requestOk (addr : Word) (n : Nat) : Bool :=
  addr.toNat % 8 == 0 && n % 8 == 0 && decide (8 ≤ n) && decide (n ≤ 448)

/-- The request waits: it needs T2 and MDV_FN is not in RUN (R230), a program runs on a bank that it needs (R223), or a
page of it is in move (R188). -/
def State.memWaits (s : State) (c : ServiceClass) (pspace : Bool) (addr : Word) (n : Nat) : Bool :=
  match (s.hostRun pspace addr.toNat n).bind (fun ps => ps.mapM s.canon) with
  | some ps => (!s.running .mdv && ps.any isT2) || s.bankBusy c ps || s.hostMeetsMove pspace addr.toNat n ps
  | none => false

/-- The lines of T3 that a write of the host touches only in part and that have not been read for it (log entry 120). -/
def State.hostLines (s : State) (pspace : Bool) (addr : Word) (n : Nat) : List Nat :=
  match (s.hostRun pspace addr.toNat n).bind (fun ps => ps.mapM s.canon) with
  | some ps => s.missing hostKey (partLines (ps.filter (fun p => !s.dropsWrite p)))
  | none => []

/-- The privilege of a memory request: OPERATOR by P-address. -/
def memNeed (pspace : Bool) : Nat := if pspace then 2 else 1

/-- A memory request of a session. One that waits is not served yet: the request arrives when it is (log entry 54). -/
def memReq (op : Nat) (c : ServiceClass) (pspace : Bool) (addr : Word) (n : Nat) (act : State → State) (s : State) : Out :=
  let live := (s.port 7).isUp && s.sec.session.isSome && requestOk addr n && s.allowed (memNeed pspace) && s.sys.ps != 2
  if live && s.memWaits c pspace addr n then .next s
  else if live && c == .hostWrite && !(s.hostLines pspace addr n).isEmpty then
    .next (s.fetch hostKey (s.hostLines pspace addr n))
  else sessionReq op (memNeed pspace) addr (requestOk addr n) (fun s => if s.sys.ps = 2 then s.status op 7 addr else act s) s

/-- Serve a read. -/
def State.hostMrd (s : State) (pspace : Bool) (addr : Word) (n : Nat) : State :=
  let zeros := List.replicate n (0 : Byte)
  match s.hostRun pspace addr.toNat n with
  | none => (s.raise .tmv 2).respond 3 4 addr [] zeros
  | some l =>
    if l.any (s.closedAt false) then (s.raise .lnk 8).respond 3 4 addr [] zeros
    else
      let ps := l.filterMap s.canon
      if ps.any s.testedAt then s.respond 3 7 addr [] []
      else
        let t := (s.noteMem .host (if pspace then none else some addr.toNat) ps).hostTouch pspace addr.toNat n ps
        if ps.any isT3 then t.startAccess false 3 addr ps
        else (t.hostErrMet ps).respond 3 (s.hostStatus ps) addr [] (ps.map s.readByte)

/-- A line that a write must read first has been refused by its target. -/
def State.hostRefused (s : State) (ps : List Nat) : Bool :=
  s.refusedTo hostKey (partLines (ps.filter (fun p => !s.dropsWrite p)))

/-- The merge reads of a host write fail: they are recorded, and the write is not made (R214, R368). -/
def State.mergeFails (s : State) (u : Option Nat) (ps : List Nat) : State := (s.mergeCols ps).foldl (State.mergeCol .host u) s

/-- The bytes of a write that are stored: not those that go through a twin aperture under ALONE (R337). -/
def State.keptBytes (s : State) (l : List (Nat × Byte)) : List (Nat × Byte) := l.filter (fun q => !s.dropsWrite q.1)

/-- Store the bytes of a host write at their P-addresses and answer it, at once or with its transactions. -/
def State.hostStore (s : State) (pspace : Bool) (addr : Word) (l : List (Nat × Byte)) : State :=
  let k := (s.keptBytes l).filterMap (fun q => (s.canon q.1).map (fun c => (c, q.2)))
  let ps := k.map (·.1)
  let s := if k.length = l.length then s else { s with twn := { s.twn with refused := addHi s.twn.refused 1 } }
  let t := ((s.storeBytes .host (if pspace then none else some addr.toNat) k).hostTouch pspace addr.toNat l.length ps).forget
    hostKey
  if ps.any isT3 then t.startAccess true 4 addr ps else t.status 4 0 addr

/-- Serve a write. It is refused whole in an image page, an in-use input buffer or a working window (R189, R205,
R225). -/
def State.hostMwr (s : State) (pspace : Bool) (addr : Word) (data : List Byte) : State :=
  let n := data.length
  match s.hostRun pspace addr.toNat n with
  | none => (s.raise .tmv 2).status 4 4 addr
  | some l =>
    if l.any (fun p => s.closedAt true p && !s.dropsWrite p) || s.hostRefused (l.filterMap s.canon) then
      ((s.raise .lnk 8).forget hostKey).status 4 4 addr
    else
      let ps := l.filterMap s.canon
      if ps.any s.testedAt then s.status 4 7 addr
      else match s.imageHit ps with
        | some u => (s.refuseImage 0 0 0x3FF u).status 4 2 addr
        | none =>
          if (s.writtenPages pspace addr.toNat n ps).any s.inputBusy then (s.raise .tir 1).status 4 2 addr
          else match s.windowHit ps with
            | some p => (s.refuseWindow 4 p).status 4 2 addr
            | none =>
              if s.storeBlocked ps then
                (s.mergeFails (if pspace then none else some addr.toNat) ps).status 4 3 addr
              else s.hostStore pspace addr (l.zip data)

/-- MRD (R367, R368). -/
def execMrd (pspace : Bool) (addr : Word) (len : BitVec 16) (s : State) : Out :=
  memReq 3 .hostRead pspace addr len.toNat (fun s => s.hostMrd pspace addr len.toNat) s

/-- MWR (R367, R368). -/
def execMwr (pspace : Bool) (addr : Word) (data : List Byte) (s : State) : Out :=
  memReq 4 .hostWrite pspace addr data.length (fun s => s.hostMwr pspace addr data) s

end Sys2Proof.Machine
end

