-- ==== Sys2Proof/Machine/Host.lean ====
section
/-! DEFINITION. The control space as the host and SMBus reach it (R367, R369, R402): CRD and CWR, and the commands that
name one register, each a read or a write of that register. -/

namespace Sys2Proof.Machine

/-! ## Reads and writes on P7 -/

/-- The registers that only OPERATOR may read: SEC_SLOT0 to SEC_SLOT15 (R369). -/
def readNeed (off : BitVec 24) : Nat := if 0x120100 ≤ off.toNat ∧ off.toNat < 0x120180 then 2 else 1

/-- CRD of a register: its value, zero in a block that PS2 has gated, and what a read changes (R8, R389). -/
def hostRead (off : BitVec 24) (s : State) : Out :=
  let addr := off.setWidth 64
  sessionReq 0x01 (readNeed off) addr (off.toNat % 8 == 0) (fun s =>
    if s.gated off then s.respond 1 0 addr [] (leBytes 8 0)
    else (s.respond 1 0 addr [] (leBytes 8 (s.readReg off).toNat)).afterRead off) s

/-- The privilege that a write needs; a gated block ignores the write (R389). -/
def State.writeNeed (s : State) (off : BitVec 24) (v : Word) : Nat := if s.gated off then 1 else (s.writeReg off v).1

/-- CWR of a register with its effect as given: answered OK, then done (R367, R369). -/
def hostWriteWith (off : BitVec 24) (v : Word) (act : State → State) (s : State) : Out :=
  let addr := off.setWidth 64
  sessionReq 0x02 (s.writeNeed off v) addr (off.toNat % 8 == 0) (fun s =>
    let t := s.status 2 0 addr
    if s.gated off then t else (act t).settleAttn) s

/-- CWR of a register. -/
def hostWrite (off : BitVec 24) (v : Word) (s : State) : Out := hostWriteWith off v (fun s => (s.writeReg off v).2) s

/-- CRD (R367). -/
def execCrd (offset : BitVec 24) (s : State) : Out := hostRead offset s

/-- CWR (R367, R369). -/
def execCwr (offset : BitVec 24) (v : Word) (s : State) : Out := hostWrite offset v s

/-- REGISTER_WRITE (R7). -/
def execRegisterWrite (offset : BitVec 24) (v : Word) (s : State) : Out := hostWrite offset v s

/-- The register is a cause register, or RST_REVERTED, which is W1C too. -/
def isW1c (off : BitVec 24) : Bool :=
  off == 0x140008 || (match blkAt (fldN off 16 8) with
    | some b => causeWidth b != 0 && fldN off 0 16 == causeOff b
    | none => false)

/-- CAUSE_W1C_WRITE (R8, R10). -/
def execCauseW1cWrite (offset : BitVec 24) (v : Word) (s : State) : Out :=
  if isW1c offset then hostWrite offset v s else .next s

/-- The RC registers (R8). -/
def rcRegs : List Nat :=
  [0x020038, 0x030048, 0x030050, 0x040018, 0x040020, 0x040028, 0x050020, 0x060008, 0x070008, 0x070010, 0x070028,
   0x080028, 0x080030, 0x080038, 0x0A0018, 0x0A0020, 0x0A0028, 0x0B0010, 0x0B0018, 0x0B0020, 0x0C0000, 0x0C0008,
   0x0C0010, 0x0C0018, 0x0D0028, 0x0D0030, 0x0E0008, 0x0E0010, 0x0E0018, 0x0E0020, 0x0F0028, 0x0F0030, 0x0F0060,
   0x0F0068, 0x110058, 0x110078, 0x120030, 0x130018]
  ++ (List.range 8).map (fun p => 0x0D0140 + 8 * p) ++ (List.range 7).map (fun r => 0x110108 + 16 * r)

/-- RC_REGISTER_READ (R8). -/
def execRcRegisterRead (offset : BitVec 24) (s : State) : Out :=
  if rcRegs.contains offset.toNat then hostRead offset s else .next s

/-! ## BEA, CND and the function registers -/

/-- BEA_LOAD_WRITE (R30). -/
def execBeaLoadWrite (v : Word) (s : State) : Out := hostWrite 0x020018 v s
/-- BEA_ALARM_WRITE (R31). -/
def execBeaAlarmWrite (v : Word) (s : State) : Out := hostWrite 0x020028 v s
/-- CND_CAST_BASE_WRITE (R81). -/
def execCndCastBaseWrite (v : Word) (s : State) : Out := hostWrite 0x030000 v s
/-- CND_RUN_WRITE (R39). -/
def execCndRunWrite (v : Word) (s : State) : Out := hostWrite 0x030008 v s
/-- CND_QUENCH (R79). -/
def execCndQuench (s : State) : Out := hostWrite 0x030078 1 s

/-- The offset of BLOCK_FN. -/
def fnOff (b : FnBlock) : BitVec 24 := BitVec.ofNat 24 (0x10000 * (fnBlk b).idx.val + 0x0F8)

/-- A value for BLOCK_FN with the present EPOCH, which writes no epoch (R50). -/
def State.fnValue (s : State) (b : FnBlock) (bits : Word) : Word := putAt 16 16 (s.fn.get b).epoch.toNat ||| bits

/-- FN_EPOCH_WRITE (R50, R51): `unitFails` says that a unit cannot apply the next epoch. -/
def execFnEpochWrite (blk : FnBlock) (epoch : BitVec 16) (unitFails : Bool) (s : State) : Out :=
  hostWriteWith (fnOff blk) (putAt 16 16 epoch.toNat) (fun s => s.writeEpoch blk epoch unitFails) s

/-- FN_GO (R51). -/
def execFnGo (blk : FnBlock) (s : State) : Out := hostWrite (fnOff blk) (s.fnValue blk 8) s
/-- FN_STOP (R51). -/
def execFnStop (blk : FnBlock) (s : State) : Out := hostWrite (fnOff blk) (s.fnValue blk 4) s
/-- CND_FN_STOP (R78). -/
def execCndFnStop (s : State) : Out := hostWrite 0x0300F8 (s.fnValue .cnd 4) s
/-- CND_FN_GO (R78). -/
def execCndFnGo (s : State) : Out := hostWrite 0x0300F8 (s.fnValue .cnd 8) s

/-! ## ARY, CRW, TMV, MDV -/

/-- ARY_CFG_WRITE (R108). -/
def execAryCfgWrite (v : Word) (s : State) : Out := hostWrite 0x040000 v s
/-- CRW_SEL_WRITE (R109). -/
def execCrwSelWrite (v : Word) (s : State) : Out := hostWrite 0x050000 v s
/-- CRW_DATA_READ (R109). -/
def execCrwDataRead (s : State) : Out := hostRead 0x050010 s
/-- CRW_DATA_WRITE (R109). -/
def execCrwDataWrite (v : Word) (s : State) : Out := hostWrite 0x050010 v s
/-- TMV_CFG_WRITE (R206). -/
def execTmvCfgWrite (v : Word) (s : State) : Out := hostWrite 0x080000 v s
/-- TMV_CTRL_RELEASE (R200). -/
def execTmvCtrlRelease (s : State) : Out := hostWrite 0x080010 1 s
/-- MDV_CFG_WRITE (R230). -/
def execMdvCfgWrite (v : Word) (s : State) : Out := hostWrite 0x0A0000 v s
/-- MDV_CTRL_RETRAIN (R210, R230): `trained` says which devices train. -/
def execMdvCtrlRetrain (trained : BitVec 24) (s : State) : Out :=
  hostWriteWith 0x0A0010 1 (fun s => if s.stopped .mdv then s.trainDevices trained else s) s
/-- MDV_REPAIR_GO (R229). -/
def execMdvRepairGo (v : Word) (s : State) : Out := hostWrite 0x0A0068 (v ||| putBit 63 true) s
/-- MDV_FN_STOP (R230). -/
def execMdvFnStop (s : State) : Out := hostWrite 0x0A00F8 (s.fnValue .mdv 4) s

/-! ## LNK, FOL, TWN, TIM -/

/-- LNK_CTRL_TAKE (R291). -/
def execLnkCtrlTake (s : State) : Out := hostWrite 0x0D0010 0x10000 s
/-- LNK_CTRL_GIVE (R291). -/
def execLnkCtrlGive (s : State) : Out := hostWrite 0x0D0010 0x20000 s
/-- LNK_CTRL_RETRAIN (R291). -/
def execLnkCtrlRetrain (ports : BitVec 8) (s : State) : Out := hostWrite 0x0D0010 (ports.setWidth 64) s

/-- The registers of LNK that are epoch-bound (R306). -/
def lnkConfig (off : BitVec 24) : Bool :=
  let o := fldN off 0 16
  fldN off 16 8 == 13 && (o == 0x000 || o == 0x008 || (slotAt o 0x200 4).isSome || (slotAt o 0x300 8).isSome
    || (slotAt o 0x1000 512).isSome)

/-- LNK_CONFIG_WRITE (R306). -/
def execLnkConfigWrite (offset : BitVec 24) (v : Word) (s : State) : Out :=
  if lnkConfig offset then hostWrite offset v s else .next s
/-- LNK_AP_WRITE (R299). -/
def execLnkApWrite (aperture : BitVec 8) (v : Word) (s : State) : Out :=
  hostWrite (BitVec.ofNat 24 (0x0D0800 + 8 * aperture.toNat)) v s

/-- The group registers (R328). -/
def folConfig (off : BitVec 24) : Bool := fldN off 16 8 == 14 && (slotAt (fldN off 0 16) 0x1000 256).isSome

/-- FOL_GROUP_WRITE (R328). -/
def execFolGroupWrite (offset : BitVec 24) (v : Word) (s : State) : Out :=
  if folConfig offset then hostWrite offset v s else .next s
/-- TWN_CTRL_SOLDER (R329). -/
def execTwnCtrlSolder (s : State) : Out := hostWrite 0x0F0010 (putBit 63 true) s
/-- TWN_CTRL_UNSOLDER (R330). -/
def execTwnCtrlUnsolder (s : State) : Out := hostWrite 0x0F0010 (putBit 62 true) s
/-- TWN_CTRL_RESUME (R338). -/
def execTwnCtrlResume (decision : BitVec 32) (s : State) : Out :=
  hostWrite 0x0F0010 (putBit 61 true ||| decision.setWidth 64) s
/-- TWN_CFG_WRITE (R346). -/
def execTwnCfgWrite (v : Word) (s : State) : Out := hostWrite 0x0F0008 v s
/-- TWN_RDCTL_GO (R346). -/
def execTwnRdctlGo (v : Word) (s : State) : Out := hostWrite 0x0F0070 (v ||| putBit 63 true) s
/-- TIM_CTRL_CLEAR (R347). -/
def execTimCtrlClear (s : State) : Out := hostWrite 0x100008 1 s

/-! ## PWR, SEC, ATN -/

/-- PWR_FREQ_WRITE (R361). -/
def execPwrFreqWrite (v : Word) (s : State) : Out := hostWrite 0x110010 v s
/-- PWR_CTRL_ANNEAL (R362). -/
def execPwrCtrlAnneal (s : State) : Out := hostWrite 0x110018 1 s
/-- PWR_CTRL_CLRACC (R363). -/
def execPwrCtrlClracc (s : State) : Out := hostWrite 0x110018 2 s

/-- The registers of PWR that are epoch-bound (R365). -/
def pwrConfig (off : BitVec 24) : Bool :=
  let o := fldN off 0 16
  fldN off 16 8 == 17 && (o == 0x040 || o == 0x048 || o == 0x050 || (slotAt o 0x080 8).isSome)

/-- PWR_CONFIG_WRITE (R365). -/
def execPwrConfigWrite (offset : BitVec 24) (v : Word) (s : State) : Out :=
  if pwrConfig offset then hostWrite offset v s else .next s
/-- SEC_CTRL_CLOSE (R372). -/
def execSecCtrlClose (s : State) : Out := hostWrite 0x120010 1 s
/-- SEC_CTRL_COMMIT_SVN (R378). -/
def execSecCtrlCommitSvn (s : State) : Out := hostWrite 0x120010 2 s
/-- SEC_CTRL_RELEASE (R370). -/
def execSecCtrlRelease (s : State) : Out := hostWrite 0x120010 4 s
/-- ATN_CTRL_RESEND (R381). -/
def execAtnCtrlResend (s : State) : Out := hostWrite 0x130010 (putBit 0 s.atn.frame ||| 2) s

/-! ## SYS, RST, BST -/

/-- SYS_RESET_WARM (R384): `pu` is what the warm sequence meets. -/
def execSysResetWarm (pu : PowerUp) (s : State) : Out := hostWriteWith 0x000020 1 (fun s => s.putSysReset 1 pu) s
/-- SYS_PSTATE_WRITE (R388). -/
def execSysPstateWrite (v : Word) (s : State) : Out := hostWrite 0x000018 v s
/-- RST_CTRL_ARRAY (R386). -/
def execRstCtrlArray (s : State) : Out := hostWrite 0x140010 1 s
/-- RST_CTRL_PORT (R387). -/
def execRstCtrlPort (ports : BitVec 8) (s : State) : Out := hostWrite 0x140010 (putAt 8 8 ports.toNat) s
/-- RST_FENCE_SET (R399). -/
def execRstFenceSet (quarter : BitVec 2) (s : State) : Out := hostWrite 0x140018 (0x400 ||| putAt 8 2 quarter.toNat) s
/-- RST_FENCE_CLEAR (R399). -/
def execRstFenceClear (s : State) : Out := hostWrite 0x140018 (0x800 ||| putAt 8 2 s.rst.quarter.toNat) s
/-- BST_CTRL_GO (R396). -/
def execBstCtrlGo (v : Word) (s : State) : Out := hostWrite 0x150008 (v ||| putBit 63 true) s

/-! ## SMBus (R402) -/

/-- A register that SMBus reads: the MGT block, SYS_SERIAL0, SYS_SERIAL1, SYS_STATUS, RST_STATUS. -/
def smbusReads (off : BitVec 24) : Bool :=
  fldN off 16 8 == 22 || off == 0x000000 || off == 0x000008 || off == 0x000010 || off == 0x140000

/-- A register that SMBus writes: the MGT block, SEC_CLAIM0 to SEC_CLAIM3, SEC_CLAIM_GO. -/
def smbusWrites (off : BitVec 24) : Bool :=
  fldN off 16 8 == 22 || (decide (0x120038 ≤ off.toNat) && decide (off.toNat ≤ 0x120058))

/-- SMBUS_READ (R402): 8 bytes of a register that it reaches, or zero. -/
def execSmbusRead (offset : BitVec 24) (s : State) : Out :=
  let a := if smbusReads offset then (s.emit (.smbus (s.readReg offset))).afterRead offset else s.emit (.smbus 0)
  whenB s.sys.standby s a

/-- SMBUS_WRITE (R402): any other offset ignores the write. -/
def execSmbusWrite (offset : BitVec 24) (v : Word) (s : State) : Out :=
  whenB (s.sys.standby && smbusWrites offset) s ((s.writeReg offset v).2).settleAttn

/-- A register of MGT is written on P7 where a session is open, and over SMBus otherwise (R406, log entry 55). -/
def mgtWrite (off : BitVec 24) (v : Word) (s : State) : Out :=
  if s.sec.session.isSome && (s.port 7).isUp then hostWrite off v s else execSmbusWrite off v s

/-- MGT_CTRL_P7RST (R387). -/
def execMgtCtrlP7rst (s : State) : Out := mgtWrite 0x160010 2 s
/-- MGT_CTRL_WAKE (R388). -/
def execMgtCtrlWake (s : State) : Out := mgtWrite 0x160010 1 s
/-- MGT_FLASHDATA_READ (R406). -/
def execMgtFlashdataRead (s : State) : Out :=
  if s.sec.session.isSome && (s.port 7).isUp then hostRead 0x160020 s else execSmbusRead 0x160020 s
/-- SEC_CLAIM_WRITE (R370). -/
def execSecClaimWrite (n : BitVec 2) (v : Word) (s : State) : Out :=
  execSmbusWrite (BitVec.ofNat 24 (0x120038 + 8 * n.toNat)) v s
/-- SEC_CLAIM_GO (R370). -/
def execSecClaimGo (s : State) : Out := execSmbusWrite 0x120058 1 s

end Sys2Proof.Machine
end

