-- ==== Sys2Proof/Machine/Dispatch.lean ====
section
/-! DEFINITION. The dispatch: one arm per command, each a direct call of its meaning. -/

namespace Sys2Proof.Machine

def exec (i : Instr) (s : State) : Host.Outcome State Fault Refusal :=
  match i with
  | .beatEdge edge corrected => Sys2Proof.Machine.execBeatEdge edge corrected s
  | .beatLoss => Sys2Proof.Machine.execBeatLoss s
  | .holdoverExpiry => Sys2Proof.Machine.execHoldoverExpiry s
  | .sourceRecovery fallback phase => Sys2Proof.Machine.execSourceRecovery fallback phase s
  | .beaLoadWrite v => Sys2Proof.Machine.execBeaLoadWrite v s
  | .beaAlarmWrite v => Sys2Proof.Machine.execBeaAlarmWrite v s
  | .cndCastBaseWrite v => Sys2Proof.Machine.execCndCastBaseWrite v s
  | .cndRunWrite v => Sys2Proof.Machine.execCndRunWrite v s
  | .castAdmission => Sys2Proof.Machine.execCastAdmission s
  | .castStart => Sys2Proof.Machine.execCastStart s
  | .fnEpochWrite blk epoch unitFails => Sys2Proof.Machine.execFnEpochWrite blk epoch unitFails s
  | .fnGo blk => Sys2Proof.Machine.execFnGo blk s
  | .fnStop blk => Sys2Proof.Machine.execFnStop blk s
  | .cndFnStop => Sys2Proof.Machine.execCndFnStop s
  | .cndFnGo => Sys2Proof.Machine.execCndFnGo s
  | .cndQuench => Sys2Proof.Machine.execCndQuench s
  | .conductorStopped => Sys2Proof.Machine.execConductorStopped s
  | .alu body => Sys2Proof.Machine.execAlu body s
  | .addi body => Sys2Proof.Machine.execAddi body s
  | .andi body => Sys2Proof.Machine.execAndi body s
  | .ori body => Sys2Proof.Machine.execOri body s
  | .xori body => Sys2Proof.Machine.execXori body s
  | .shi body => Sys2Proof.Machine.execShi body s
  | .slti body => Sys2Proof.Machine.execSlti body s
  | .movz body => Sys2Proof.Machine.execMovz body s
  | .movk body => Sys2Proof.Machine.execMovk body s
  | .ld body => Sys2Proof.Machine.execLd body s
  | .ldDataReturn => Sys2Proof.Machine.execLdDataReturn s
  | .st body => Sys2Proof.Machine.execSt body s
  | .rdsm body => Sys2Proof.Machine.execRdsm body s
  | .rdsp body => Sys2Proof.Machine.execRdsp body s
  | .smw body => Sys2Proof.Machine.execSmw body s
  | .smclr body => Sys2Proof.Machine.execSmclr body s
  | .brf body => Sys2Proof.Machine.execBrf body s
  | .loop body => Sys2Proof.Machine.execLoop body s
  | .waitb body => Sys2Proof.Machine.execWaitb body s
  | .waitbExpire => Sys2Proof.Machine.execWaitbExpire s
  | .waita body => Sys2Proof.Machine.execWaita body s
  | .waitaExpire => Sys2Proof.Machine.execWaitaExpire s
  | .waitq body => Sys2Proof.Machine.execWaitq body s
  | .waitqMet => Sys2Proof.Machine.execWaitqMet s
  | .awi body => Sys2Proof.Machine.execAwi body s
  | .awip body => Sys2Proof.Machine.execAwip body s
  | .awn body => Sys2Proof.Machine.execAwn body s
  | .awr body => Sys2Proof.Machine.execAwr body s
  | .enqueueResume => Sys2Proof.Machine.execEnqueueResume s
  | .mjmp body => Sys2Proof.Machine.execMjmp body s
  | .mbr body => Sys2Proof.Machine.execMbr body s
  | .msel body => Sys2Proof.Machine.execMsel body s
  | .mend body => Sys2Proof.Machine.execMend body s
  | .halt body => Sys2Proof.Machine.execHalt body s
  | .summaryDelivery sm => Sys2Proof.Machine.execSummaryDelivery sm s
  | .wordComplete seq => Sys2Proof.Machine.execWordComplete seq s
  | .waitabs a => Sys2Proof.Machine.execWaitabs a s
  | .sbar a => Sys2Proof.Machine.execSbar a s
  | .sbarRelease seq => Sys2Proof.Machine.execSbarRelease seq s
  | .fbar a => Sys2Proof.Machine.execFbar a s
  | .fbarRelease seq => Sys2Proof.Machine.execFbarRelease seq s
  | .fbarHeldWarning seq => Sys2Proof.Machine.execFbarHeldWarning seq s
  | .part a => Sys2Proof.Machine.execPart a s
  | .partApplyCheck => Sys2Proof.Machine.execPartApplyCheck s
  | .nop a => Sys2Proof.Machine.execNop a s
  | .mmul a => Sys2Proof.Machine.execMmul a s
  | .mmulTx a => Sys2Proof.Machine.execMmulTx a s
  | .mmulTy a => Sys2Proof.Machine.execMmulTy a s
  | .mmulTxy a => Sys2Proof.Machine.execMmulTxy a s
  | .mmac a => Sys2Proof.Machine.execMmac a s
  | .mmacTx a => Sys2Proof.Machine.execMmacTx a s
  | .mmacTy a => Sys2Proof.Machine.execMmacTy a s
  | .mmacTxy a => Sys2Proof.Machine.execMmacTxy a s
  | .mtacc a => Sys2Proof.Machine.execMtacc a s
  | .mtaccTx a => Sys2Proof.Machine.execMtaccTx a s
  | .mtaccTy a => Sys2Proof.Machine.execMtaccTy a s
  | .mtaccTxy a => Sys2Proof.Machine.execMtaccTxy a s
  | .gload a => Sys2Proof.Machine.execGload a s
  | .gstore a => Sys2Proof.Machine.execGstore a s
  | .gclr a => Sys2Proof.Machine.execGclr a s
  | .ascore a => Sys2Proof.Machine.execAscore a s
  | .arows a => Sys2Proof.Machine.execArows a s
  | .agscale a => Sys2Proof.Machine.execAgscale a s
  | .aryCfgWrite v => Sys2Proof.Machine.execAryCfgWrite v s
  | .crwSelWrite v => Sys2Proof.Machine.execCrwSelWrite v s
  | .crwDataRead => Sys2Proof.Machine.execCrwDataRead s
  | .crwDataWrite v => Sys2Proof.Machine.execCrwDataWrite v s
  | .emap a => Sys2Proof.Machine.execEmap a s
  | .ered a => Sys2Proof.Machine.execEred a s
  | .vdw a => Sys2Proof.Machine.execVdw a s
  | .conv a => Sys2Proof.Machine.execConv a s
  | .conva a => Sys2Proof.Machine.execConva a s
  | .convwg a => Sys2Proof.Machine.execConvwg a s
  | .convwga a => Sys2Proof.Machine.execConvwga a s
  | .pool a => Sys2Proof.Machine.execPool a s
  | .resample a => Sys2Proof.Machine.execResample a s
  | .tcopy a => Sys2Proof.Machine.execTcopy a s
  | .migrate a => Sys2Proof.Machine.execMigrate a s
  | .pageMoveStart => Sys2Proof.Machine.execPageMoveStart s
  | .pageMoveComplete upage => Sys2Proof.Machine.execPageMoveComplete upage s
  | .stepadm a => Sys2Proof.Machine.execStepadm a s
  | .tmvCtrlRelease => Sys2Proof.Machine.execTmvCtrlRelease s
  | .releaseComplete => Sys2Proof.Machine.execReleaseComplete s
  | .tmvCfgWrite v => Sys2Proof.Machine.execTmvCfgWrite v s
  | .refresh bank postpone => Sys2Proof.Machine.execRefresh bank postpone s
  | .interfaceTracking dev channel => Sys2Proof.Machine.execInterfaceTracking dev channel s
  | .mdvCtrlRetrain trained => Sys2Proof.Machine.execMdvCtrlRetrain trained s
  | .scrubRead row => Sys2Proof.Machine.execScrubRead row s
  | .bankBoundaryService bank classes => Sys2Proof.Machine.execBankBoundaryService bank classes s
  | .uncorrectableError err => Sys2Proof.Machine.execUncorrectableError err s
  | .uncorrPhaseStop => Sys2Proof.Machine.execUncorrPhaseStop s
  | .mdvRepairGo v => Sys2Proof.Machine.execMdvRepairGo v s
  | .repairComplete => Sys2Proof.Machine.execRepairComplete s
  | .mdvFnStop => Sys2Proof.Machine.execMdvFnStop s
  | .mdvCfgWrite v => Sys2Proof.Machine.execMdvCfgWrite v s
  | .blaunch a => Sys2Proof.Machine.execBlaunch a s
  | .bwait a => Sys2Proof.Machine.execBwait a s
  | .bankProgramStart bank => Sys2Proof.Machine.execBankProgramStart bank s
  | .launchComplete tag => Sys2Proof.Machine.execLaunchComplete tag s
  | .bankAdd bank body => Sys2Proof.Machine.execBankAdd bank body s
  | .bankSub bank body => Sys2Proof.Machine.execBankSub bank body s
  | .bankAnd bank body => Sys2Proof.Machine.execBankAnd bank body s
  | .bankOr bank body => Sys2Proof.Machine.execBankOr bank body s
  | .bankXor bank body => Sys2Proof.Machine.execBankXor bank body s
  | .bankAddi bank body => Sys2Proof.Machine.execBankAddi bank body s
  | .bankShli bank body => Sys2Proof.Machine.execBankShli bank body s
  | .bankShri bank body => Sys2Proof.Machine.execBankShri bank body s
  | .bankBeq bank body => Sys2Proof.Machine.execBankBeq bank body s
  | .bankBne bank body => Sys2Proof.Machine.execBankBne bank body s
  | .bankBltu bank body => Sys2Proof.Machine.execBankBltu bank body s
  | .bankWbc bank body => Sys2Proof.Machine.execBankWbc bank body s
  | .bankWins bank body => Sys2Proof.Machine.execBankWins bank body s
  | .bankWext bank body => Sys2Proof.Machine.execBankWext bank body s
  | .bankWcrc bank body => Sys2Proof.Machine.execBankWcrc bank body s
  | .bankLdw bank body => Sys2Proof.Machine.execBankLdw bank body s
  | .bankStw bank body => Sys2Proof.Machine.execBankStw bank body s
  | .bankStc bank body => Sys2Proof.Machine.execBankStc bank body s
  | .bankRowop bank body => Sys2Proof.Machine.execBankRowop bank body s
  | .bankChput bank body => Sys2Proof.Machine.execBankChput bank body s
  | .bankChget bank body => Sys2Proof.Machine.execBankChget bank body s
  | .chainWordArrival bank => Sys2Proof.Machine.execChainWordArrival bank s
  | .bankFadd bank body => Sys2Proof.Machine.execBankFadd bank body s
  | .bankFsub bank body => Sys2Proof.Machine.execBankFsub bank body s
  | .bankFmul bank body => Sys2Proof.Machine.execBankFmul bank body s
  | .bankFfma bank body => Sys2Proof.Machine.execBankFfma bank body s
  | .bankFdiv bank body => Sys2Proof.Machine.execBankFdiv bank body s
  | .bankFsqrt bank body => Sys2Proof.Machine.execBankFsqrt bank body s
  | .bankFmin bank body => Sys2Proof.Machine.execBankFmin bank body s
  | .bankFmax bank body => Sys2Proof.Machine.execBankFmax bank body s
  | .bankIadd bank body => Sys2Proof.Machine.execBankIadd bank body s
  | .bankIsub bank body => Sys2Proof.Machine.execBankIsub bank body s
  | .bankWand bank body => Sys2Proof.Machine.execBankWand bank body s
  | .bankWor bank body => Sys2Proof.Machine.execBankWor bank body s
  | .bankWxor bank body => Sys2Proof.Machine.execBankWxor bank body s
  | .bankWmov bank body => Sys2Proof.Machine.execBankWmov bank body s
  | .bankWcat bank body => Sys2Proof.Machine.execBankWcat bank body s
  | .bankWhi bank body => Sys2Proof.Machine.execBankWhi bank body s
  | .bankWlo bank body => Sys2Proof.Machine.execBankWlo bank body s
  | .bankKadd bank body => Sys2Proof.Machine.execBankKadd bank body s
  | .bankEnd bank body => Sys2Proof.Machine.execBankEnd bank body s
  | .gflush a => Sys2Proof.Machine.execGflush a s
  | .gdeposit a => Sys2Proof.Machine.execGdeposit a s
  | .gharv a => Sys2Proof.Machine.execGharv a s
  | .stepabort a => Sys2Proof.Machine.execStepabort a s
  | .ctrlFrame port f => Sys2Proof.Machine.execCtrlFrame port f s
  | .frameCrcFail port why => Sys2Proof.Machine.execFrameCrcFail port why s
  | .portRetrainTimeout port => Sys2Proof.Machine.execPortRetrainTimeout port s
  | .rreq port h addr len => Sys2Proof.Machine.execRreq port h addr len s
  | .rdata port h payload => Sys2Proof.Machine.execRdata port h payload s
  | .wreq port h addr len => Sys2Proof.Machine.execWreq port h addr len s
  | .wdata port h payload => Sys2Proof.Machine.execWdata port h payload s
  | .wack port h => Sys2Proof.Machine.execWack port h s
  | .nack port h => Sys2Proof.Machine.execNack port h s
  | .redFrame port h payload => Sys2Proof.Machine.execRedFrame port h payload s
  | .gathFrame port h payload => Sys2Proof.Machine.execGathFrame port h payload s
  | .barFrame port h payload => Sys2Proof.Machine.execBarFrame port h payload s
  | .loopTrainingDone pair lanes => Sys2Proof.Machine.execLoopTrainingDone pair lanes s
  | .neighbourTrainingDone port lanes neigh spare r => Sys2Proof.Machine.execNeighbourTrainingDone port lanes neigh spare r s
  | .delayMeasured port delay => Sys2Proof.Machine.execDelayMeasured port delay s
  | .lnkCtrlTake => Sys2Proof.Machine.execLnkCtrlTake s
  | .lnkCtrlGive => Sys2Proof.Machine.execLnkCtrlGive s
  | .lnkCtrlRetrain ports => Sys2Proof.Machine.execLnkCtrlRetrain ports s
  | .linkAnneal port => Sys2Proof.Machine.execLinkAnneal port s
  | .linkAnnealEnd port delay => Sys2Proof.Machine.execLinkAnnealEnd port delay s
  | .transactionStall tag => Sys2Proof.Machine.execTransactionStall tag s
  | .lnkConfigWrite offset v => Sys2Proof.Machine.execLnkConfigWrite offset v s
  | .lnkApWrite aperture v => Sys2Proof.Machine.execLnkApWrite aperture v s
  | .cscal a => Sys2Proof.Machine.execCscal a s
  | .crsc a => Sys2Proof.Machine.execCrsc a s
  | .cagr a => Sys2Proof.Machine.execCagr a s
  | .car a => Sys2Proof.Machine.execCar a s
  | .cbcast a => Sys2Proof.Machine.execCbcast a s
  | .cwait a => Sys2Proof.Machine.execCwait a s
  | .collectiveStart seq => Sys2Proof.Machine.execCollectiveStart seq s
  | .collectiveComplete seq => Sys2Proof.Machine.execCollectiveComplete seq s
  | .collectiveStall seq => Sys2Proof.Machine.execCollectiveStall seq s
  | .folGroupWrite offset v => Sys2Proof.Machine.execFolGroupWrite offset v s
  | .twnCtrlSolder => Sys2Proof.Machine.execTwnCtrlSolder s
  | .twnCtrlUnsolder => Sys2Proof.Machine.execTwnCtrlUnsolder s
  | .twnCtrlResume decision => Sys2Proof.Machine.execTwnCtrlResume decision s
  | .solderTimeout => Sys2Proof.Machine.execSolderTimeout s
  | .solderTransfer => Sys2Proof.Machine.execSolderTransfer s
  | .unsolderTransfer => Sys2Proof.Machine.execUnsolderTransfer s
  | .mirrorImage tag image => Sys2Proof.Machine.execMirrorImage tag image s
  | .mirrorAck tag status => Sys2Proof.Machine.execMirrorAck tag status s
  | .digestTransfer own mirror => Sys2Proof.Machine.execDigestTransfer own mirror s
  | .verifyTransfer pairs => Sys2Proof.Machine.execVerifyTransfer pairs s
  | .tmirror a => Sys2Proof.Machine.execTmirror a s
  | .tpull a => Sys2Proof.Machine.execTpull a s
  | .tdigest a => Sys2Proof.Machine.execTdigest a s
  | .tdcmp a => Sys2Proof.Machine.execTdcmp a s
  | .tverify a => Sys2Proof.Machine.execTverify a s
  | .trdig a => Sys2Proof.Machine.execTrdig a s
  | .thold a => Sys2Proof.Machine.execThold a s
  | .tsnap a => Sys2Proof.Machine.execTsnap a s
  | .tmark a => Sys2Proof.Machine.execTmark a s
  | .trecov a => Sys2Proof.Machine.execTrecov a s
  | .twnCfgWrite v => Sys2Proof.Machine.execTwnCfgWrite v s
  | .twnRdctlGo v => Sys2Proof.Machine.execTwnRdctlGo v s
  | .rangeDigestComplete => Sys2Proof.Machine.execRangeDigestComplete s
  | .timCtrlClear => Sys2Proof.Machine.execTimCtrlClear s
  | .temperSample t => Sys2Proof.Machine.execTemperSample t s
  | .thermalShutdown sensor => Sys2Proof.Machine.execThermalShutdown sensor s
  | .droopDetect quarter => Sys2Proof.Machine.execDroopDetect quarter s
  | .droopHoldExpire quarter => Sys2Proof.Machine.execDroopHoldExpire quarter s
  | .droopRateStep quarter => Sys2Proof.Machine.execDroopRateStep quarter s
  | .swarfHoldExpire sec => Sys2Proof.Machine.execSwarfHoldExpire sec s
  | .swarfDecayStep sec => Sys2Proof.Machine.execSwarfDecayStep sec s
  | .rampStep sec => Sys2Proof.Machine.execRampStep sec s
  | .pwrFreqWrite v => Sys2Proof.Machine.execPwrFreqWrite v s
  | .freqChange => Sys2Proof.Machine.execFreqChange s
  | .pwrCtrlAnneal => Sys2Proof.Machine.execPwrCtrlAnneal s
  | .clockAnnealComplete results => Sys2Proof.Machine.execClockAnnealComplete results s
  | .pwrCtrlClracc => Sys2Proof.Machine.execPwrCtrlClracc s
  | .pwrConfigWrite offset v => Sys2Proof.Machine.execPwrConfigWrite offset v s
  | .crd offset => Sys2Proof.Machine.execCrd offset s
  | .cwr offset v => Sys2Proof.Machine.execCwr offset v s
  | .mrd pspace addr len => Sys2Proof.Machine.execMrd pspace addr len s
  | .mwr pspace addr data => Sys2Proof.Machine.execMwr pspace addr data s
  | .sopen slot nonce => Sys2Proof.Machine.execSopen slot nonce s
  | .sproof slot proof => Sys2Proof.Machine.execSproof slot proof s
  | .sclose => Sys2Proof.Machine.execSclose s
  | .sessionLockoutExpire => Sys2Proof.Machine.execSessionLockoutExpire s
  | .skey slot priv key => Sys2Proof.Machine.execSkey slot priv key s
  | .fkey key => Sys2Proof.Machine.execFkey key s
  | .fww offset data => Sys2Proof.Machine.execFww offset data s
  | .fwend len => Sys2Proof.Machine.execFwend len s
  | .firmwareVerifyComplete => Sys2Proof.Machine.execFirmwareVerifyComplete s
  | .attest nonce => Sys2Proof.Machine.execAttest nonce s
  | .attestComplete => Sys2Proof.Machine.execAttestComplete s
  | .secCtrlClose => Sys2Proof.Machine.execSecCtrlClose s
  | .secCtrlCommitSvn => Sys2Proof.Machine.execSecCtrlCommitSvn s
  | .secCtrlRelease => Sys2Proof.Machine.execSecCtrlRelease s
  | .secClaimWrite n v => Sys2Proof.Machine.execSecClaimWrite n v s
  | .secClaimGo => Sys2Proof.Machine.execSecClaimGo s
  | .attnFrameSend => Sys2Proof.Machine.execAttnFrameSend s
  | .atnCtrlResend => Sys2Proof.Machine.execAtnCtrlResend s
  | .coldReset pu => Sys2Proof.Machine.execColdReset pu s
  | .powerUpPhaseTimeout => Sys2Proof.Machine.execPowerUpPhaseTimeout s
  | .rstInN pu => Sys2Proof.Machine.execRstInN pu s
  | .sysResetWarm pu => Sys2Proof.Machine.execSysResetWarm pu s
  | .rstCtrlArray => Sys2Proof.Machine.execRstCtrlArray s
  | .arrayResetComplete => Sys2Proof.Machine.execArrayResetComplete s
  | .rstCtrlPort ports => Sys2Proof.Machine.execRstCtrlPort ports s
  | .mgtCtrlP7rst => Sys2Proof.Machine.execMgtCtrlP7rst s
  | .sysPstateWrite v => Sys2Proof.Machine.execSysPstateWrite v s
  | .pstateEntryComplete => Sys2Proof.Machine.execPstateEntryComplete s
  | .pstateExitComplete trained => Sys2Proof.Machine.execPstateExitComplete trained s
  | .mgtCtrlWake => Sys2Proof.Machine.execMgtCtrlWake s
  | .pwrEnLow => Sys2Proof.Machine.execPwrEnLow s
  | .mainSupplyLoss => Sys2Proof.Machine.execMainSupplyLoss s
  | .standbySupplyLoss => Sys2Proof.Machine.execStandbySupplyLoss s
  | .rstFenceSet quarter => Sys2Proof.Machine.execRstFenceSet quarter s
  | .rstFenceClear => Sys2Proof.Machine.execRstFenceClear s
  | .bstCtrlGo v => Sys2Proof.Machine.execBstCtrlGo v s
  | .bistComplete fails => Sys2Proof.Machine.execBistComplete fails s
  | .mgtFlashdataRead => Sys2Proof.Machine.execMgtFlashdataRead s
  | .smbusRead offset => Sys2Proof.Machine.execSmbusRead offset s
  | .smbusWrite offset v => Sys2Proof.Machine.execSmbusWrite offset v s
  | .causeW1cWrite offset v => Sys2Proof.Machine.execCauseW1cWrite offset v s
  | .rcRegisterRead offset => Sys2Proof.Machine.execRcRegisterRead offset s
  | .registerWrite offset v => Sys2Proof.Machine.execRegisterWrite offset v s
  | .portLinkLoss port => Sys2Proof.Machine.execPortLinkLoss port s
  | .memoryDieTemperatureCrossing dev temp => Sys2Proof.Machine.execMemoryDieTemperatureCrossing dev temp s

end Sys2Proof.Machine
end

