-- ==== Sys2Proof/Machine/Tick.lean ====
section
/-! DEFINITION. What the block does by itself when no command waits (log entries 5 and 122): a frame that it holds is acted
on, or a hub word at work on banks does its next ingot. -/

namespace Sys2Proof.Machine

/-- A held frame is acted on, unless it still has to wait (R188, R223, R230, R297, R388). -/
def State.tryHeld (s : State) (f : HeldIn) : Option State :=
  match exec f.cmd s with
  | .next t => if t.held.length < s.held.length then some t else none
  | _ => none

/-- The block with no command waiting. -/
def State.tick (s : State) : State :=
  match s.heldFirst.findSome? s.tryHeld with
  | some t => t
  | none => s.workStep.getD s

end Sys2Proof.Machine
end

