-- ==== Sys2Proof/WellFormed.lean ====
section
/-! DEFINITION. Which commands are well formed: the ranges that the types of their operands do not express. A bank is
one of 15,360 (R208), a port one of P0 to P7, a device one of 24, and a frame carries at most 512 bytes (R283). -/

namespace Sys2Proof

/-- A bank number, device × 640 + die × 32 + bank. -/
def bankOk (b : Nat) : Bool := decide (b < 15360)

/-- A port number. -/
def portOk (p : Nat) : Bool := decide (p < 8)

/-- A control-space offset (R6): below 16 MiB by its width, and a multiple of 8. -/
def offsetOk (o : BitVec 24) : Bool := o.toNat % 8 == 0

/-- A payload of a data frame (R283, R285): as many bytes as LEN says, in units of 64. -/
def payloadOk (h : FrameHdr) (p : List Byte) : Bool :=
  decide (h.len.toNat ≤ 8) && p.length == 64 * h.len.toNat

/-- A remote range (R302): a multiple of 64 bytes from a multiple of 64, at most 64 KiB. -/
def rangeOk (addr len : Nat) : Bool :=
  addr % 64 == 0 && len % 64 == 0 && decide (64 ≤ len) && decide (len ≤ 65536)

/-- A mirror image is nine rows of 2,048 bytes (R332). -/
def imageOk (m : MirrorImage) : Bool := m.rows.length == 9 && m.rows.all (fun r => r.length == 2048)

/-- A command is well formed. -/
def Instr.wf : Instr → Bool
  | .refresh bank _ => bankOk bank
  | .interfaceTracking dev channel => decide (dev < 24) && decide (channel < 4)
  | .scrubRead row => decide (row < 15360 * 65536)
  | .bankBoundaryService bank _ => bankOk bank
  | .uncorrectableError e => bankOk e.bank
  | .bankProgramStart bank => bankOk bank
  | .chainWordArrival bank => bankOk bank
  | .bankAdd bank _ | .bankSub bank _ | .bankAnd bank _ | .bankOr bank _ | .bankXor bank _ => bankOk bank
  | .bankAddi bank _ | .bankShli bank _ | .bankShri bank _ => bankOk bank
  | .bankBeq bank _ | .bankBne bank _ | .bankBltu bank _ => bankOk bank
  | .bankWbc bank _ | .bankWins bank _ | .bankWext bank _ | .bankWcrc bank _ => bankOk bank
  | .bankLdw bank _ | .bankStw bank _ | .bankStc bank _ | .bankRowop bank _ => bankOk bank
  | .bankChput bank _ | .bankChget bank _ => bankOk bank
  | .bankFadd bank _ | .bankFsub bank _ | .bankFmul bank _ | .bankFfma bank _ => bankOk bank
  | .bankFdiv bank _ | .bankFsqrt bank _ | .bankFmin bank _ | .bankFmax bank _ => bankOk bank
  | .bankIadd bank _ | .bankIsub bank _ | .bankWand bank _ | .bankWor bank _ | .bankWxor bank _ => bankOk bank
  | .bankWmov bank _ | .bankWcat bank _ | .bankWhi bank _ | .bankWlo bank _ => bankOk bank
  | .bankKadd bank _ | .bankEnd bank _ => bankOk bank
  | .ctrlFrame port f => portOk port && f.credits.length == 8
  | .frameCrcFail port _ | .portRetrainTimeout port | .portLinkLoss port => portOk port
  | .linkAnneal port | .linkAnnealEnd port _ | .delayMeasured port _ => portOk port
  | .rreq port _ addr len | .wreq port _ addr len => portOk port && rangeOk addr len
  | .rdata port h p | .wdata port h p | .redFrame port h p | .gathFrame port h p | .barFrame port h p =>
    portOk port && payloadOk h p
  | .wack port _ | .nack port _ => portOk port
  | .loopTrainingDone pair _ => decide (pair < 3)
  | .neighbourTrainingDone port _ _ _ r => portOk port && r.length == 16
  | .mirrorImage _ m => imageOk m
  | .verifyTransfer pairs => decide (pairs.length ≤ 31)
  | .memoryDieTemperatureCrossing dev _ => decide (dev < 24)
  | .crd o | .cwr o _ | .smbusRead o | .smbusWrite o _ => offsetOk o
  | .lnkConfigWrite o _ | .folGroupWrite o _ | .pwrConfigWrite o _ => offsetOk o
  | .causeW1cWrite o _ | .rcRegisterRead o | .registerWrite o _ => offsetOk o
  | _ => true

end Sys2Proof
end

