-- ==== Sys2Proof/Safety.lean ====
section
/-! DEFINITION. The terms in which the statements speak: where the Conductor, a bank core and the section queues stand,
what an instruction changes and what it leaves, and what every state keeps. -/

namespace Sys2Proof.Machine

/-! ## What always moves -/

/-- The part of the state that serving a request always moves: the link sequence numbers, the record of what is sent,
the attention pin, the number of the request and the answers that wait. `t` with that part taken from `s`. -/
def State.quiet (t s : State) : State :=
  { t with lnk := s.lnk, sent := s.sent, atn := s.atn,
           sec := { t.sec with reqs := s.sec.reqs, answers := s.sec.answers } }

/-! ## Memory -/

/-- Every row of T2 is sealed, and no column word is in error: a read of memory changes nothing (R214, R217). -/
def State.sound (s : State) : Prop := s.mdv.diff = [] ∧ s.mdv.unsealed = [] ∧ s.mdv.lost = []

/-- The bytes at a list of canonical addresses. -/
def State.bytesAt (s : State) (ps : List Nat) : List Byte := ps.map s.byte

/-! ## What the module sends -/

/-- A frame as it is handed to a port: SEQ and ACK are filled in as it leaves (R285, R288). -/
def OutFrame.unsent (f : OutFrame) : OutFrame := { f with h := { f.h with seq := 0, ack := 0 } }

/-- The data frames of channel `c` that the module has handed to port `p`, in order: those sent, then those queued. -/
def State.made (s : State) (p c : Nat) : List OutFrame :=
  (s.sent.filterMap (fun e => match e with
      | .frame q type h b => if q = p ∧ channelOf type h.vch = c then some (OutFrame.unsent ⟨type, h, b⟩) else none
      | _ => none))
    ++ ((s.port p).out.filter (fun f => channelOf f.type f.h.vch == c)).map OutFrame.unsent

/-- From `s` to `t` the frames of `l` were handed to port `p`, in order, and no other frame to any port. -/
def State.handed (s t : State) (p : Nat) (l : List OutFrame) : Prop :=
  ∀ q c, t.made q c = s.made q c ++ if q = p then l.filter (fun f => channelOf f.type f.h.vch == c) else []

/-- A transaction of this module, waiting or pending, that was made in the beat in progress (R302). -/
def State.asked (s t : State) (write : Bool) (p n : Nat) (who : Requester) : Prop :=
  ∃ x ∈ t.lnk.trans ++ t.lnk.stalled, x.write = write ∧ x.paddr = p ∧ x.len = n ∧ x.got = 0 ∧ x.since = s.bea.count
    ∧ x.who = who ∧ s.lnk.nextId ≤ x.id

/-! ## The Conductor -/

/-- The instruction word with major opcode `maj` (R62). -/
def cword (maj : BitVec 6) (body : Body) : BitVec 32 := maj ++ body

/-- The Conductor of a running cast may execute, and the word at its PC is `w` (R57, R62). -/
def State.atWord (s : State) (w : BitVec 32) : Prop :=
  ∃ c, s.cast = some c ∧ s.mayExecute = true ∧ s.cnd.past = false ∧ s.cnd.pc.toNat < c.ccode.count
    ∧ s.ccodeAt c s.cnd.pc.toNat = w

/-- Reaching index `pc` with these loops open leads to index `n` with `l` open (R65, R66): the first instruction after
the innermost body counts a pass, which repeats the body or leaves the loop. Only the innermost loop is asked, which is the
model's choice (log entry 106). -/
def reaches : List LoopFrame → Nat → Nat → List LoopFrame → Prop
  | [], pc, n, l => n = pc ∧ l = []
  | f :: rest, pc, n, l =>
    f.stop ≠ pc ∧ n = pc ∧ l = f :: rest
    ∨ f.stop = pc ∧ 1 < f.left ∧ n = f.start ∧ l = { f with left := f.left - 1 } :: rest
    ∨ f.stop = pc ∧ f.left ≤ 1 ∧ reaches rest pc n l

/-- From `s` to `t` the Conductor went on to the next instruction; where a loop body ended there, a pass was counted
(R65). -/
def wentOn (s t : State) : Prop :=
  t.cnd.wait = .none
  ∧ ∃ n, reaches s.cnd.loops (s.cnd.pc.toNat + 1) n t.cnd.loops
    ∧ t.cnd.pc = BitVec.ofNat 24 n ∧ t.cnd.past = decide (2 ^ 24 ≤ n)

/-- Where a program stands: its PC, its open loops and its wait. -/
def State.sameFlow (t s : State) : State :=
  { t with cnd := { t.cnd with pc := s.cnd.pc, past := s.cnd.past, loops := s.cnd.loops, wait := s.cnd.wait } }

/-- A register instruction took `s` to `t`: `v` stands in `rd` unless that is g0, which reads zero; every other
register, and all else but the place in the program, is as before (R58). -/
def regStep (s t : State) (rd : BitVec 5) (v : Word) : Prop :=
  (rd ≠ 0 → t.g rd = v) ∧ t.g 0 = 0 ∧ (∀ r, r ≠ rd → t.g r = s.g r) ∧ wentOn s t
  ∧ { t.sameFlow s with cnd := { (t.sameFlow s).cnd with g := s.cnd.g } } = s

/-- A summary instruction took `s` to `t`: only the registers of `mask` and the place in the program may differ. -/
def smStep (s t : State) (mask : BitVec 16) : Prop :=
  (∀ n : BitVec 4, bitAt mask n.toNat = false → t.smAt n = s.smAt n) ∧ wentOn s t
  ∧ { t.sameFlow s with cnd := { (t.sameFlow s).cnd with sm := s.cnd.sm } } = s

/-- An instruction that only passes took `s` to `t`. -/
def passStep (s t : State) : Prop := wentOn s t ∧ t.sameFlow s = s

/-- The ALU table of R63, in integer arithmetic. -/
def aluTable (fn : Nat) (a b : Word) : Option Word :=
  let n := b.toNat % 64
  if fn = 0x0 then some (BitVec.ofNat 64 (a.toNat + b.toNat))
  else if fn = 0x1 then some (BitVec.ofInt 64 (a.toInt - b.toInt))
  else if fn = 0x2 then some (a &&& b)
  else if fn = 0x3 then some (a ||| b)
  else if fn = 0x4 then some (a ^^^ b)
  else if fn = 0x5 then some (BitVec.ofNat 64 (a.toNat * 2 ^ n))
  else if fn = 0x6 then some (BitVec.ofNat 64 (a.toNat / 2 ^ n))
  else if fn = 0x7 then some (BitVec.ofInt 64 (a.toInt / 2 ^ n))
  else if fn = 0x8 then some (BitVec.ofNat 64 (a.toNat * b.toNat))
  else if fn = 0x9 then some (BitVec.ofNat 64 (a.toNat * b.toNat / 2 ^ 64))
  else if fn = 0xA then some (if a.toInt < b.toInt then 1 else 0)
  else if fn = 0xB then some (if a.toNat < b.toNat then 1 else 0)
  else if fn = 0xC then some (BitVec.ofInt 64 (min a.toInt b.toInt))
  else if fn = 0xD then some (BitVec.ofInt 64 (max a.toInt b.toInt))
  else if fn = 0xE then some (BitVec.ofNat 64 (min a.toNat b.toNat))
  else if fn = 0xF then some (BitVec.ofNat 64 (max a.toNat b.toNat))
  else none

/-- The conditions of BRF (R66), in integer arithmetic. -/
def brfTable (cond : Nat) (a b : Word) : Option Prop :=
  if cond = 0 then some (a.toNat = b.toNat)
  else if cond = 1 then some (a.toNat ≠ b.toNat)
  else if cond = 2 then some (a.toInt < b.toInt)
  else if cond = 3 then some (b.toInt ≤ a.toInt)
  else if cond = 4 then some (a.toNat < b.toNat)
  else if cond = 5 then some (b.toNat ≤ a.toNat)
  else if cond = 6 then some True
  else none

/-- The conditions of MBR (R72). -/
def mbrTable (cond : Nat) (sm g : Word) : Option Prop :=
  if cond = 1 then some (sm.toNat = 0)
  else if cond = 2 then some (sm.toNat ≠ 0)
  else if cond = 3 then some (sm.toNat = g.toNat)
  else if cond = 4 then some (sm.toNat ≠ g.toNat)
  else if cond = 5 then some (sm.toNat < g.toNat)
  else if cond = 6 then some (g.toNat ≤ sm.toNat)
  else if cond = 7 then some (∃ i, sm.getLsbD i = true ∧ g.getLsbD i = true)
  else if cond = 8 then some (∀ i, sm.getLsbD i = true → g.getLsbD i = false)
  else none

/-- The Conductor went to index `pc` with `loops` open, and nothing else changed. -/
def jumpStep (s t : State) (pc : Nat) (loops : List LoopFrame) : Prop :=
  t = { s with cnd := { s.cnd with
      pc := BitVec.ofNat 24 pc, past := decide (2 ^ 24 ≤ pc), loops := loops, wait := .none } }

/-- The Conductor left mould `old` for mould `m`, whose entry is `d` (R71, R74): its entry beat, its lateness, the step,
the causes; nothing of the registers or queues moved, nor of memory but the tiles of an open pass, where an abort mould is
entered (R257). -/
def transferStep (s t : State) (m : Nat) (old d : Mould) : Prop :=
  let due := s.cnd.mentry.toNat + old.beats
  let x := s.bea.count.toNat
  t.cnd.mould = BitVec.ofNat 12 m ∧ t.cnd.pc = BitVec.ofNat 24 d.code ∧ t.cnd.wait = .none
  ∧ t.cnd.mentry = BitVec.ofNat 64 (max due x) ∧ t.cnd.fresh = 7
  ∧ t.cnd.step = (if old.stepEnd = true ∧ old.abort = false then s.cnd.step + 1 else s.cnd.step)
  ∧ (x ≤ due → t.cnd.late = s.cnd.late)
  ∧ (due < x → hi32 t.cnd.late = min (hi32 s.cnd.late + 1) 0xFFFFFFFF
      ∧ lo32 t.cnd.late = min (lo32 s.cnd.late + (x - due)) 0xFFFFFFFF)
  ∧ t.causeOf .cnd = s.causeOf .cnd ||| (if due < x then 8 else 0) ||| (if d.abort = true then 0x80 else 0)
  ∧ t.cnd.past = false ∧ t.cnd.g = s.cnd.g ∧ t.cnd.sm = s.cnd.sm ∧ t.cnd.loops = s.cnd.loops ∧ t.sheet = s.sheet
  ∧ t.bnk = s.bnk ∧ t.fn = s.fn ∧ (d.abort = false ∨ s.passDests = [] → t.mem = s.mem ∧ t.headers = s.headers)
  ∧ (∀ p, (∀ r ∈ s.passDests, p < r.1 ∨ r.1 + r.2 ≤ p) → t.byte p = s.byte p)

/-- The sections whose queues take a word (R69, R44): bit 0 F, bit 1 B, bit 2 H. -/
def takenBy (part : BitVec 2) (w : AWord) (i : Nat) : Prop :=
  if wOpc w = 0xC1 then
    (if i = 2 then bitAt w 2 = true
     else if part = 1 then bitAt w 0 = true ∨ bitAt w 1 = true else bitAt w i = true)
  else if wSec w = 0 then i < 2
  else if wSec w = 1 then i = 0
  else if wSec w = 2 then i = 1
  else i = 2

/-- The queue of a section has room for `k` more entries and one (R69). -/
def Sheet.room (h : Sheet) (k i : Nat) : Prop := (h.queue i).length + k < if i = 2 then 64 else 128

/-- The word passes the checks of R68 and, with `k` words enqueued before it, finds room and a pending count below 63
(R60). -/
def State.acceptsAfter (s : State) (k : Nat) (w : AWord) : Prop :=
  enqueueCheck s.cnd.part w = none ∧ (∀ i, i < 3 → takenBy s.cnd.part w i → s.sheet.room k i)
  ∧ (wSumm w = true → s.pendingSm (fld (wFlg w) 0 4) + k < 63)

/-- The word passes the checks of R68 and stalls the Conductor: a queue that takes it is full, or 63 deliveries to its
summary register are pending (R60, R69). -/
def State.stallsOn (s : State) (w : AWord) : Prop :=
  enqueueCheck s.cnd.part w = none
  ∧ ((∃ i, i < 3 ∧ takenBy s.cnd.part w i ∧ ¬ s.sheet.room 0 i)
    ∨ wSumm w = true ∧ 63 ≤ s.pendingSm (fld (wFlg w) 0 4))

/-- From `s` to `t` nothing changed but the Sheet, and which word's operands are read. -/
def State.sheetOnly (s t : State) : Prop :=
  { t with sheet := s.sheet, lnk := { t.lnk with reading := s.lnk.reading } } = s

/-- From `s` to `t` the word was enqueued (R69, R60, R74): an entry with the step number in force at the end of each
of its sections' queues, one more pending delivery of its summary register, nothing else moved. -/
def enqueueStep (s t : State) (w : AWord) : Prop :=
  (∀ i, i < 3 → takenBy s.cnd.part w i → ∃ e, t.sheet.queue i = s.sheet.queue i ++ [e] ∧ e.word = w
    ∧ e.step = s.cnd.step ∧ e.seq = s.cnd.nextSeq)
  ∧ (∀ i, i < 3 → ¬ takenBy s.cnd.part w i → t.sheet.queue i = s.sheet.queue i)
  ∧ (∀ n, t.pendingSm n = s.pendingSm n + if wSumm w ∧ n = fld (wFlg w) 0 4 then 1 else 0)
  ∧ t.cnd.nextSeq = s.cnd.nextSeq + 1 ∧ t.sheet.issued = s.sheet.issued
  ∧ t.cnd.g = s.cnd.g ∧ t.cnd.sm = s.cnd.sm ∧ t.mem = s.mem ∧ t.headers = s.headers ∧ t.cause = s.cause
  ∧ t.bnk = s.bnk ∧ t.mdv = s.mdv ∧ t.lnk = s.lnk ∧ t.tmv = s.tmv ∧ t.cast = s.cast

/-- From `s` to `t` these words were enqueued one after the other. -/
def enqueueSteps : List AWord → State → State → Prop
  | [], s, t => t.sheet = s.sheet ∧ t.cnd.deliv = s.cnd.deliv ∧ t.cnd.g = s.cnd.g ∧ t.mem = s.mem
  | w :: ws, s, t => ∃ m, enqueueStep s m w ∧ enqueueSteps ws m t

/-- An exception with `code` took `s` to `t` (R77): the record names the mould and the PC and the word refused, the
Conductor stops fetching, and nothing else changes but the cause. -/
def exceptionStep (s t : State) (code : Nat) (instr : BitVec 32) (word : AWord) : Prop :=
  t.cnd.exc = putAt 56 8 code ||| putAt 44 12 s.cnd.mould.toNat ||| putAt 0 24 s.cnd.pc.toNat
  ∧ t.cnd.excInstr = instr ∧ t.cnd.excHi ++ t.cnd.excLo = word
  ∧ t.fnState .cnd = .stopping ∧ t.cnd.ending = 4
  ∧ t.causeOf .cnd = s.causeOf .cnd ||| (1 <<< (if code = 5 ∨ code = 7 ∨ code = 8 then 5 else 4))
  ∧ t.cnd.g = s.cnd.g ∧ t.cnd.sm = s.cnd.sm ∧ t.cnd.pc = s.cnd.pc ∧ t.cnd.step = s.cnd.step
  ∧ t.sheet = s.sheet ∧ t.mem = s.mem ∧ t.headers = s.headers ∧ t.cast = s.cast ∧ t.bnk = s.bnk ∧ t.mdv = s.mdv

/-- The conductor instructions: each command, its MAJ, and whether the fields marked "—" for it and its FN or its kind of
shift are as the tables ask (R62, R63, R72). -/
def conductorForms : List ((Body → Instr) × BitVec 6 × (Body → Bool)) :=
  let free : Body → Bool := fun _ => true
  let zero (l : List (Nat × Nat)) : Body → Bool := fun b => l.all (fun f => fldN b f.1 f.2 == 0)
  [(.alu, 0x01, fun b => decide (fldN b 0 11 < 0x10)), (.addi, 0x02, free), (.andi, 0x03, free), (.ori, 0x04, free),
   (.xori, 0x05, free), (.shi, 0x06, fun b => zero [(6, 8)] b && decide (fldN b 14 2 < 3)), (.slti, 0x07, free),
   (.movz, 0x08, zero [(18, 3)]), (.movk, 0x09, zero [(18, 3)]), (.ld, 0x0A, free), (.st, 0x0B, free),
   (.rdsm, 0x0C, zero [(16, 5), (4, 12)])]
  ++ [(.rdsp, 0x0D, fun b => zero [(16, 5), (6, 10)] b && decide (fldN b 0 6 < 8)), (.smw, 0x0E, zero [(21, 5), (4, 12)]),
   (.smclr, 0x0F, zero [(21, 5), (16, 5)]), (.brf, 0x10, free), (.loop, 0x11, free), (.waitb, 0x12, free),
   (.waita, 0x13, free), (.waitq, 0x14, zero [(8, 14)]), (.awi, 0x18, zero [(21, 5)]), (.awip, 0x19, free),
   (.awn, 0x1A, zero [(21, 5)]), (.awr, 0x1B, zero [(21, 5), (0, 11)])]
  ++ [(.mjmp, 0x20, zero [(12, 14)]),
   (.mbr, 0x21, fun b => zero [(17, 1)] b && (zero [(12, 5)] b || !(fldN b 22 4 == 1 || fldN b 22 4 == 2))),
   (.msel, 0x22, zero [(21, 5), (12, 4)]), (.mend, 0x23, zero [(0, 26)]), (.halt, 0x24, zero [(21, 5), (16, 5)])]

/-! ## Array words -/

/-- From `s` to `t` the word at the heads of its sections left their queues and counts as issued in the beat in progress
(R42, R69, R87); no other word entered or left a queue. -/
def wordStep (s t : State) (opc : BitVec 8) (a : ArrayArgs) (e : QEnt) : Prop :=
  (∀ i, i < 3 → t.sheet.queue i = if bitAt (secsOf a.sec) i then (s.sheet.queue i).tail else s.sheet.queue i)
  ∧ (∀ i, i < 3 → t.sheet.last i = if bitAt (secsOf a.sec) i then s.bea.count else s.sheet.last i)
  ∧ t.sheet.issued.length = s.sheet.issued.length + 1
  ∧ (∃ w ∈ t.sheet.issued, w.seq = e.seq ∧ w.opc = opc ∧ w.secs = secsOf a.sec)
  ∧ t.cnd.pc = s.cnd.pc ∧ t.cnd.g = s.cnd.g ∧ t.cnd.sm = s.cnd.sm ∧ t.cnd.wait = s.cnd.wait

/-- The word with this effect issues now: its entry is due, the lines of T3 that it reads have come, and no page that it
touches is in move (R42, R188, R302). -/
def State.goes (s : State) (opc : BitVec 8) (a : ArrayArgs) (effect : QEnt → State → State) (e : QEnt) : Prop :=
  s.issuing opc a = some e ∧ (s.tried (secsOf a.sec) e effect).clear = true

/-- The word may not issue, and no reserved opcode of its class may: the command finds nothing to do. -/
def State.mustWait (s : State) (opc : BitVec 8) (a : ArrayArgs) : Prop :=
  s.issuing opc a = none ∧ s.reservedDue opc.toNat = none

/-- From `s` to `t` a unit refused the word for the flaw `f` (R98): the cause of its block, the record if it held none,
0 for its summary; memory and headers are left. -/
def refusedStep (s t : State) (b : Blk) (opc : BitVec 8) (a : ArrayArgs) (e : QEnt) (f : Flaw) : Prop :=
  wordStep s t opc a e ∧ t.causeOf b = s.causeOf b ||| (1 <<< f.cause) ∧ t.mem = s.mem ∧ t.headers = s.headers
  ∧ t.faultOf b = (if recordFree s b (bitAt (s.faultOf b) 0) = true then flawWord b e.word f else s.faultOf b)
  ∧ (∀ d ∈ t.cnd.deliv, d.seq = e.seq → d.value = some 0)

/-- The summary of the word with this enqueue number is formed. -/
def State.formed (t : State) (seq : Nat) : Prop := ∀ d ∈ t.cnd.deliv, d.seq = seq → d.value.isSome = true

/-- The matrix words (R95): the command, the opcode, what it does. -/
def matrixWords : List ((ArrayArgs → Instr) × BitVec 8 × MatOp) :=
  [(.mmul, 0x01, ⟨.mul, false, false⟩), (.mmulTx, 0x02, ⟨.mul, true, false⟩), (.mmulTy, 0x03, ⟨.mul, false, true⟩),
   (.mmulTxy, 0x04, ⟨.mul, true, true⟩), (.mmac, 0x05, ⟨.mac, false, false⟩), (.mmacTx, 0x06, ⟨.mac, true, false⟩),
   (.mmacTy, 0x07, ⟨.mac, false, true⟩), (.mmacTxy, 0x08, ⟨.mac, true, true⟩), (.mtacc, 0x09, ⟨.tacc, false, false⟩),
   (.mtaccTx, 0x0A, ⟨.tacc, true, false⟩), (.mtaccTy, 0x0B, ⟨.tacc, false, true⟩),
   (.mtaccTxy, 0x0C, ⟨.tacc, true, true⟩), (.gload, 0x0D, ⟨.gload, false, false⟩),
   (.gstore, 0x0E, ⟨.gstore, false, false⟩), (.gclr, 0x0F, ⟨.gclr, false, false⟩),
   (.ascore, 0x20, ⟨.ascore, false, true⟩), (.arows, 0x21, ⟨.arows, false, false⟩),
   (.agscale, 0x22, ⟨.agscale, false, false⟩)]

/-- The job of EMAP or ERED with the operations of its program (R136, R137). -/
def vecOf (ered : Bool) (a : ArrayArgs) (s : State) : VecJob :=
  vecJob ered a (match s.elemProg (fldN a.c 16 16) with | .ok l => l | .error _ => []) s

/-- A word of the convolution or vector class (R165, R137, R172 to R174): its command, opcode and block, its checks in
order, whether it has a zero extent, and its effect. -/
structure UnitWord where
  cmd    : ArrayArgs → Instr
  opc    : BitVec 8
  blk    : Blk
  checks : ArrayArgs → State → Option Flaw
  zero   : ArrayArgs → State → Bool
  effect : ArrayArgs → QEnt → State → State

/-- A convolution word of the matrix units. -/
def convWord (cmd : ArrayArgs → Instr) (opc : BitVec 8) (wg add : Bool) : UnitWord :=
  ⟨cmd, opc, .ary, convChecks wg add, fun a s => (convJob wg add a s).zeroWork, convEffect wg add⟩

/-- A convolution word of the lanes. -/
def laneWord (cmd : ArrayArgs → Instr) (opc : BitVec 8) (kind : ArrayArgs → LaneConv)
    (job : ArrayArgs → State → LaneJob) (blk : Blk) : UnitWord :=
  ⟨cmd, opc, blk, fun a s => laneChecks (kind a) (job a s) a s, fun a s => (job a s).zeroWork,
   fun a => laneConvEffect (kind a) (job a) a⟩

/-- The words of the convolution and vector classes. -/
def unitWords : List UnitWord :=
  [convWord .conv 0x40 false false, convWord .conva 0x41 false true, convWord .convwg 0x42 true false,
   convWord .convwga 0x43 true true, laneWord .vdw 0x62 (fun _ => .vdw) vdwJob .vec,
   laneWord .pool 0x48 poolKind (fun a => planeJob (poolKind a) a) .ary,
   laneWord .resample 0x49 resampleKind (fun a => planeJob (resampleKind a) a) .ary,
   ⟨.emap, 0x60, .vec, vecChecks false, fun a s => (vecOf false a s).zeroWork, vecEffect false⟩,
   ⟨.ered, 0x61, .vec, vecChecks true, fun a s => (vecOf true a s).zeroWork, vecEffect true⟩]

/-- A slot of `n` bytes at `u` may be written at the canonical addresses `ps`: mapped, in no running working window, on
no page that a cast keeps read-only, in no aperture that bars writes or drops them, and no column word that it touches
only in part is in error. -/
def State.slotOpen (s : State) (u n : Nat) (ps : List Nat) : Prop :=
  s.translRun u n = some ps ∧ (∀ q ∈ ps, s.dropsWrite q = false) ∧ s.windowHit ps = none
  ∧ s.readOnlyPage (u / 0x10000) = false ∧ s.readOnlyPage ((u + n - 1) / 0x10000) = false
  ∧ (∀ q ∈ ps, isT3 q = true → s.apWritable q = true) ∧ s.mergeCols ps = []

/-! ## Bank cores -/

/-- The program on a bank stands at the bank instruction `w`: it runs, has budget left, its PC lies within its range,
and its core has not been stopped by an uncorrectable error (R227, R237). -/
def State.atBank (s : State) (bank : Nat) (r : BankRun) (w : BitVec 32) : Prop :=
  (s.core bank).run = some r ∧ s.mdv.stopCores.contains bank = false ∧ (s.core bank).pc < r.plen
  ∧ r.count < r.budget ∧ s.bprogAt (r.pstart + (s.core bank).pc) = w

/-- A bank instruction took `s` to `t`: it counts, the core on its bank is `d` apart from that, and no other core and
nothing else changes. -/
def bankStep (s t : State) (bank : Nat) (r : BankRun) (d : BankCore) : Prop :=
  t.core bank = { d with ran := true, serving := none, run := some { r with count := r.count + 1 } }
  ∧ (∀ b, b ≠ bank → t.core b = s.core b) ∧ { t with bnk := { t.bnk with cores := s.bnk.cores } } = s

/-- `d` is core `c` at the next instruction with `v` in scalar register `rd`, unless that is b0, which reads zero. -/
def scalarSet (c d : BankCore) (rd : BitVec 4) (v : Word) : Prop :=
  (rd ≠ 0 → d.reg rd = v) ∧ d.reg 0 = 0 ∧ (∀ q, q ≠ rd → d.reg q = c.reg q)
  ∧ { d with b := c.b } = { c with pc := c.pc + 1 }

/-- `d` is core `c` at the next instruction with `v` in wide register `rd` and the flags `f` added. -/
def wideSet (c d : BankCore) (rd : BitVec 5) (v : Wide) (f : FpFlags) : Prop :=
  d.wide rd = v ∧ (∀ q, q ≠ rd → d.wide q = c.wide q)
  ∧ { d with w := c.w } = { c with pc := c.pc + 1, flags := c.flags.or f }

/-- The scalar instructions of a bank core (R233), in integer arithmetic: command, opcode, result from b[BA], b[BB] and
the instruction. -/
def bankScalarTable : List ((Nat → Body → Instr) × BitVec 6 × (Word → Word → Body → Word)) :=
  [(.bankAdd, 0x01, fun a b _ => BitVec.ofNat 64 (a.toNat + b.toNat)),
   (.bankSub, 0x02, fun a b _ => BitVec.ofInt 64 (a.toInt - b.toInt)),
   (.bankAnd, 0x03, fun a b _ => a &&& b), (.bankOr, 0x04, fun a b _ => a ||| b),
   (.bankXor, 0x05, fun a b _ => a ^^^ b),
   (.bankAddi, 0x06, fun a _ i => BitVec.ofInt 64 (a.toInt + (fld i 0 14 : BitVec 14).toInt)),
   (.bankShli, 0x07, fun a _ i => BitVec.ofNat 64 (a.toNat * 2 ^ fldN i 0 6)),
   (.bankShri, 0x08, fun a _ i => BitVec.ofNat 64 (a.toNat / 2 ^ fldN i 0 6))]

/-- The branches of a bank core (R233). -/
def bankBranchTable : List ((Nat → Body → Instr) × BitVec 6 × (Word → Word → Prop)) :=
  [(.bankBeq, 0x09, fun a b => a = b), (.bankBne, 0x0A, fun a b => a ≠ b),
   (.bankBltu, 0x0B, fun a b => a.toNat < b.toNat)]

/-- The FP32 instructions of a bank core (R233): command, opcode, operands, the operation on one lane. -/
def bankFpTable : List ((Nat → Body → Instr) × BitVec 6 × Nat × (BitVec 32 → BitVec 32 → BitVec 32 → FpOut)) :=
  [(.bankFadd, 0x20, 2, fun a b _ => fpAdd a b), (.bankFsub, 0x21, 2, fun a b _ => fpSub a b),
   (.bankFmul, 0x22, 2, fun a b _ => fpMul a b), (.bankFfma, 0x23, 3, fpFma),
   (.bankFdiv, 0x24, 2, fun a b _ => fpDiv a b), (.bankFsqrt, 0x25, 1, fun a _ _ => fpSqrt a),
   (.bankFmin, 0x26, 2, fun a b _ => fpMin a b), (.bankFmax, 0x27, 2, fun a b _ => fpMax a b)]

/-- The instructions of a bank core that leave flags alone and work on 32-bit lanes (R233). -/
def bankIntTable : List ((Nat → Body → Instr) × BitVec 6 × (BitVec 32 → BitVec 32 → BitVec 32)) :=
  [(.bankIadd, 0x28, fun a b => BitVec.ofNat 32 (a.toNat + b.toNat)),
   (.bankIsub, 0x29, fun a b => BitVec.ofInt 32 (a.toInt - b.toInt)), (.bankWand, 0x2A, fun a b => a &&& b),
   (.bankWor, 0x2B, fun a b => a ||| b), (.bankWxor, 0x2C, fun a b => a ^^^ b), (.bankWmov, 0x2D, fun a _ => a)]

/-- A rule of R237 broken at the PC took `s` to `t`: the program ends by a fault, with its flags and its cause, and the
instruction has no effect. -/
def bankFaultStep (s t : State) (bank : Nat) (r : BankRun) (code cause : Nat) : Prop :=
  (t.core bank).run = none ∧ { t.core bank with run := some r } = s.core bank
  ∧ (∀ b, b ≠ bank → t.core b = s.core b)
  ∧ t.causeOf .bnk = s.causeOf .bnk ||| (1 <<< cause) ∧ t.bnk.flags = s.bnk.flags ||| (s.core bank).flags.bits
  ∧ hi32 t.bnk.done = min (hi32 s.bnk.done + 1) 0xFFFFFFFF ∧ lo32 t.bnk.done = lo32 s.bnk.done
  ∧ (recordFree s .bnk (bitAt s.bnk.fault 0) = true → fldN t.bnk.fault 56 8 = code
      ∧ fldN t.bnk.fault 27 10 = (s.core bank).pc % 1024)
  ∧ (∀ l ∈ t.bnk.launches, l.seq = r.launch → ∀ p ∈ l.progs, p.bank = bank →
      p.state = .ended none true (s.core bank).flags)
  ∧ { t.quiet s with bnk := s.bnk, cause := s.cause, cleared := s.cleared } = s

/-! ## The host -/

/-- Answers that are kept back wait behind one that is still awaited (R368). -/
def State.answersWait (s : State) : Prop := ∀ a, s.sec.answers.head? = some a → a.awaits.isSome = true

/-- A request of the host of level `need` for the register at `off` is served (R366 to R369): P7 is up, a session of
that privilege is open, the power state has not gated the block, and answers are kept back only by one still awaited. -/
def State.hostMay (s : State) (need : Nat) (off : BitVec 24) : Prop :=
  (s.port 7).isUp = true ∧ s.sec.session.isSome = true ∧ need ≤ s.priv.toNat ∧ s.gated off = false ∧ s.answersWait

/-- The number of the channel of HOST frames (R286). -/
def hostChannel : Nat := channelOf 12 false

/-- A frame of an answer as the module hands it to P7 (R367): it repeats the TAG of the request, a free value here (log
entry 47). -/
def State.answerFrame (s : State) (req : Nat) (m : HostMsg) : OutFrame :=
  ⟨12, s.ownHdr 0 (Config.hostTag req).toNat m.off 8 m.last, hostPayload m.op m.status m.addr m.arg m.data⟩

/-- From `s` to `t` the next request of the host was answered with the frames of `l`: at once, or, where an earlier
request is still to be answered, behind its answer (R368). -/
def replied (s t : State) (l : List HostMsg) : Prop :=
  (s.sec.answers = [] → t.made 7 hostChannel = s.made 7 hostChannel ++ l.map (s.answerFrame (s.sec.reqs + 1)))
  ∧ (s.sec.answers ≠ [] → t.made 7 hostChannel = s.made 7 hostChannel
      ∧ t.sec.answers = s.sec.answers ++ [⟨s.sec.reqs + 1, none, l⟩])

/-- From `s` to `t` the module answered a request with one HOST frame of this operation and status (R367). -/
def answered (s t : State) (op st : Nat) : Prop :=
  ∃ m : HostMsg, m.op = op ∧ m.status = st ∧ m.off = 0 ∧ m.last = true ∧ replied s t [m]

/-- From `s` to `t` the module answered a read OK with one HOST frame that carries these bytes (R367). -/
def returned (s t : State) (op : Nat) (data : List Byte) : Prop :=
  ∃ m : HostMsg, m.op = op ∧ m.status = 0 ∧ m.off = 0 ∧ m.last = true ∧ m.data = data ∧ replied s t [m]

/-- From `s` to `t` what the requests waiting for `w` waited for came: their answer is `l`, and every answer that no earlier
request keeps back any more was handed to P7, in the order of the requests (R368). -/
def cameFor (s t : State) (w : Awaited) (l : List HostMsg) : Prop :=
  ∃ done, s.sec.answers.map (fun a => if a.awaits = some w then { a with awaits := none, msgs := l } else a)
      = done ++ t.sec.answers
    ∧ (∀ a ∈ done, a.awaits = none) ∧ t.answersWait
    ∧ s.handed t 7 (done.flatMap (fun a => a.msgs.map (s.answerFrame a.req)))

/-- A field of a register: its lowest bit, its width, its least and its greatest value. -/
structure FieldRange where
  lo    : Nat
  width : Nat
  least : Nat
  most  : Nat

/-- `new` is register value `old` after `v` is written: each listed field takes the value written if that lies in its
range and otherwise stands, as do all other bits (R7). -/
def merged (fs : List FieldRange) (v old new : Word) : Prop :=
  (∀ f ∈ fs, fldN new f.lo f.width =
    if f.least ≤ fldN v f.lo f.width ∧ fldN v f.lo f.width ≤ f.most then fldN v f.lo f.width else fldN old f.lo f.width)
  ∧ ∀ i, i < 64 → (∀ f ∈ fs, i < f.lo ∨ f.lo + f.width ≤ i) → bitAt new i = bitAt old i

/-- A field without reserved values. -/
def freeField (lo width : Nat) : FieldRange := ⟨lo, width, 0, 2 ^ width - 1⟩

/-- The registers without a row of their own that only take what is written: offset, privilege, effect. -/
def plainWrites : List (BitVec 24 × Nat × (Word → State → State)) :=
  [(0x020020, 1, fun v s => { s with bea := { s.bea with tai := v } }),
   (0x050008, 1, fun v s => { s with crw := { s.crw with offset := fld v 3 16 } }),
   (0x080018, 1, fun v s => { s with tmv := { s.tmv with probe := fld v 0 28 } }),
   (0x090058, 1, fun v s => { s with tir := { s.tir with slotSel := fld v 0 12 } }),
   (0x0A0050, 1, fun v s => { s with mdv := { s.mdv with sealSel := fld v 0 25 } }),
   (0x0A0060, 2, fun v s => { s with mdv := { s.mdv with override := bitAt v 0 } }),
   (0x0F0020, 1, fun v s => { s with twn := { s.twn with recov := fld v 0 16 } }),
   (0x0F0078, 1, fun v s => { s with twn := { s.twn with rdLen := fld v 0 48 } }),
   (0x110060, 1, fun v s => { s with pwr := { s.pwr with patSel := fld v 0 10 } }),
   (0x140008, 1, fun v s => { s with rst := { s.rst with reverted := s.rst.reverted &&& ~~~ (fld v 0 11) } }),
   (0x160018, 1, fun v s => { s with mgt := { s.mgt with offset := fld v 3 13 } })]

/-- The functions' settings that single registers stage: offset, function, whether the write is taken, the value staged,
its fields, and the state with a value staged. -/
structure StagedReg where
  off   : BitVec 24
  cmd   : Word → Instr
  fn    : FnBlock
  taken : State → Bool
  old   : State → Word
  fs    : List FieldRange
  put   : Word → State → State

/-- ARY_CFG, TMV_CFG, MDV_CFG, TWN_CFG, PWR_DROOP, PWR_SWARF, PWR_LOOP (R108, R206, R230, R346, R365). -/
def stagedRegs : List StagedReg :=
  [⟨0x040000, .aryCfgWrite, .ary, fun s => s.stopped .ary && s.noCast, fun s => s.sheet.set.staged.cfg,
      [freeField 0 1, ⟨4, 4, 1, 8⟩], fun w s => { s with sheet := { s.sheet with
        set := { s.sheet.set with staged := { s.sheet.set.staged with cfg := w } } } }⟩,
   ⟨0x080000, .tmvCfgWrite, .tmv, fun s => s.stopped .tmv && s.loadMap, fun s => s.tmv.cfg.staged,
      [⟨0, 6, 1, 63⟩, freeField 7 17],
      fun w s => { s with tmv := { s.tmv with cfg := { s.tmv.cfg with staged := w } } }⟩,
   ⟨0x0A0000, .mdvCfgWrite, .mdv, fun s => s.stopped .mdv, fun s => s.mdv.cfg.staged,
      [freeField 0 1, ⟨4, 4, 1, 15⟩, ⟨8, 4, 1, 15⟩, ⟨12, 4, 1, 15⟩, freeField 24 8],
      fun w s => { s with mdv := { s.mdv with cfg := { s.mdv.cfg with staged := w } } }⟩,
   ⟨0x110040, .pwrConfigWrite 0x110040, .pwr, fun s => s.stopped .pwr, fun s => s.pwr.set.staged.droop,
      [⟨24, 8, 1, 255⟩, ⟨16, 8, 1, 64⟩, freeField 0 16], fun w s => { s with pwr := { s.pwr with
        set := { s.pwr.set with staged := { s.pwr.set.staged with droop := w } } } }⟩,
   ⟨0x110048, .pwrConfigWrite 0x110048, .pwr, fun s => s.stopped .pwr, fun s => s.pwr.set.staged.swarf,
      [freeField 63 1, freeField 32 16, ⟨16, 16, 1, 65535⟩, ⟨0, 16, 1, 65535⟩], fun w s => { s with pwr := { s.pwr with
        set := { s.pwr.set with staged := { s.pwr.set.staged with swarf := w } } } }⟩,
   ⟨0x110050, .pwrConfigWrite 0x110050, .pwr, fun s => s.stopped .pwr, fun s => s.pwr.set.staged.loop,
      [freeField 8 8, ⟨0, 8, 1, 64⟩], fun w s => { s with pwr := { s.pwr with
        set := { s.pwr.set with staged := { s.pwr.set.staged with loop := w } } } }⟩,
   ⟨0x0F0008, .twnCfgWrite, .twn, fun s => s.stopped .twn, fun s => s.twn.set.staged,
      [freeField 0 17], fun w s => { s with twn := { s.twn with set := { s.twn.set with staged := w } } }⟩]

/-- A request was answered OK and nothing changed but what `quiet` names, the cause registers and the part `keep`
restores. -/
def servedBut (s t : State) (op : Nat) (keep : State → State) : Prop := answered s t op 0 ∧ keep (t.quiet s) = s

/-! ## Links -/

/-- A data frame with this header is the next in order on port `p`, and makes a frame the port takes (R285, R288). -/
def State.nextOn (s : State) (p : Nat) (h : FrameHdr) : Prop :=
  (s.port p).isUp = true ∧ h.seq = s.rxNext p ∧ h.len.toNat ≤ 8

/-- Nothing keeps a data frame of this type and channel on port `p` from being acted on at once: data frames flow, none of
its channel is held before it, and no tag is awaited (R297, R374, R388). -/
def State.actsNow (s : State) (p : Nat) (type : BitVec 4) (h : FrameHdr) : Prop :=
  s.framesFlow = true ∧ (∀ f ∈ s.held, f.port = p → f.chan ≠ channelOf type h.vch) ∧ s.isProtected p = false

/-- A data frame with this header is taken on port `p` and acted on. -/
def State.inOrder (s : State) (p : Nat) (type : BitVec 4) (h : FrameHdr) : Prop := s.nextOn p h ∧ s.actsNow p type h

/-- A data frame is taken on port `p` and is for this module (R294). -/
def State.arrives (s : State) (p : Nat) (type : BitVec 4) (h : FrameHdr) : Prop :=
  s.inOrder p type h ∧ s.consumes p type h = true

/-- The sequence number of port `p` went on from `s` to `t`. -/
def tookFrame (s t : State) (p : Nat) : Prop := (t.port p).rxSeq = (s.port p).rxSeq + 1 ∧ (t.port p).fails = 0

/-- Of the links, only the ports moved from `s` to `t`. -/
def onlyPorts (s t : State) : Prop := { t.lnk with ports := s.lnk.ports } = s.lnk

/-- From `s` to `t` port `p` became `q`; of the rest, only what `quiet` names and the causes may have moved. -/
def portStep (s t : State) (p : Nat) (q : Port) : Prop :=
  t.port p = q ∧ (∀ r, r ≠ p → t.port r = s.port r) ∧ onlyPorts s t ∧ { t.quiet s with cause := s.cause } = s

/-- From `s` to `t` port `p` became `q`, and of the frames queued to it some may have left. -/
def portOpened (s t : State) (p : Nat) (q : Port) : Prop :=
  { t.port p with out := q.out, txSeq := q.txSeq, replay := q.replay, sentC := q.sentC, busy := q.busy, group := q.group
                  ctrls := q.ctrls } = q
  ∧ (q.out = [] → t.port p = q) ∧ (∀ r, r ≠ p → t.port r = s.port r) ∧ s.handed t p []
  ∧ { t.lnk with ports := s.lnk.ports, wire := s.lnk.wire, taking := s.lnk.taking } = s.lnk
  ∧ { t.quiet s with cause := s.cause } = s

/-- From `s` to `t` port `p` was lost and became `q`: with P7 the session closes, with P6 a soldered pair is SINGLE, its
apertures close, and SOLDER is set (R288, R330, R372). -/
def portLost (s t : State) (p : Nat) (q : Port) : Prop :=
  t.port p = (if p = 7 ∧ s.sec.session.isSome = true then { q with key := none, group := [], ctrls := 0 } else q)
  ∧ (∀ r, r ≠ p → t.port r = s.port r) ∧ t.mem = s.mem ∧ t.headers = s.headers ∧ t.fn = s.fn ∧ t.cast = s.cast ∧ t.cnd.g = s.cnd.g ∧ t.cnd.pc = s.cnd.pc
  ∧ (p = 7 → t.sec.session = none ∧ t.twn = s.twn) ∧ (p ≠ 7 → t.sec = s.sec)
  ∧ (p = 6 → s.twn.pair = .soldered → t.twn.pair = .single ∧ t.causeOf .twn = s.causeOf .twn ||| 0x100
      ∧ (∀ a, a < 30 → t.apOpen a = false) ∧ (∀ a, 30 ≤ a → t.aperture a = s.aperture a))
  ∧ (p ≠ 6 ∨ s.twn.pair ≠ .soldered → onlyPorts s t ∧ t.twn.pair = s.twn.pair ∧ t.sheet = s.sheet ∧ t.cnd = s.cnd)
  ∧ (∀ b, b ≠ .lnk → b ≠ .twn ∨ p ≠ 6 → t.causeOf b = s.causeOf b)

/-- A frame on port `p` was discarded: NAK names the frame needed, and the eighth failure in a row of that frame retrains
the port; `failed` says that it was that frame (R288). -/
def discardStep (s t : State) (p : Nat) (failed : Bool) : Prop :=
  let q := s.port p
  t.sent = s.sent ++ [.nak p (s.rxNext p)]
  ∧ t.port p = (if !failed then q else if 8 ≤ q.fails + 1 then { q with state := 5, fails := 0, group := [] }
      else { q with fails := q.fails + 1 })
  ∧ (∀ r, r ≠ p → t.port r = s.port r) ∧ onlyPorts s t ∧ { t with lnk := s.lnk, sent := s.sent } = s

/-- The commands that bring a data frame with header `h` on port `p`, each with its type and its payload. -/
def dataFrames (p : Nat) (h : FrameHdr) (addr len : Nat) (bs : List Byte) : List (BitVec 4 × List Byte × Instr) :=
  [(2, padTo 64 (leBytes 8 addr ++ leBytes 4 len ++ leBytes 4 0), .rreq p h addr len), (3, bs, .rdata p h bs),
   (4, padTo 64 (leBytes 8 addr ++ leBytes 4 len ++ leBytes 4 0), .wreq p h addr len), (5, bs, .wdata p h bs),
   (6, [], .wack p h), (7, [], .nack p h), (8, bs, .redFrame p h bs), (9, bs, .gathFrame p h bs),
   (10, bs, .barFrame p h bs)]

/-- The port on which a frame to `dst` leaves by the tables, if that is one (R294). -/
def State.wayTo (s : State) (dst : BitVec 18) : Option Nat :=
  let o := (s.route dst).1.toNat
  if o ≤ 5 ∨ o = 7 then some o else none

/-- From `s` to `t` one block was sent on port `o`: frames of this type, destination and tag, at most 512 bytes each,
which carry these bytes in order (R302, R323). -/
def blockSent (s t : State) (o : Nat) (type : BitVec 4) (dst : BitVec 18) (tag : BitVec 13) (bs : List Byte) : Prop :=
  ∃ l, s.handed t o l ∧ l.flatMap OutFrame.payload = bs
    ∧ ∀ f ∈ l, f.type = type ∧ f.h.dst = dst ∧ f.h.tag = tag ∧ f.h.src = s.ownId ∧ f.payload.length ≤ 512

/-- The port on which a transaction at a T3 address leaves, if that is one (R298). -/
def State.apWay (s : State) (p : Nat) : Option Nat :=
  let e := s.aperture ((p - t3Base) / apSize)
  if fldN e 60 2 = 0 then (if s.isOwn (fld e 42 18) then none else s.wayTo (fld e 42 18))
  else if fldN e 60 2 = 1 then some 7 else some 6

/-! ## Collectives -/

/-- The collective words: command and opcode (R316), and what a word that is an instance does. -/
def collWords : List ((ArrayArgs → Instr) × BitVec 8) :=
  [(.cscal, 0xB0), (.crsc, 0xB1), (.cagr, 0xB2), (.car, 0xB3), (.cbcast, 0xB4), (.fbar, 0xC2)]

/-- The tile collectives: command, opcode, kind of instance (R317). -/
def tileWords : List ((ArrayArgs → Instr) × BitVec 8 × (ArrayArgs → InstKind)) :=
  [(.crsc, 0xB1, fun _ => .reduceScatter), (.cagr, 0xB2, fun _ => .gather),
   (.car, 0xB3, fun a => .allReduce (fldN a.a 16 4)), (.cbcast, 0xB4, fun a => .broadcast (fldN a.b 16 16))]

/-- A group of one member. -/
def Group.single (g : Group) : Prop := g.usable = true ∧ g.size 0 = 1 ∧ g.size 1 = 1 ∧ g.size 2 = 1

/-- A group of two members on dimension 0, each both neighbours of the other. -/
def Group.twoRing (g : Group) : Prop :=
  g.usable = true ∧ g.size 0 = 2 ∧ g.size 1 = 1 ∧ g.size 2 = 1 ∧ g.plus 0 = g.minus 0

/-- The operations of CSCAL on two values (R318), in integer arithmetic. -/
def scalarTable (op : Nat) (a b : Word) : Word :=
  if op = 1 then a ||| b else if op = 2 then a &&& b else if op = 3 then a ^^^ b
  else if op = 4 then BitVec.ofNat 64 (a.toNat + b.toNat)
  else if op = 5 then BitVec.ofNat 64 (max a.toNat b.toNat)
  else if op = 6 then BitVec.ofNat 64 (min a.toNat b.toNat)
  else if op = 7 then BitVec.ofInt 64 (max a.toInt b.toInt)
  else if op = 8 then BitVec.ofInt 64 (min a.toInt b.toInt)
  else if a = b then 0 else 1

/-- A frame that arrives on port `p` belongs to this started instance of a group entry (R323). -/
def State.framesFor (s : State) (p : Nat) (type : BitVec 4) (h : FrameHdr) (i : Inst) : Prop :=
  s.arrives p type h ∧ s.gidGroup h.tag = some i.grp ∧ s.frameInst i.grp h = some i ∧ i.started = true
  ∧ i.abandoned = false

/-- Elements as 32-bit little-endian integers, as a sum is stored (R268). -/
def sumBytes (l : List Int) : List Byte := l.flatMap (fun v => leBytes 4 (v % 4294967296).toNat)

/-! ## Twins -/

/-- The summary of the word with this enqueue number is `v`. -/
def State.summed (t : State) (seq : Nat) (v : Word) : Prop := ∀ d ∈ t.cnd.deliv, d.seq = seq → d.value = some v

/-- The payload of a control transfer with this KIND and data (R332). -/
def controlFrame (kind : Byte) (data : List Byte) : List Byte := padTo 512 ([kind, 0, 0, 0, 0, 0, 0, 0] ++ data)

/-- From `s` to `t` one control transfer was sent to the twin. -/
def toTwin (s t : State) (kind : Byte) (data : List Byte) : Prop :=
  ∃ h, s.handed t 6 [⟨11, h, controlFrame kind data⟩] ∧ h.dst = s.twn.twin ∧ h.last = true

/-- MIRR frames are taken and acted on: P6 is up, data frames flow, none is held before them, and no tag is awaited (R297,
R374). -/
def State.twinOpen (s : State) : Prop :=
  (s.port 6).isUp = true ∧ s.framesFlow = true ∧ s.held = [] ∧ s.isProtected 6 = false

/-- A transfer of `n` frames was taken on P6, and of the links only that shows. -/
def tookMirr (s t : State) (n : Nat) : Prop :=
  (t.port 6).rxSeq = (s.port 6).rxSeq + BitVec.ofNat 11 n ∧ (∀ p, p ≠ 6 → t.port p = s.port p)

/-- The range digest of consecutive 64-byte lines from `u` (R335): the XOR of the CRCs of the lines, each with its
address. -/
def linesDigest (u : Nat) : List (List Byte) → Word
  | [] => 0
  | l :: t => crc64 0 (leBytes 8 u ++ l) ^^^ linesDigest (u + 64) t

/-- A twin word with a list of ingots (R336): its command and opcode, what sets up its work on the banks, and what that
work does, with `s` the state at issue. -/
structure TwinList where
  cmd  : ArrayArgs → Instr
  opc  : BitVec 8
  run  : ArrayArgs → HubJob → QEnt → State → State
  kind : ArrayArgs → State → HubKind

/-- The twin words with a list of ingots. -/
def twinLists : List TwinList :=
  [⟨.tmirror, 0xD0, fun _ => mirrorRun, fun _ _ => .mirror⟩,
   ⟨.tpull, 0xD1, pullRun, fun a s => .pull (fldN a.a 8 8) (fldN s.twn.set.current 0 16) (fldN a.a 16 16)⟩,
   ⟨.tdigest, 0xD2, digestRun, fun a s => .digest (if bitAt a.flg 6 then fldN s.twn.set.current 0 16 else 0)⟩,
   ⟨.tverify, 0xD4, fun _ => verifyRun, fun _ s => .verify (fldN s.twn.set.current 0 16)⟩,
   ⟨.tsnap, 0xD7, snapRun, fun a s =>
      .snap (fldN (s.descWide (fldN a.a 0 16)) 0 48) (fldN (s.descWide (fldN a.a 0 16)) 64 63) (fldN a.a 0 16)⟩]

/-- The word issues now (R336). -/
def TwinList.goes (p : TwinList) (s : State) (a : ArrayArgs) (e : QEnt) : Prop :=
  s.goes p.opc a (twinListEffect p.opc a (p.run a)) e

/-- The twin words without a list: command, opcode, what a word that passes its checks does (R336). -/
def twinPlains : List ((ArrayArgs → Instr) × BitVec 8 × (ArrayArgs → QEnt → State → State)) :=
  [(.tdcmp, 0xD3, fun _ => dcmpRun), (.trdig, 0xD5, rdigRun), (.thold, 0xD6, holdRun), (.trecov, 0xD9, fun _ => recovRun)]

/-- The twin word without a list issues now. -/
def State.twinGoes (s : State) (opc : BitVec 8) (a : ArrayArgs) (run : QEnt → State → State) (e : QEnt) : Prop :=
  s.goes opc a (twinPlainEffect opc a run) e

/-- MIGRATE's effect at issue. -/
def migrateEffect (a : ArrayArgs) (e : QEnt) (s : State) : State :=
  match s.cast with
  | none => s
  | some c =>
    match migrateFlaw c a with
    | some f => s.refuse .tmv e f
    | none => s.migrate c e a

/-- The unit that a word with a reserved opcode goes to, by its class (R61, R98): the bank and update classes share one. -/
def reservedUnit (w : AWord) : Blk :=
  let o := (wOpc w).toNat
  if o < 0x60 then .ary else if o < 0x80 then .vec else if o < 0xA0 then .tmv
  else if o < 0xB0 then (if o = 0xA2 ∨ o = 0xA3 then .bnk else .upd) else if o < 0xC0 then .fol else .twn

/-- The array words of the units that read or write memory at issue: command, opcode, effect. -/
def readingWords : List ((ArrayArgs → Instr) × BitVec 8 × (ArrayArgs → QEnt → State → State)) :=
  matrixWords.map (fun p => (p.1, p.2.1, matEffect p.2.2)) ++ unitWords.map (fun p => (p.cmd, p.opc, p.effect))
  ++ [(.tcopy, 0x80, copyEffect), (.migrate, 0x81, migrateEffect), (.stepadm, 0x82, stepadmEffect),
      (.blaunch, 0xA0, blaunchEffect), (.bwait, 0xA1, bwaitEffect), (.gflush, 0xA4, gflushEffect),
      (.gdeposit, 0xA5, gdepositEffect), (.gharv, 0xA6, gharvEffect), (.stepabort, 0xA7, abortEffect)]
  ++ twinLists.map (fun p => (p.cmd, p.opc, fun a => twinListEffect p.opc a (p.run a)))
  ++ [(.trdig, 0xD5, fun a => twinPlainEffect 0xD5 a (rdigRun a)), (.thold, 0xD6, fun a => twinPlainEffect 0xD6 a (holdRun a)),
      (.tmark, 0xD8, tmarkEffect), (.trecov, 0xD9, fun a => twinPlainEffect 0xD9 a recovRun)]

/-- The array words of every class that has reserved opcodes: command and opcode. -/
def classWords : List ((ArrayArgs → Instr) × BitVec 8) :=
  readingWords.map (fun p => (p.1, p.2.1))
  ++ [(.cscal, 0xB0), (.crsc, 0xB1), (.cagr, 0xB2), (.car, 0xB3), (.cbcast, 0xB4), (.cwait, 0xB5), (.tdcmp, 0xD3)]

/-- The commands that bring frames of type MIRR, each with the number of its frames (R332). -/
def mirrFrames (tag : BitVec 13) (m : MirrorImage) (st : BitVec 16) (own mir : Word) (l : List (Word × Word)) :
    List (Instr × Nat) :=
  [(.solderTransfer, 1), (.unsolderTransfer, 1), (.mirrorImage tag m, 37), (.mirrorAck tag st, 1),
   (.digestTransfer own mir, 1), (.verifyTransfer l, 1)]

/-- The hub word at work on banks is `w`, its one task is `k` with the ingots `left`, and nothing keeps the work waiting:
the memory controllers run, no uncorrectable error awaits its stop, no reads of a TPULL are under way (R336, R227, R230). -/
def State.works (s : State) (w : HubWork) (k : BankTask) (left : List (Nat × Nat)) : Prop :=
  s.pending = [] ∧ s.held = [] ∧ s.bnk.work = some w ∧ w.tasks = [k] ∧ k.started = true ∧ k.left = left
  ∧ s.mdv.uncorr = none ∧ s.stopped .mdv = false ∧ s.pulling w.ent.seq k.bank = false

/-- The word with this enqueue number waits for nothing more. -/
def State.freed (t : State) (seq : Nat) : Prop := ∀ w ∈ t.sheet.issued, w.seq = seq → w.hold = .none

/-! ## Resets and power states -/

/-- Some bank holds an image of type `t` that passes (R376). -/
def State.boots (s : State) (t : Nat) : Prop := ∃ b, (s.imageIn b t).1 = .passes

/-- A warm reset took `s` to `t` (R384, R390, R394): T2, repairs, temperatures, the beat count, fuses, flash and what the
Assay unit runs are kept, all else reads its reset value, and the event is recorded. -/
def warmKept (s t : State) (last : BitVec 4) : Prop :=
  t.flash = s.flash ∧ t.pending = s.pending ∧ t.cast = none ∧ t.staged = none ∧ t.headers = []
  ∧ (∀ p, isT2 p = true → t.byte p = s.byte p) ∧ (∀ p, isT2 p = false → p < t3Base + 256 * apSize → t.byte p = 0)
  ∧ t.bea = { s.bea with loadPend := none, late := 0 } ∧ t.cnd = Cnd.atReset ∧ t.sheet = Sheet.atReset
  ∧ t.tmv = Tmv.atReset ∧ t.tir = Tir.atReset ∧ t.bnk = Bnk.atReset ∧ t.upd = Upd.atReset ∧ t.vec = Vec.atReset
  ∧ t.fol = Fol.atReset ∧ t.twn = Twn.atReset ∧ t.tim = Tim.atReset ∧ t.mask = Vector.replicate 23 0
  ∧ t.sec = { Sec.atReset with
      fails := s.sec.fails, lockout := s.sec.lockout, opens := s.sec.opens, alt := s.sec.alt, run := s.sec.run }
  ∧ { t.mdv with trained := 0 } = { Mdv.atReset with
      hot := s.mdv.hot, temp := s.mdv.temp, repairs := s.mdv.repairs, diff := s.mdv.diff, unsealed := s.mdv.unsealed
      lost := s.mdv.lost }
  ∧ t.pwr.energy = s.pwr.energy ∧ t.pwr.thrAcc = s.pwr.thrAcc ∧ t.lnk.set.current.prot = s.lnk.set.current.prot
  ∧ t.rst.last = last ∧ t.rst.warms = s.rst.warms + 1 ∧ t.rst.reverted = s.rst.reverted ||| 0x5FE
  ∧ bitAt (t.causeOf .rst) 1 = true ∧ t.rst.arrayPend = false ∧ t.rst.arrayBusy = false
  ∧ (∀ b ∈ [Blk.sys, .bea, .cnd, .ary, .crw, .vec, .tmv, .bnk, .upd, .fol, .twn], t.causeOf b = 0)

/-- The sequence that a reset ran reached READY with every unit trained (R393). -/
def readyAfter (t : State) (pu : PowerUp) : Prop :=
  t.sys.ready = true ∧ t.sys.fail = false ∧ t.sys.ps = 0 ∧ t.mgt.phase = 10 ∧ (t.port 7).state = 4
  ∧ (t.port 7).delay = pu.p7Delay ∧ (t.port 7).neigh = pu.p7Neigh
  ∧ t.fnState .lnk = .run ∧ t.fnState .mdv = .run ∧ (t.port 6).state = 2
  ∧ (∀ b ∈ [FnBlock.cnd, .ary, .tmv, .fol, .twn, .pwr], t.fnState b = .stopped)
  ∧ (∀ p, p < 6 → (t.port p).looped = bitAt pu.loops (p / 2)
      ∧ (t.port p).state = if bitAt pu.loops (p / 2) then 1 else 0)
  ∧ t.rst.active = t.flash.fence ∧ t.pwr.clock = 25 * min t.pwr.fstep.toNat t.minFmax

/-- The main rails went off between `s` and `t` (R389, R390): memory and the array are lost, and what fuses, flash, the
standby log and the management controller hold is kept. -/
def railsLost (s t : State) : Prop :=
  t.sys.ps = 4 ∧ t.sys.entering = none ∧ t.mem = [] ∧ t.headers = [] ∧ t.cast = none ∧ t.cnd = Cnd.atReset
  ∧ t.sec = Sec.atReset ∧ t.fn = FnRegs.atReset ∧ t.lnk.trans = [] ∧ (∀ p, (t.port p).state = 0)
  ∧ t.pending = s.pending ∧ t.flash.keys = s.flash.keys ∧ t.flash.fuse = s.flash.fuse ∧ t.flash.patina = s.flash.patina
  ∧ t.flash.images = s.flash.images ∧ t.flash.fence = s.flash.fence ∧ t.flash.hard = s.flash.hard ∧ t.mgt = s.mgt

/-- The record of a power event in MGT_LOG: kind, sensor, hours (R406). -/
def logWord (kind sensor : Nat) (hours : BitVec 24) : Word := putAt 56 8 kind ||| putAt 48 8 sensor ||| putAt 0 32 hours.toNat

/-! ## The whole machine -/

/-- A row of the register index (R409): the first and the last offset, the step between offsets, the Reset value. -/
structure ResetRow where
  first : Nat
  last  : Nat
  step  : Nat
  value : Nat

/-- Rows of the Reset column, SYS to CRW. -/
def resetRows0 : List ResetRow :=
    [⟨0x10, 0x10, 8, 0x0⟩, ⟨0x18, 0x18, 8, 0x0⟩, ⟨0x20, 0x20, 8, 0x0⟩] ++
    [⟨0x10000, 0x10000, 8, 0x594E192000010000⟩, ⟨0x10008, 0x10008, 8, 0x18⟩, ⟨0x10010, 0x10010, 8, 0x24⟩,
     ⟨0x10018, 0x10018, 8, 0x8⟩, ⟨0x10020, 0x10020, 8, 0x360⟩, ⟨0x10028, 0x10028, 8, 0x36000000⟩,
     ⟨0x10030, 0x10030, 8, 0xC000000⟩, ⟨0x10038, 0x10038, 8, 0x1E000000000⟩,
     ⟨0x10040, 0x10040, 8, 0x100000000000⟩, ⟨0x10048, 0x10048, 8, 0x18⟩, ⟨0x10050, 0x10050, 8, 0x3C00⟩,
     ⟨0x10058, 0x10058, 8, 0xA0⟩, ⟨0x10060, 0x10060, 8, 0x100⟩, ⟨0x10068, 0x10068, 8, 0x10000⟩,
     ⟨0x10070, 0x10070, 8, 0x6⟩, ⟨0x10078, 0x10078, 8, 0x8⟩, ⟨0x10080, 0x10080, 8, 0x10⟩,
     ⟨0x10088, 0x10088, 8, 0x4⟩] ++
    [⟨0x20000, 0x20000, 8, 0x27100001⟩, ⟨0x20008, 0x20008, 8, 0x4⟩, ⟨0x20010, 0x20010, 8, 0x0⟩,
     ⟨0x20018, 0x20018, 8, 0x0⟩, ⟨0x20020, 0x20020, 8, 0x0⟩, ⟨0x20028, 0x20028, 8, 0x0⟩,
     ⟨0x20030, 0x20030, 8, 0xF424008⟩, ⟨0x20038, 0x20038, 8, 0x0⟩] ++
    [⟨0x30000, 0x30000, 8, 0x0⟩, ⟨0x30008, 0x30008, 8, 0x0⟩, ⟨0x30010, 0x30030, 8, 0x0⟩,
     ⟨0x30040, 0x30040, 8, 0xFFFF⟩, ⟨0x30048, 0x30050, 8, 0x0⟩, ⟨0x30058, 0x30070, 8, 0x0⟩,
     ⟨0x30078, 0x30078, 8, 0x0⟩, ⟨0x30100, 0x30178, 8, 0x0⟩, ⟨0x30208, 0x302F8, 8, 0x0⟩] ++
    [⟨0x40000, 0x40000, 8, 0x81⟩, ⟨0x40008, 0x40008, 8, 0x10000⟩, ⟨0x40010, 0x40010, 8, 0x0⟩,
     ⟨0x40018, 0x40028, 8, 0x0⟩, ⟨0x40030, 0x40030, 8, 0x3FF00000000⟩, ⟨0x40038, 0x40038, 8, 0x0⟩] ++
    [⟨0x50000, 0x50008, 8, 0x0⟩, ⟨0x50010, 0x50010, 8, 0x0⟩, ⟨0x50018, 0x50018, 8, 0x0⟩,
     ⟨0x50020, 0x50020, 8, 0x0⟩]

/-- Rows of the Reset column, FMT to BNK. -/
def resetRows1 : List ResetRow :=
    [⟨0x60000, 0x60000, 8, 0x0⟩, ⟨0x60008, 0x60008, 8, 0x0⟩, ⟨0x60800, 0x60FF8, 8, 0x0⟩] ++
    [⟨0x70000, 0x70000, 8, 0x10000000⟩, ⟨0x70008, 0x70010, 8, 0x0⟩, ⟨0x70018, 0x70018, 8, 0x3FF00000000⟩,
     ⟨0x70020, 0x70020, 8, 0x0⟩, ⟨0x70028, 0x70028, 8, 0x0⟩, ⟨0x74000, 0x77FF8, 8, 0x0⟩] ++
    [⟨0x80000, 0x80000, 8, 0x20⟩, ⟨0x80008, 0x80008, 8, 0x0⟩, ⟨0x80010, 0x80010, 8, 0x0⟩,
     ⟨0x80018, 0x80018, 8, 0x0⟩, ⟨0x80020, 0x80020, 8, 0x0⟩, ⟨0x80028, 0x80038, 8, 0x0⟩, ⟨0x80040, 0x80040, 8, 0x3FF00000000⟩,
     ⟨0x80048, 0x80048, 8, 0x0⟩] ++
    [⟨0x90000, 0x90000, 8, 0x144000001440⟩, ⟨0x90008, 0x90008, 8, 0xBE000000BE0⟩,
     ⟨0x90010, 0x90010, 8, 0x1E0000001E00000⟩, ⟨0x90018, 0x90018, 8, 0x0⟩, ⟨0x90020, 0x90050, 8, 0x0⟩,
     ⟨0x90058, 0x90058, 8, 0x0⟩, ⟨0x90060, 0x90070, 8, 0x0⟩, ⟨0x90400, 0x905F8, 8, 0x0⟩] ++
    [⟨0xA0000, 0xA0000, 8, 0x180013C0⟩, ⟨0xA0008, 0xA0008, 8, 0x0⟩, ⟨0xA0010, 0xA0010, 8, 0x0⟩,
     ⟨0xA0018, 0xA0028, 8, 0x0⟩, ⟨0xA0030, 0xA0048, 8, 0x0⟩, ⟨0xA0050, 0xA0050, 8, 0x0⟩,
     ⟨0xA0058, 0xA0058, 8, 0x0⟩,
     ⟨0xA0060, 0xA0060, 8, 0x0⟩, ⟨0xA0068, 0xA0068, 8, 0x0⟩, ⟨0xA0070, 0xA0070, 8, 0x40⟩,
     ⟨0xA0078, 0xA0078, 8, 0x0⟩, ⟨0xA0100, 0xA01B8, 8, 0x0⟩] ++
    [⟨0xB0000, 0xB0000, 8, 0x40000000000⟩, ⟨0xB0008, 0xB0008, 8, 0x0⟩, ⟨0xB0010, 0xB0020, 8, 0x0⟩,
     ⟨0xB0028, 0xB0030, 8, 0x0⟩]

/-- Rows of the Reset column, UPD to PWR. -/
def resetRows2 : List ResetRow :=
    [⟨0xC0000, 0xC0018, 8, 0x0⟩, ⟨0xC0020, 0xC0020, 8, 0x0⟩, ⟨0xC0028, 0xC0028, 8, 0x3FF00000000⟩,
     ⟨0xC0030, 0xC0030, 8, 0x0⟩] ++
    [⟨0xD0000, 0xD0000, 8, 0x800000000000⟩, ⟨0xD0008, 0xD0008, 8, 0x25800000F42401F⟩,
     ⟨0xD0010, 0xD0010, 8, 0x0⟩, ⟨0xD0018, 0xD0020, 8, 0x0⟩, ⟨0xD0028, 0xD0030, 8, 0x0⟩,
     ⟨0xD0100, 0xD0138, 8, 0x0⟩, ⟨0xD0140, 0xD0178, 8, 0x0⟩, ⟨0xD0200, 0xD0218, 8, 0xFFFFFFFFFFFFFFFF⟩,
     ⟨0xD0300, 0xD0338, 8, 0x0⟩, ⟨0xD0800, 0xD08F8, 8, 0x0⟩, ⟨0xD0900, 0xD0FF8, 8, 0x0⟩,
     ⟨0xD1000, 0xD1FF8, 8, 0xF0F0F0F0F0F0F0F⟩] ++
    [⟨0xE0000, 0xE0000, 8, 0x0⟩, ⟨0xE0008, 0xE0020, 8, 0x0⟩, ⟨0xE0028, 0xE0028, 8, 0x3FF00000000⟩,
     ⟨0xE0030, 0xE0030, 8, 0x0⟩, ⟨0xE1000, 0xE17F8, 8, 0x0⟩] ++
    [⟨0xF0000, 0xF0000, 8, 0x0⟩, ⟨0xF0008, 0xF0008, 8, 0x5A0⟩, ⟨0xF0010, 0xF0010, 8, 0x0⟩,
     ⟨0xF0018, 0xF0018, 8, 0x0⟩, ⟨0xF0020, 0xF0020, 8, 0x0⟩, ⟨0xF0028, 0xF0030, 8, 0x0⟩,
     ⟨0xF0038, 0xF0058, 8, 0x0⟩, ⟨0xF0060, 0xF0068, 8, 0x0⟩, ⟨0xF0070, 0xF0078, 8, 0x0⟩,
     ⟨0xF0080, 0xF0090, 8, 0x0⟩] ++
    [⟨0x100000, 0x100000, 8, 0x0⟩, ⟨0x100008, 0x100008, 8, 0x0⟩, ⟨0x100100, 0x100178, 8, 0x0⟩,
     ⟨0x102000, 0x103FF8, 8, 0x0⟩] ++
    [⟨0x110000, 0x110000, 8, 0xC8⟩, ⟨0x110008, 0x110008, 8, 0x9600040C800⟩, ⟨0x110010, 0x110010, 8, 0x60⟩,
     ⟨0x110018, 0x110018, 8, 0x0⟩, ⟨0x110020, 0x110038, 8, 0x0⟩, ⟨0x110040, 0x110040, 8, 0x32200960⟩,
     ⟨0x110048, 0x110048, 8, 0x8000000400F000F0⟩, ⟨0x110050, 0x110050, 8, 0x1404⟩,
     ⟨0x110058, 0x110058, 8, 0x0⟩, ⟨0x110060, 0x110060, 8, 0x0⟩, ⟨0x110078, 0x110078, 8, 0x0⟩,
     ⟨0x110080, 0x1100B8, 8, 0xC8⟩, ⟨0x110100, 0x110160, 16, 0x0⟩, ⟨0x110108, 0x110168, 16, 0x0⟩]

/-- Rows of the Reset column, SEC to MGT. -/
def resetRows3 : List ResetRow :=
    [⟨0x120000, 0x120008, 8, 0x0⟩, ⟨0x120010, 0x120010, 8, 0x0⟩, ⟨0x120018, 0x120018, 8, 0x7F⟩,
     ⟨0x120028, 0x120028, 8, 0x0⟩, ⟨0x120030, 0x120030, 8, 0x0⟩, ⟨0x120038, 0x120058, 8, 0x0⟩] ++
    [⟨0x130000, 0x130000, 8, 0x0⟩, ⟨0x130008, 0x130008, 8, 0x0⟩, ⟨0x130010, 0x130010, 8, 0x1⟩, ⟨0x130018, 0x130018, 8, 0x0⟩] ++
    [⟨0x140000, 0x140000, 8, 0x1⟩, ⟨0x140008, 0x140008, 8, 0x7FF⟩, ⟨0x140010, 0x140010, 8, 0x0⟩] ++
    [⟨0x150008, 0x150008, 8, 0x0⟩, ⟨0x150010, 0x150018, 8, 0x0⟩, ⟨0x150100, 0x1504F8, 8, 0x0⟩] ++
    [⟨0x160000, 0x160000, 8, 0x0⟩, ⟨0x160010, 0x160010, 8, 0x0⟩, ⟨0x160018, 0x160018, 8, 0x0⟩,
     ⟨0x160020, 0x160020, 8, 0x0⟩]

/-- The Reset column of the register index, with the Size Table of an unfenced module (R3, R17, R409). The registers
whose value comes from fuses, flash or the log are not listed. -/
def resetColumn : List ResetRow := resetRows0 ++ resetRows1 ++ resetRows2 ++ resetRows3

/-- What every state that the machine can be in keeps: memory and the tile headers in canonical form, at
most four open loops (R65), queues within their depths (R69), answers to the host kept back only behind one still
awaited (R368), at most one quarter fenced or to be fenced (R20, R399). -/
structure State.Inv (s : State) : Prop where
  mem     : Memory.wf s.mem = true
  headers : smWf 0 s.headers = true
  loops   : s.cnd.loops.length ≤ 4
  queueF  : s.sheet.qF.length ≤ 128
  queueB  : s.sheet.qB.length ≤ 128
  queueH  : s.sheet.qH.length ≤ 64
  answers : s.answersWait
  fence   : ∀ i j, i < 4 → j < 4 → bitAt (s.rst.active ||| s.flash.fence) i = true →
    bitAt (s.rst.active ||| s.flash.fence) j = true → i = j

end Sys2Proof.Machine
end

