-- ==== Sys2Proof/Certificates/Slice0/Obligations.lean ====
section
/-! DEFINITION. The statements for the provers. Each docstring names the rules of spec/ it rests on. -/

open Sys2Proof Sys2Proof.Machine

/-! ## The Conductor -/

/-- R63: the register instructions of the Conductor. At such an instruction the Conductor writes g[rd] by the table,
goes on to the next instruction, and changes nothing else; g0 stays zero (R58). -/
def Obligations.ConductorRegisterInstructions : Prop :=
  ∀ (s : State) (body : Body),
    let rd := iRd body
    let a := s.g (iRs1 body)
    let imm := iImm body
    let h := 16 * fldN body 16 2
    (∀ v, s.atWord (cword 0x01 body) → aluTable (iFn body).toNat a (s.g (iRs2 body)) = some v →
      ∃ t, exec (.alu body) s = .next t ∧ regStep s t rd v)
    ∧ (s.atWord (cword 0x02 body) →
      ∃ t, exec (.addi body) s = .next t ∧ regStep s t rd (BitVec.ofInt 64 (a.toInt + imm.toInt)))
    ∧ (s.atWord (cword 0x03 body) →
      ∃ t, exec (.andi body) s = .next t ∧ regStep s t rd (a &&& BitVec.ofNat 64 imm.toNat))
    ∧ (s.atWord (cword 0x04 body) →
      ∃ t, exec (.ori body) s = .next t ∧ regStep s t rd (a ||| BitVec.ofNat 64 imm.toNat))
    ∧ (s.atWord (cword 0x05 body) →
      ∃ t, exec (.xori body) s = .next t ∧ regStep s t rd (a ^^^ BitVec.ofNat 64 imm.toNat))
    ∧ (s.atWord (cword 0x06 body) → fldN body 6 8 = 0 → fld body 14 2 = 0 →
      ∃ t, exec (.shi body) s = .next t ∧ regStep s t rd (BitVec.ofNat 64 (a.toNat * 2 ^ fldN body 0 6)))
    ∧ (s.atWord (cword 0x06 body) → fldN body 6 8 = 0 → fld body 14 2 = 1 →
      ∃ t, exec (.shi body) s = .next t ∧ regStep s t rd (BitVec.ofNat 64 (a.toNat / 2 ^ fldN body 0 6)))
    ∧ (s.atWord (cword 0x06 body) → fldN body 6 8 = 0 → fld body 14 2 = 2 →
      ∃ t, exec (.shi body) s = .next t ∧ regStep s t rd (BitVec.ofInt 64 (a.toInt / 2 ^ fldN body 0 6)))
    ∧ (s.atWord (cword 0x07 body) →
      ∃ t, exec (.slti body) s = .next t ∧ regStep s t rd (if a.toInt < imm.toInt then 1 else 0))
    ∧ (s.atWord (cword 0x08 body) → fldN body 18 3 = 0 →
      ∃ t, exec (.movz body) s = .next t ∧ regStep s t rd (BitVec.ofNat 64 (imm.toNat * 2 ^ h)))
    ∧ (s.atWord (cword 0x09 body) → fldN body 18 3 = 0 →
      ∃ t v, exec (.movk body) s = .next t ∧ regStep s t rd v
        ∧ ∀ i, i < 64 → v.getLsbD i = if h ≤ i ∧ i < h + 16 then imm.getLsbD (i - h) else (s.g rd).getLsbD i)

/-- R59, R60, R63: the instructions that read a special register, and those that read or write summary registers. A
summary instruction acts only while no delivery to its registers is pending; until then it stalls, and changes nothing
but its wait. -/
def Obligations.ConductorSpecialAndSummaryRegisters : Prop :=
  ∀ (s : State) (body : Body),
    let rd := iRd body
    let n : BitVec 4 := fld body 0 4
    let one : BitVec 16 := 1 <<< n.toNat
    let special (k : Nat) (v : Word) : Prop := s.atWord (cword 0x0D body) → fldN body 0 6 = k → iRs1 body = 0 →
      fldN body 6 10 = 0 → ∃ t, exec (.rdsp body) s = .next t ∧ regStep s t rd v
    (special 0 s.cnd.step ∧ special 1 s.cnd.run ∧ special 2 (s.cnd.mould.setWidth 64) ∧ special 3 s.cnd.mentry
      ∧ (∀ c, s.cast = some c → special 4 c.seed) ∧ special 5 s.bea.count ∧ special 6 (s.cnd.part.setWidth 64)
      ∧ (∀ c, s.cast = some c → special 7 (BitVec.ofNat 64 c.base)))
    ∧ (s.atWord (cword 0x0C body) → iRs1 body = 0 → fldN body 4 12 = 0 → s.pendingSm n = 0 →
      ∃ t, exec (.rdsm body) s = .next t ∧ regStep s t rd (s.smAt n))
    ∧ (s.atWord (cword 0x0E body) → rd = 0 → fldN body 4 12 = 0 → s.pendingSm n = 0 →
      ∃ t, exec (.smw body) s = .next t ∧ t.smAt n = s.g (iRs1 body) ∧ smStep s t one)
    ∧ (s.atWord (cword 0x0F body) → rd = 0 → iRs1 body = 0 →
      (∀ m : BitVec 4, bitAt (iImm body) m.toNat = true → s.pendingSm m = 0) →
      ∃ t, exec (.smclr body) s = .next t ∧ (∀ m : BitVec 4, bitAt (iImm body) m.toNat = true → t.smAt m = 0)
        ∧ smStep s t (iImm body))
    ∧ (s.atWord (cword 0x0C body) → iRs1 body = 0 → fldN body 4 12 = 0 → s.pendingSm n ≠ 0 →
      exec (.rdsm body) s = .next { s with cnd := { s.cnd with wait := .summary one } })
    ∧ (s.atWord (cword 0x0E body) → rd = 0 → fldN body 4 12 = 0 → s.pendingSm n ≠ 0 →
      exec (.smw body) s = .next { s with cnd := { s.cnd with wait := .summary one } })
    ∧ (s.atWord (cword 0x0F body) → rd = 0 → iRs1 body = 0 →
      (∃ m : BitVec 4, bitAt (iImm body) m.toNat = true ∧ s.pendingSm m ≠ 0) →
      exec (.smclr body) s = .next { s with cnd := { s.cnd with wait := .summary (iImm body) } })

/-- R64: loads and stores. A load whose address is a multiple of 8, and mapped waits for its data; the return
writes the word at the address, least significant byte first. A store writes the eight bytes of g[rd]; one through a twin
aperture under ALONE is discarded (R337). Any other address raises ADDR with code 0x07 and nothing else happens. An access to
a page in move waits (R188), and a store to T3 until the line that it changes has been read (log entry 120). -/
def Obligations.ConductorLoadsAndStores : Prop :=
  ∀ (s : State) (body : Body) (w : BitVec 32),
    let u := (s.g (iRs1 body) + (iImm body).signExtend 64).toNat
    (∀ p, w = cword 0x0A body → s.atWord w → u % 8 = 0 → s.behindTwin u = false → (s.translRun u 8).isSome = true →
      s.transl u = some p → s.meetsMove u 8 = false →
      ∃ t, exec (.ld body) s = .next t ∧ t.cnd = { s.cnd with wait := .load (iRd body) u } ∧ t.mem = s.mem
        ∧ t.sheet = s.sheet ∧ (isT3 p = false → t = { s with cnd := t.cnd })
        ∧ (isT3 p = true → s.asked t false (p / 64 * 64) 64 .conductor))
    ∧ (∀ rd v, s.cnd.wait = .load rd v → s.running .cnd = true → s.loadPending = false → s.meetsMove v 8 = false →
      ∃ t, exec .ldDataReturn s = .next t ∧ t.cnd.wait = .none ∧ t.mem = s.mem
        ∧ (∀ bs, s.readU v 8 = some bs → rd ≠ 0 → t.g rd = BitVec.ofNat 64 (leNat bs)) ∧ t.g 0 = 0
        ∧ (∀ r, r ≠ rd → t.g r = s.g r) ∧ t.cnd.sm = s.cnd.sm ∧ t.sheet = s.sheet)
    ∧ (∀ ps, w = cword 0x0B body → s.atWord w → u % 8 = 0 → s.slotOpen u 8 ps → s.meetsMove u 8 = false →
      s.refusedTo conductorKey (partLines ps) = false → s.missing conductorKey (partLines ps) = [] → s.mdv.uncorr = none →
      ∃ t, exec (.st body) s = .next t ∧ wentOn s t ∧ t.cnd.g = s.cnd.g ∧ t.cnd.sm = s.cnd.sm
        ∧ t.bytesAt ps = leBytes 8 (s.g (iRd body)).toNat ∧ (∀ p, p ∉ ps → t.byte p = s.byte p)
        ∧ t.sheet = s.sheet ∧ t.headers = s.headers
        ∧ ((∀ p ∈ ps, isT3 p = false) → t.cause = s.cause ∧ t.lnk.trans = s.lnk.trans ∧ t.lnk.ports = s.lnk.ports)
        ∧ (∀ a, ps.head? = some a → isT3 a = true → s.asked t true (a / 64 * 64) 64 .conductor))
    ∧ (∀ ds, w = cword 0x0B body → s.atWord w → u % 8 = 0 → s.meetsMove u 8 = false → s.writeRun u 8 = some ds →
      (∀ d ∈ ds, d = none) → s.readOnlyPage (u / 0x10000) = false →
      ∃ t, exec (.st body) s = .next t ∧ wentOn s t ∧ t.cnd.g = s.cnd.g ∧ t.sheet = s.sheet ∧ t.headers = s.headers
        ∧ (s.mdv.uncorr = none → t.mem = s.mem) ∧ hi32 t.twn.refused = min (hi32 s.twn.refused + 1) 0xFFFFFFFF)
    ∧ (w = cword 0x0B body → s.atWord w → u % 8 = 0 → s.refusedTo conductorKey (s.storeLines u) = false →
      s.meetsMove u 8 = false → s.missing conductorKey (s.storeLines u) ≠ [] →
      exec (.st body) s = .next (s.fetch conductorKey (s.missing conductorKey (s.storeLines u))))
    ∧ (w = cword 0x0A body → s.atWord w → s.meetsMove u 8 = true → exec (.ld body) s = .next s)
    ∧ (w = cword 0x0B body → s.atWord w → u % 8 = 0 → s.refusedTo conductorKey (s.storeLines u) = false →
      s.meetsMove u 8 = true → exec (.st body) s = .next s)
    ∧ (w = cword 0x0A body → s.atWord w → s.meetsMove u 8 = false →
      (u % 8 ≠ 0 ∨ s.translRun u 8 = none ∨ s.behindTwin u = true) →
      ∃ t, exec (.ld body) s = .next t ∧ exceptionStep s t 0x07 w 0)
    ∧ (w = cword 0x0B body → s.atWord w →
      (u % 8 ≠ 0 ∨ s.refusedTo conductorKey (s.storeLines u) = true ∨ s.meetsMove u 8 = false ∧ s.writeRun u 8 = none) →
      ∃ t, exec (.st body) s = .next t ∧ exceptionStep s t 0x07 w 0)

/-- R65, R66: the forward branch and the counted loop. That only the innermost loop is asked where execution reaches the
end of a body (`reaches`) is the model's choice (log entry 106). -/
def Obligations.ConductorBranchesAndLoops : Prop :=
  ∀ (s : State) (body : Body),
    let pc := s.cnd.pc.toNat
    let a := s.g (fld body 21 5)
    let b := s.g (fld body 16 5)
    let tgt := pc + 1 + fldN body 0 13
    let count := fldN body 14 12
    let len := fldN body 0 14
    let w := cword 0x10 body
    let l := cword 0x11 body
    (∀ p, s.atWord w → brfTable (fldN body 13 3) a b = some p →
      (¬ p → ∃ t, exec (.brf body) s = .next t ∧ passStep s t)
      ∧ (p → s.cnd.loops = [] → tgt < s.ccodeCount → ∃ t, exec (.brf body) s = .next t ∧ jumpStep s t tgt [])
      ∧ (p → s.cnd.loops = [] → s.ccodeCount ≤ tgt →
        ∃ t, exec (.brf body) s = .next t ∧ exceptionStep s t 0x08 w 0)
      ∧ (∀ f rest, p → s.cnd.loops = f :: rest →
        (tgt < f.stop → tgt < s.ccodeCount →
          ∃ t, exec (.brf body) s = .next t ∧ jumpStep s t tgt s.cnd.loops)
        ∧ (tgt = f.stop → ∃ t n l, exec (.brf body) s = .next t ∧ reaches s.cnd.loops tgt n l ∧ jumpStep s t n l)
        ∧ (tgt ≠ f.stop → s.ccodeCount ≤ tgt → ∃ t, exec (.brf body) s = .next t ∧ exceptionStep s t 0x08 w 0)
        ∧ (f.stop < tgt → tgt < s.ccodeCount →
          ∃ t, exec (.brf body) s = .next t ∧ exceptionStep s t 0x09 w 0)))
    ∧ (s.atWord w → fldN body 13 3 = 7 → ∃ t, exec (.brf body) s = .next t ∧ exceptionStep s t 0x0B w 0)
    ∧ (s.atWord l → len = 0 → ∃ t, exec (.loop body) s = .next t ∧ passStep s t)
    ∧ (s.atWord l → len ≠ 0 → s.ccodeCount < pc + 1 + len →
      ∃ t, exec (.loop body) s = .next t ∧ exceptionStep s t 0x08 l 0)
    ∧ (s.atWord l → len ≠ 0 → pc + 1 + len ≤ s.ccodeCount → count = 0 →
      ∃ t n m, exec (.loop body) s = .next t ∧ reaches s.cnd.loops (pc + 1 + len) n m ∧ jumpStep s t n m)
    ∧ (s.atWord l → len ≠ 0 → pc + 1 + len ≤ s.ccodeCount → count ≠ 0 → s.cnd.loops.length < 4 →
      ∃ t, exec (.loop body) s = .next t ∧ jumpStep s t (pc + 1) (⟨pc + 1, pc + 1 + len, count⟩ :: s.cnd.loops))
    ∧ (s.atWord l → len ≠ 0 → pc + 1 + len ≤ s.ccodeCount → count ≠ 0 → 4 ≤ s.cnd.loops.length →
      ∃ t, exec (.loop body) s = .next t ∧ exceptionStep s t 0x09 l 0)

/-- R70: the waits of the Conductor. -/
def Obligations.ConductorWaits : Prop :=
  ∀ (s : State) (body : Body),
    let till := s.cnd.run + s.g (iRs1 body)
    let mask : BitVec 3 := fld body 23 3
    let level := fldN body 0 8
    let met (s : State) (mask : BitVec 3) (done : Bool) (level : Nat) : Prop :=
      (∀ i, i < 3 → bitAt mask i = true → (s.sheet.queue i).length ≤ level)
      ∧ (done = true → ∀ w ∈ s.sheet.issued, w.secs &&& mask = 0)
    (s.atWord (cword 0x12 body) → body = 0 → ∃ t, exec (.waitb body) s = .next t ∧ passStep s t)
    ∧ (s.atWord (cword 0x12 body) → body ≠ 0 → exec (.waitb body) s =
      .next { s with cnd := { s.cnd with wait := .waitB (s.bea.count + BitVec.ofNat 64 body.toNat) } })
    ∧ (∀ u, s.cnd.wait = .waitB u → s.running .cnd = true →
      (u.toNat ≤ s.bea.count.toNat → ∃ t, exec .waitbExpire s = .next t ∧ passStep s t)
      ∧ (s.bea.count.toNat < u.toNat → exec .waitbExpire s = .next s))
    ∧ (s.atWord (cword 0x13 body) →
      (s.bea.count.toNat < till.toNat →
        exec (.waita body) s = .next { s with cnd := { s.cnd with wait := .waitA till } })
      ∧ (till = s.bea.count → ∃ t, exec (.waita body) s = .next t ∧ passStep s t)
      ∧ (till.toNat < s.bea.count.toNat → ∃ t, exec (.waita body) s = .next t ∧ wentOn s t
        ∧ t.causeOf .cnd = s.causeOf .cnd ||| 8 ∧ t.cnd.g = s.cnd.g ∧ t.sheet = s.sheet ∧ t.mem = s.mem))
    ∧ (∀ u, s.cnd.wait = .waitA u → s.running .cnd = true →
      (u = s.bea.count → ∃ t, exec .waitaExpire s = .next t ∧ passStep s t)
      ∧ (u.toNat < s.bea.count.toNat → ∃ t, exec .waitaExpire s = .next t ∧ wentOn s t
        ∧ t.causeOf .cnd = s.causeOf .cnd ||| 8 ∧ t.cnd.g = s.cnd.g ∧ t.sheet = s.sheet ∧ t.mem = s.mem)
      ∧ (s.bea.count.toNat < u.toNat → exec .waitaExpire s = .next s))
    ∧ (s.atWord (cword 0x14 body) → fldN body 8 14 = 0 →
      (met s mask (bitAt body 22) level → ∃ t, exec (.waitq body) s = .next t ∧ passStep s t)
      ∧ (¬ met s mask (bitAt body 22) level → exec (.waitq body) s =
        .next { s with cnd := { s.cnd with wait := .waitQ mask (bitAt body 22) level } }))
    ∧ (∀ m d l, s.cnd.wait = .waitQ m d l → s.running .cnd = true →
      (met s m d l → ∃ t, exec .waitqMet s = .next t ∧ passStep s t)
      ∧ (¬ met s m d l → exec .waitqMet s = .next s))

/-- R67 to R69: enqueueing from AWORDS and from registers, and the resumption of a stalled enqueue. -/
def Obligations.ConductorEnqueues : Prop :=
  ∀ (s : State) (body : Body) (c : CastImg), s.cast = some c →
    let i := (s.g (iRs1 body) + BitVec.ofNat 64 (iImm body).toNat).toNat
    let w := s.awordAt c i
    let one (x : Instr) (instr : BitVec 32) (w : AWord) : Prop :=
      (s.acceptsAfter 0 w → ∃ t, exec x s = .next t ∧ enqueueStep s t w ∧ wentOn s t)
      ∧ (∀ k, enqueueCheck s.cnd.part w = some k → ∃ t, exec x s = .next t ∧ exceptionStep s t k instr w)
      ∧ (s.stallsOn w → exec x s = .next { s with cnd := { s.cnd with wait := .enqOne w } })
    let run (x : Instr) (instr : BitVec 32) (first n : Nat) : Prop :=
      let at_ (k : Nat) := (first + k) % 2 ^ 64
      ∀ k, k ≤ n → (∀ i, i < k → at_ i < c.awords.count ∧ s.acceptsAfter i (s.awordAt c (at_ i))
          ∧ wOpc (s.awordAt c (at_ i)) ≠ 0xC3) →
        let ws := (List.range k).map (fun i => s.awordAt c (at_ i))
        let w := s.awordAt c (at_ k)
        ∃ t, exec x s = .next t ∧ (k = n → enqueueSteps ws s t ∧ wentOn s t)
          ∧ (k < n → ∃ m, enqueueSteps ws s m ∧ (k = 0 → m = s) ∧ m.cnd.pc = s.cnd.pc ∧ m.cnd.mould = s.cnd.mould
            ∧ (c.awords.count ≤ at_ k → exceptionStep m t 0x05 instr 0)
            ∧ (at_ k < c.awords.count → (∀ q, enqueueCheck s.cnd.part w = some q → exceptionStep m t q instr w)
              ∧ (m.stallsOn w → t = { m with cnd := { m.cnd with wait := .enqRun (at_ k) (n - k) } })))
    let awi := cword 0x18 body
    let awip := cword 0x19 body
    let awr := cword 0x1B body
    (s.atWord awi → iRd body = 0 → (i < c.awords.count → one (.awi body) awi w)
      ∧ (c.awords.count ≤ i → ∃ t, exec (.awi body) s = .next t ∧ exceptionStep s t 0x05 awi 0))
    ∧ (s.atWord awip → (i < c.awords.count → one (.awip body) awip (fld w 32 96 ++ fld (s.g (iRd body)) 0 32))
      ∧ (c.awords.count ≤ i → ∃ t, exec (.awip body) s = .next t ∧ exceptionStep s t 0x05 awip 0))
    ∧ (s.atWord awr → iRd body = 0 → iFn body = 0 → one (.awr body) awr (s.g (iRs1 body) ++ s.g (iRs2 body)))
    ∧ (s.atWord (cword 0x1A body) → iRd body = 0 →
      run (.awn body) (cword 0x1A body) (s.g (iRs1 body)).toNat (iImm body).toNat)
    ∧ (s.running .cnd = true → let instr := s.ccodeAt c s.cnd.pc.toNat
      (∀ u, s.cnd.wait = .enqOne u → one .enqueueResume instr u)
      ∧ (∀ j n, s.cnd.wait = .enqRun j n → run .enqueueResume instr j n))
    ∧ (s.running .cnd = false ∨ s.cnd.wait = .none → exec .enqueueResume s = .next s)

/-- R71, R72, R74: the mould transfers. That an MBR which is not taken goes on whatever its index, and that a transfer inside
a loop raises 0x09 whatever its index, is the model's choice (log entries 107 and 108). -/
def Obligations.MouldTransfers : Prop :=
  ∀ (s : State) (body : Body),
    let m := fldN body 0 12
    let rs : BitVec 5 := fld body 12 5
    let n : BitVec 4 := fld body 18 4
    let cond := fldN body 22 4
    let k := (BitVec.ofNat 64 m + s.g (iRs1 body)).toNat
    let old := s.mouldNow
    (s.atWord (cword 0x20 body) → fldN body 12 14 = 0 →
      (∀ d, s.cnd.loops = [] → s.mouldAt m = some d →
        ∃ t, exec (.mjmp body) s = .next t ∧ transferStep s t m old d)
      ∧ (s.cnd.loops = [] → s.mouldAt m = none →
        ∃ t, exec (.mjmp body) s = .next t ∧ exceptionStep s t 0x06 (cword 0x20 body) 0)
      ∧ (s.cnd.loops ≠ [] → ∃ t, exec (.mjmp body) s = .next t ∧ exceptionStep s t 0x09 (cword 0x20 body) 0))
    ∧ (∀ p, s.atWord (cword 0x21 body) → bitAt body 17 = false → mbrTable cond (s.smAt n) (s.g rs) = some p →
      (cond = 1 ∨ cond = 2 → rs = 0) →
      (s.pendingSm n ≠ 0 → exec (.mbr body) s = .next { s with cnd := { s.cnd with wait := .summary (1 <<< n.toNat) } })
      ∧ (s.pendingSm n = 0 → ¬ p → ∃ t, exec (.mbr body) s = .next t ∧ passStep s t)
      ∧ (∀ d, s.pendingSm n = 0 → p → s.cnd.loops = [] → s.mouldAt m = some d →
        ∃ t, exec (.mbr body) s = .next t ∧ transferStep s t m old d)
      ∧ (s.pendingSm n = 0 → p → s.cnd.loops = [] → s.mouldAt m = none →
        ∃ t, exec (.mbr body) s = .next t ∧ exceptionStep s t 0x06 (cword 0x21 body) 0)
      ∧ (s.pendingSm n = 0 → p → s.cnd.loops ≠ [] →
        ∃ t, exec (.mbr body) s = .next t ∧ exceptionStep s t 0x09 (cword 0x21 body) 0))
    ∧ (s.atWord (cword 0x21 body) → bitAt body 17 = false → mbrTable cond (s.smAt n) (s.g rs) = none →
      ∃ t, exec (.mbr body) s = .next t ∧ exceptionStep s t 0x0B (cword 0x21 body) 0)
    ∧ (s.atWord (cword 0x22 body) → iRd body = 0 → fldN body 12 4 = 0 →
      (s.cnd.loops ≠ [] → ∃ t, exec (.msel body) s = .next t ∧ exceptionStep s t 0x09 (cword 0x22 body) 0)
      ∧ (∀ d, s.cnd.loops = [] → s.mouldAt k = some d → ∃ t, exec (.msel body) s = .next t ∧ transferStep s t k old d)
      ∧ (s.cnd.loops = [] → s.mouldAt k = none → ∃ t, exec (.msel body) s = .next t ∧ exceptionStep s t 0x06 (cword 0x22 body) 0))

/-- R62, R63, R66, R75, R77, R78, R200: the end of a cast, by MEND, by HALT, or by an exception that a fetch or the
encoding raises. That such an exception comes with whichever conductor command meets it, that CND_EXC_INSTR is zero after a
fetch past CCODE, and that a nonzero reserved field is judged before anything else of the instruction, are the model's
choices (log entries 26, 109 and 140). -/
def Obligations.CastEnds : Prop :=
  ∀ (s : State) (body : Body),
    (s.atWord (cword 0x23 body) → body = 0 → s.cnd.loops = [] →
      ∃ t, exec (.mend body) s = .next t ∧ t.fnState .cnd = .stopping ∧ t.cnd.ending = 1
        ∧ t.causeOf .cnd = s.causeOf .cnd ||| 0x100 ∧ t.cnd.halt = s.cnd.halt ∧ t.cnd.step = s.cnd.step
        ∧ t.cnd.exc = s.cnd.exc ∧ t.cnd.g = s.cnd.g ∧ t.cnd.sm = s.cnd.sm ∧ t.sheet = s.sheet ∧ t.mem = s.mem)
    ∧ (s.atWord (cword 0x24 body) → iRd body = 0 → iRs1 body = 0 → s.cnd.loops = [] →
      ∃ t, exec (.halt body) s = .next t ∧ t.fnState .cnd = .stopping ∧ t.cnd.ending = 3
        ∧ t.causeOf .cnd = s.causeOf .cnd ||| 0x40 ∧ t.cnd.halt = iImm body ∧ t.cnd.step = s.cnd.step
        ∧ t.cnd.exc = s.cnd.exc ∧ t.cnd.excInstr = s.cnd.excInstr ∧ t.cnd.excHi = s.cnd.excHi
        ∧ t.cnd.excLo = s.cnd.excLo ∧ t.cnd.g = s.cnd.g ∧ t.cnd.sm = s.cnd.sm ∧ t.sheet = s.sheet ∧ t.mem = s.mem)
    ∧ (s.cnd.loops ≠ [] → (s.atWord (cword 0x23 body) → body = 0 →
        ∃ t, exec (.mend body) s = .next t ∧ exceptionStep s t 0x09 (cword 0x23 body) 0)
      ∧ (s.atWord (cword 0x24 body) → iRd body = 0 → iRs1 body = 0 →
        ∃ t, exec (.halt body) s = .next t ∧ exceptionStep s t 0x09 (cword 0x24 body) 0))
    ∧ (∀ p ∈ conductorForms,
      (s.atWord (cword p.2.1 body) → p.2.2 body = false →
        ∃ t, exec (p.1 body) s = .next t ∧ exceptionStep s t 0x01 (cword p.2.1 body) 0)
      ∧ (∀ w, s.atWord w → (∀ q ∈ conductorForms, fldN w 26 6 ≠ q.2.1.toNat) →
        ∃ t, exec (p.1 body) s = .next t ∧ exceptionStep s t 0x01 w 0)
      ∧ (∀ c, s.cast = some c → s.mayExecute = true → s.cnd.past = true ∨ c.ccode.count ≤ s.cnd.pc.toNat →
        ∃ t, exec (p.1 body) s = .next t ∧ exceptionStep s t 0x08 0 0))
    ∧ (s.fnState .cnd = .stopping → s.drained = true →
      ∃ t, exec .conductorStopped s = .next t ∧ t.fnState .cnd = .stopped ∧ t.fnState .ary = .stopped
        ∧ t.cnd.why = s.cnd.ending ∧ t.cnd.pc = s.cnd.pc ∧ t.cnd.g = s.cnd.g ∧ t.cnd.sm = s.cnd.sm
        ∧ t.mem = s.mem ∧ t.headers = s.headers ∧ t.cause = s.cause ∧ t.cast = s.cast
        ∧ (s.cnd.ending = 2 → t.cnd.adm = s.cnd.adm ∧ t.tmv = s.tmv ∧ t.tir = s.tir ∧ t.cnd.loops = s.cnd.loops)
        ∧ (s.cnd.ending ≠ 2 → t.cnd.adm = .held ∧ t.tmv.map = .held
            ∧ ∀ e ∈ t.tir.slots, e.valid = false))
    ∧ (s.fnState .cnd = .stopping → s.drained = false → exec .conductorStopped s = .next s)

/-- R60, R87: a summary is applied in enqueue order; a word completes. -/
def Obligations.SummariesAndCompletions : Prop :=
  (∀ (s : State) (l1 l2 : List Delivery) (d : Delivery), s.cnd.deliv = l1 ++ d :: l2 → (∀ x ∈ l1, x.sm ≠ d.sm) →
    (d.value = none → exec (.summaryDelivery d.sm) s = .next s)
    ∧ (∀ v, d.value = some v → ∃ t, exec (.summaryDelivery d.sm) s = .next t
      ∧ t.smAt d.sm = (match d.combine with | .replace => v | .orInto => s.smAt d.sm ||| v)
      ∧ (∀ n, n ≠ d.sm → t.smAt n = s.smAt n) ∧ t.cnd.deliv = l1 ++ l2
      ∧ (∀ n, t.pendingSm n = s.pendingSm n - if n = d.sm then 1 else 0)
      ∧ t.cnd.g = s.cnd.g ∧ t.cnd.pc = s.cnd.pc ∧ t.sheet.issued = s.sheet.issued ∧ t.mem = s.mem
      ∧ t.headers = s.headers ∧ t.cause = s.cause))
  ∧ (∀ (s : State) (w : Issued), s.sheet.issued.find? (fun x => x.seq == w.seq) = some w →
    (w.hold ≠ .none → exec (.wordComplete w.seq) s = .next s)
    ∧ (w.hold = .none → w.opc ≠ 0xC1 → w.opc ≠ 0xC2 → w.opc ≠ 0xC3 → ∃ t, exec (.wordComplete w.seq) s = .next t
      ∧ t.sheet.issued = s.sheet.issued.filter (fun x => x.seq != w.seq)
      ∧ lo32 t.sheet.words = (lo32 s.sheet.words + if bitAt w.secs 0 then 1 else 0) % 2 ^ 32
      ∧ hi32 t.sheet.words = (hi32 s.sheet.words + if bitAt w.secs 1 then 1 else 0) % 2 ^ 32
      ∧ (∀ i, t.sheet.holder i = if s.sheet.holder i = some w.seq then none else s.sheet.holder i)
      ∧ (∀ i, t.sheet.queue i = s.sheet.queue i) ∧ t.cnd = s.cnd ∧ t.cause = s.cause
      ∧ (s.mdv.uncorr = none → t.mem = s.mem ∧ t.headers = s.headers)))

/-! ## Beat time -/

/-- R25 to R31: beat edges, loss and recovery of the source, and the alarm. -/
def Obligations.BeatReceiver : Prop :=
  (∀ (s : State) (e : Option EdgeMeas) (l : List Corrected), s.mainOn = true → s.discards e = false →
    ∃ t, exec (.beatEdge e l) s = .next t ∧ t.bea.loadPend = none
      ∧ (s.bea.started = true → s.bea.loadPend = none → t.bea.count = s.bea.count + 1)
      ∧ (∀ v, s.bea.loadPend = some v → s.mayLoad = true → t.bea.count = v)
      ∧ (∀ v, s.bea.loadPend = some v → s.mayLoad = false → s.bea.started = true →
          t.bea.count = s.bea.count + 1 ∧ bitAt (t.causeOf .bea) 7 = true)
      ∧ (s.bea.started = true → s.bea.alarm ≠ 0 → t.bea.count = s.bea.alarm → bitAt (t.causeOf .bea) 3 = true)
      ∧ (∀ i, bitAt (s.causeOf .bea) i = true → bitAt (t.causeOf .bea) i = true)
      ∧ (∀ p, (t.port p).state = (s.port p).state ∧ (t.port p).txSeq = (s.port p).txSeq)
      ∧ (∀ p, p < 8 → (s.port p).isUp = true → ∃ pay, .ctrl p pay ∈ t.sent.drop s.sent.length)
      ∧ (s.cnd.quench = false → s.rst.arrayPend = false → s.sheet.switch = none →
          { t.sheet with ecc := s.sheet.ecc } = s.sheet ∧ (l = [] → t.sheet = s.sheet) ∧ t.mem = s.mem ∧ t.headers = s.headers ∧ t.cnd.g = s.cnd.g ∧ t.cnd.sm = s.cnd.sm
          ∧ t.cnd.pc = s.cnd.pc ∧ t.fn = s.fn))
  ∧ (∀ (s : State) (e : Option EdgeMeas) (l : List Corrected), s.discards e = true → exec (.beatEdge e l) s = .next s)
  ∧ (∀ s : State, s.mainOn = true → s.bea.srcAct ≠ 0 → s.bea.hold = false → 3 ≤ s.bea.missed →
    ∃ t, exec .beatLoss s = .next t ∧ t.causeOf .bea = s.causeOf .bea ||| 1 ∧ t.bea.count = s.bea.count
      ∧ (s.bea.fallCur ≠ 0 → s.bea.fallCur ≠ s.bea.srcAct → s.bea.lost = false →
          t.bea.srcAct = s.bea.fallCur ∧ t.bea.hold = false)
      ∧ (s.bea.fallCur = 0 → t.bea.hold = true)
      ∧ { t.quiet s with bea := s.bea, cause := s.cause } = s)
  ∧ (∀ s : State, s.bea.hold = true → s.bea.holdExp = false → fldN s.bea.ctrl 16 16 ≤ s.bea.heldBeats →
    ∃ t, exec .holdoverExpiry s = .next t ∧ t.bea = { s.bea with holdExp := true }
      ∧ t.causeOf .bea = s.causeOf .bea ||| 4 ∧ { t.quiet s with bea := s.bea, cause := s.cause } = s)
  ∧ (∀ (s : State) (phase : BitVec 32) (fall : Bool), s.mainOn = true → s.bea.lost = true →
    (fall = true → s.bea.hold = true ∧ s.bea.fallCur ≠ 0 ∧ s.bea.fallCur ≠ s.bea.srcCur) →
    ∃ t, exec (.sourceRecovery fall phase) s = .next t ∧ t.bea.count = s.bea.count
      ∧ t.bea.srcAct = (if fall then s.bea.fallCur else s.bea.srcCur)
      ∧ t.bea.hold = false ∧ t.bea.lost = fall ∧ t.bea.phaseErr = phase
      ∧ t.causeOf .bea = s.causeOf .bea ||| (if 20 < phase.toInt.natAbs then 2 else 0)
      ∧ { t.quiet s with bea := s.bea, cause := s.cause } = s)
  ∧ (∀ (s : State) (v : Word), s.hostMay 2 0x020018 →
    ∃ t, exec (.beaLoadWrite v) s = .next t ∧ answered s t 2 0
      ∧ (s.mayLoad = true → t.bea = { s.bea with loadPend := some v } ∧ t.cause = s.cause)
      ∧ (s.mayLoad = false → t.bea = s.bea ∧ t.causeOf .bea = s.causeOf .bea ||| 0x80)
      ∧ { t.quiet s with bea := s.bea, cause := s.cause } = s)
  ∧ (∀ (s : State) (v : Word), s.hostMay 1 0x020028 →
    ∃ t, exec (.beaAlarmWrite v) s = .next t ∧ answered s t 2 0 ∧ t.bea = { s.bea with alarm := v }
      ∧ t.causeOf .bea = s.causeOf .bea ||| (if v ≠ 0 ∧ v = s.bea.count then 8 else 0)
      ∧ { t.quiet s with bea := s.bea, cause := s.cause } = s)

/-! ## Casts and functions -/

/-- R33 to R41, R58, R81, R85: the cast base, the start beat, admission and the start of a cast. -/
def Obligations.CastAdmissionAndStart : Prop :=
  (∀ (s : State) (v : Word), s.hostMay 1 0x030000 → ∃ t, exec (.cndCastBaseWrite v) s = .next t ∧ answered s t 2 0
    ∧ (s.noCast = true → t.cnd = { s.cnd with castBase := fld v 0 48 } ∧ t.cause = s.cause)
    ∧ (s.noCast = false → t.cnd = s.cnd ∧ t.causeOf .cnd = s.causeOf .cnd ||| 4)
    ∧ { t.quiet s with cnd := s.cnd, cause := s.cause } = s)
  ∧ (∀ (s : State) (v : Word), s.hostMay 2 0x030008 →
    ∃ t, exec (.cndRunWrite v) s = .next t ∧ answered s t 2 0
    ∧ (s.fnState .cnd = .stopped → s.noCast = true →
        t.cnd = { s.cnd with run := v, adm := .admitting } ∧ t.cause = s.cause)
    ∧ (s.fnState .cnd ≠ .stopped ∨ s.noCast = false → t.cnd = s.cnd ∧ t.causeOf .cnd = s.causeOf .cnd ||| 4)
    ∧ (s.sys.ps = 0 → s.sys.entering = none → t.sys = s.sys)
    ∧ { t.quiet s with cnd := s.cnd, cause := s.cause, sys := s.sys } = s)
  ∧ (∀ (s : State) (v : Word), s.hostMay 1 0x030008 → s.priv = 1 → s.fnState .cnd = .stopped → s.noCast = true →
    s.flagsNeedOperator = true → ∃ t, exec (.cndRunWrite v) s = .next t ∧ answered s t 2 1 ∧ t.cnd = s.cnd
      ∧ t.causeOf .sec = s.causeOf .sec ||| 1
      ∧ { t.quiet s with cause := s.cause, sec := s.sec } = s)
  ∧ (∀ s : State, s.cnd.adm = .admitting → s.sys.ps = 0 → s.sys.entering = none → s.running .mdv = true →
    s.rst.arrayBusy = false → s.imageDouble s.cnd.castBase.toNat 4096 = true →
    ∃ t, exec .castAdmission s = .next t ∧ t.staged = none ∧ t.cnd.adm = .refused ∧ bitAt (t.causeOf .cnd) 1 = true
      ∧ t.mem = s.mem ∧ t.sheet = s.sheet)
  ∧ (∀ s : State, s.cnd.adm = .admitting → s.sys.ps = 0 → s.sys.entering = none → s.running .mdv = true →
    s.rst.arrayBusy = false → s.sound →
    let base := s.cnd.castBase.toNat
    let c := s.imageAt base
    let refused (n : Nat) : Prop := ∃ t, exec .castAdmission s = .next t ∧ t.staged = none
      ∧ t.cnd = { s.cnd with adm := .refused } ∧ t.causeOf .cnd = s.causeOf .cnd ||| (1 <<< n)
      ∧ { t.quiet s with staged := s.staged, cnd := s.cnd, cause := s.cause } = s
    (s.check3 base = false → refused 1)
    ∧ (s.check3 base = true → s.check4 base = false → refused 0)
    ∧ (s.check3 base = true → s.check4 base = true → s.check5 base = false → refused 1)
    ∧ (s.check3 base = true → s.check4 base = true → s.check5 base = true → s.check6 c = false → refused 1)
    ∧ (s.check3 base = true → s.check4 base = true → s.check5 base = true → s.check6 c = true →
        bitAt c.flags 0 = true → s.twn.pair ≠ .soldered → s.alone = false → refused 1)
    ∧ (s.check3 base = true → s.check4 base = true → s.check5 base = true → s.check6 c = true →
        s.check7 c = true → s.cnd.run.toNat ≤ s.bea.count.toNat → refused 3)
    ∧ (s.check3 base = true → s.check4 base = true → s.check5 base = true → s.check6 c = true →
        s.check7 c = true → s.bea.count.toNat < s.cnd.run.toNat →
        exec .castAdmission s = .next { s with
          staged := some c, cnd := { s.cnd with adm := .admitted }, tmv := { s.tmv with map := .admitted } }))
  ∧ (∀ (s : State) (c : CastImg), s.staged = some c → s.cnd.adm = .admitted →
    s.cnd.run.toNat ≤ s.bea.count.toNat → s.rst.arrayBusy = false →
    ∃ t, exec .castStart s = .next t ∧ t.staged = none ∧ t.cast = some c ∧ t.cnd.adm = .running
      ∧ (∀ m, c.moulds[c.firstMould]? = some m → t.cnd.pc = BitVec.ofNat 24 m.code)
      ∧ t.cnd.past = false ∧ (∀ b, (t.core b).held = none) ∧ t.cnd.step = c.firstStep ∧ t.cnd.mentry = s.cnd.run ∧ t.cnd.part = 1 ∧ t.cnd.why = 0
      ∧ (∀ r, t.g r = 0) ∧ (∀ n, t.smAt n = 0 ∧ t.pendingSm n = 0) ∧ t.cnd.loops = [] ∧ t.cnd.wait = .none
      ∧ t.fn.cnd = ⟨.run, s.fn.cnd.applied + 1, s.fn.cnd.applied + 1, false⟩
      ∧ (s.fn.ary.mayGo = true → t.fnState .ary = .run) ∧ (s.fn.tmv.mayGo = true → t.fnState .tmv = .run)
      ∧ t.tmv.map = .running ∧ t.sheet.qF = [] ∧ t.sheet.qB = [] ∧ t.sheet.qH = [] ∧ t.sheet.issued = []
      ∧ t.vec.loaded = c.eprog.length ∧ t.bnk.loaded = c.bprog.length ∧ t.tir.slots = c.slots
      ∧ t.tir.quota = c.quota
      ∧ (∀ i d, c.desc[i]? = some d →
          (List.range 32).map (fun k => t.byte (descBase + 32 * i + k)) = leBytes 32 d.toNat)
      ∧ (∀ a, a < descBase ∨ descBase + 32 * c.desc.length ≤ a → t.byte a = s.byte a))

/-- R49 to R52: an epoch written to a function register. -/
def Obligations.EpochWrites : Prop :=
  ∀ (s : State) (b : FnBlock) (e : BitVec 16), s.hostMay 2 (fnOff b) →
    let f := s.fn.get b
    let kept (t : State) : Prop := t.sheet.set = s.sheet.set ∧ t.tmv.cfg = s.tmv.cfg ∧ t.mdv.cfg = s.mdv.cfg
      ∧ t.lnk.set = s.lnk.set ∧ t.fol.set = s.fol.set ∧ t.twn.set = s.twn.set ∧ t.pwr.set = s.pwr.set
    let moved (t : State) (m : EpochMove) : Prop :=
      t.sheet.set = (if b = .ary then m.on s.sheet.set else s.sheet.set)
      ∧ t.tmv.cfg = (if b = .tmv then m.on s.tmv.cfg else s.tmv.cfg)
      ∧ t.mdv.cfg = (if b = .mdv then m.on s.mdv.cfg else s.mdv.cfg)
      ∧ t.lnk.set = (if b = .lnk then m.on s.lnk.set else s.lnk.set)
      ∧ t.fol.set = (if b = .fol then m.on s.fol.set else s.fol.set)
      ∧ t.twn.set = (if b = .twn then m.on s.twn.set else s.twn.set)
      ∧ t.pwr.set = (if b = .pwr then m.on s.pwr.set else s.pwr.set)
    let done (m : EpochMove) (fails : Bool) : Prop := ∃ t, exec (.fnEpochWrite b e fails) s = .next t
      ∧ answered s t 2 0 ∧ t.fn.get b = { f with epoch := e, applied := e, mixed := false } ∧ moved t m
      ∧ t.cause = s.cause ∧ t.mem = s.mem ∧ t.cnd = (if b = .cnd then { s.cnd with prior := m == .forward } else s.cnd)
      ∧ ∀ x, x ≠ b → t.fn.get x = s.fn.get x
    (f.state = .stopped → e ≠ f.epoch → e = f.applied + 1 → s.epochBarred b = false → done .forward false)
    ∧ (f.state = .stopped → e ≠ f.epoch → e = f.applied + 1 → s.epochBarred b = false →
      ∃ t, exec (.fnEpochWrite b e true) s = .next t ∧ answered s t 2 0
        ∧ t.fn.get b = { f with epoch := e, mixed := true } ∧ kept t
        ∧ t.causeOf (fnBlk b) = s.causeOf (fnBlk b) ||| (1 <<< fnEpochBit b))
    ∧ (∀ fails, f.state = .stopped → e ≠ f.epoch → e = f.applied - 1 → f.mixed = false → s.hasBefore b = true →
      done .back fails)
    ∧ (∀ fails, f.state = .stopped → e ≠ f.epoch → e = f.applied → f.mixed = true → done .recover fails)
    ∧ (∀ fails, e ≠ f.epoch → f.state ≠ .stopped ∨ (e ≠ f.applied + 1 ∧ e ≠ f.applied - 1 ∧ e ≠ f.applied) →
      ∃ t, exec (.fnEpochWrite b e fails) s = .next t ∧ answered s t 2 0 ∧ t.fn = s.fn ∧ kept t
        ∧ t.causeOf (fnBlk b) = s.causeOf (fnBlk b) ||| (1 <<< fnEpochBit b))
    ∧ (∀ fails, e = f.epoch → ∃ t, exec (.fnEpochWrite b e fails) s = .next t ∧ servedBut s t 2 id)

/-- R51, R78, R79, R230: GO, STOP and QUENCH. -/
def Obligations.GoAndStop : Prop :=
  (∀ (s : State) (b : FnBlock), b ≠ .cnd → s.hostMay 1 (fnOff b) →
    ∃ t, exec (.fnGo b) s = .next t ∧ answered s t 2 0
      ∧ ((s.fn.get b).mayGo = true → s.sheet.switch = none → t.fn = s.fn.put b { s.fn.get b with state := .run })
      ∧ ((s.fn.get b).mayGo = false → t.fn = s.fn)
      ∧ (s.sheet.switch = none → { t.quiet s with fn := s.fn } = s))
  ∧ (∀ (s : State) (b : FnBlock), b ≠ .cnd → b ≠ .mdv → s.hostMay 1 (fnOff b) →
    ∃ t, exec (.fnStop b) s = .next t ∧ answered s t 2 0
      ∧ (s.running b = true → b = .lnk ∨ b = .twn ∨ b = .pwr → t.fnState b = .stopped)
      ∧ (s.running b = true → b = .ary → t.fnState b =
          if s.sheet.switch.isNone ∧ ∀ w ∈ s.sheet.issued, w.secs &&& 3 = 0 then .stopped else .stopping)
      ∧ (s.running b = true → b = .tmv → t.fnState b = if s.tmv.moving = [] then .stopped else .stopping)
      ∧ (s.running b = true → b = .fol → t.fnState b =
          if ∃ i ∈ s.fol.insts, i.started = true ∧ i.abandoned = false then .stopping else .stopped)
      ∧ (s.running b = false → t.fn = s.fn) ∧ { t.quiet s with fn := s.fn } = s)
  ∧ (∀ s : State, s.hostMay 1 0x0A00F8 → s.running .mdv = true →
    ∃ t, exec .mdvFnStop s = .next t ∧ answered s t 2 0
      ∧ (s.noCast = true → s.loadMap = true → t.fnState .mdv = .stopped ∧ t.cause = s.cause)
      ∧ (s.noCast = false ∨ s.loadMap = false → t.fn = s.fn ∧ t.causeOf .mdv = s.causeOf .mdv ||| 0x80)
      ∧ { t.quiet s with fn := s.fn, cause := s.cause } = s)
  ∧ (∀ s : State, s.hostMay 1 0x0300F8 →
    ∃ t, exec .cndFnStop s = .next t ∧ answered s t 2 0
      ∧ (s.cnd.adm = .admitting ∨ s.cnd.adm = .admitted → t.staged = none ∧ t.cnd = { s.cnd with adm := .idle }
          ∧ t.tmv = { s.tmv with map := .load } ∧ t.fn = s.fn)
      ∧ (s.cnd.adm = .running → s.running .cnd = true → t.fnState .cnd = .stopping
          ∧ t.cnd = { s.cnd with ending := 2 } ∧ t.tmv = s.tmv ∧ t.cast = s.cast)
      ∧ t.sheet = s.sheet ∧ t.mem = s.mem ∧ t.cause = s.cause)
  ∧ (∀ s : State, s.hostMay 1 0x0300F8 →
    ∃ t, exec .cndFnGo s = .next t ∧ answered s t 2 0
      ∧ (s.cnd.adm = .running → s.cnd.why = 2 → s.fn.cnd.mayGo = true → t.fnState .cnd = .run
          ∧ t.cnd = { s.cnd with why := 0 } ∧ (s.fn.ary.mayGo = true → t.fnState .ary = .run))
      ∧ (s.cnd.why ≠ 2 → t.fn = s.fn ∧ t.cnd = s.cnd) ∧ t.sheet = s.sheet ∧ t.mem = s.mem)
  ∧ (∀ s : State, s.hostMay 2 0x030078 →
    ∃ t, exec .cndQuench s = .next t ∧ answered s t 2 0
      ∧ t.cnd = { s.cnd with quench := s.cnd.quench || decide (s.cnd.adm = .running) }
      ∧ { t.quiet s with cnd := s.cnd } = s)

/-! ## Array words of the beat class -/

/-- R14, R42 to R44, R48: NOP, WAITABS, SBAR and its release, PART and the check of its epoch. -/
def Obligations.BeatWords : Prop :=
  ∀ (s : State) (a : ArrayArgs) (e : QEnt),
    (s.issuing 0xFF a = some e → ∃ t, exec (.nop a) s = .next t ∧ wordStep s t 0xFF a e
      ∧ s.sheetOnly t)
    ∧ (s.mustWait 0xFF a → exec (.nop a) s = .next s)
    ∧ (let till := s.cnd.run + (a.a ++ a.b)
      (s.issuing 0xC0 a = some e → till.toNat ≤ s.bea.count.toNat →
        ∃ t, exec (.waitabs a) s = .next t ∧ wordStep s t 0xC0 a e
          ∧ t.causeOf .bea = s.causeOf .bea ||| (if till.toNat < s.bea.count.toNat then 0x10 else 0)
          ∧ s.sheetOnly { t with cause := s.cause, atn := s.atn })
      ∧ (s.bea.count.toNat < till.toNat → exec (.waitabs a) s = .next s))
    ∧ (let w := arrayWord 0xC1 a
      let unified := s.sheet.set.current.part = 1
      let named : BitVec 3 := fld a.c 0 3
      let need : BitVec 3 := if unified then (if named &&& 3 = 0 then 0 else 3) ||| (named &&& 4) else named
      let groups : List (BitVec 3) := if unified then [3, 4] else [1, 2, 4]
      let came := groups.filter (fun g => decide (s.headOf g = some e ∧ g &&& need = g))
      let got := came.foldl (· ||| ·) 0
      e.word = w → (∀ g ∈ groups, ∀ x, s.headOf g = some x → x.word = w → x = e) →
      (came = [] → exec (.sbar a) s = .next s)
      ∧ (came ≠ [] → ∃ t, exec (.sbar a) s = .next t
          ∧ (∀ i, i < 3 → t.sheet.queue i = if bitAt got i then (s.sheet.queue i).tail else s.sheet.queue i)
          ∧ ((∀ x ∈ s.sheet.issued, x.seq ≠ e.seq) → (∀ b ∈ s.sheet.sbars, b.seq ≠ e.seq) →
              t.sheet.sbars = s.sheet.sbars ++ [⟨e.seq, need, got⟩])
          ∧ ((∃ x ∈ s.sheet.issued, x.seq = e.seq) → t.sheet.sbars
              = s.sheet.sbars.map (fun b => if b.seq = e.seq then { b with got := b.got ||| got } else b))
          ∧ { t with sheet := s.sheet } = s))
    ∧ (∀ b, s.sheet.sbars.find? (fun x => x.seq == b.seq) = some b →
      (b.got ≠ b.need → exec (.sbarRelease b.seq) s = .next s)
      ∧ (b.got = b.need → s.mdv.uncorr = none → ∃ t, exec (.sbarRelease b.seq) s = .next t
        ∧ (∀ x ∈ t.sheet.sbars, x.seq ≠ b.seq) ∧ (∀ x ∈ t.sheet.issued, x.seq ≠ b.seq)
        ∧ (∀ i, t.sheet.queue i = s.sheet.queue i) ∧ t.cnd = s.cnd ∧ t.mem = s.mem ∧ t.cause = s.cause))
    ∧ (s.issuing 0xC3 a = some e → ∃ t w, exec (.part a) s = .next t ∧ wordStep s t 0xC3 a e
        ∧ t.sheet.switch = some w ∧ w.seq = e.seq ∧ w.target = fld a.c 0 2 ∧ w.n = s.fn.ary.epoch
        ∧ w.stuck = false ∧ w.dropped = false ∧ t.sheet.set = s.sheet.set ∧ t.mem = s.mem ∧ t.cause = s.cause
        ∧ ((∀ x ∈ s.sheet.issued, x.seq = e.seq ∨ x.secs &&& 3 = 0) → w.beat0 = some s.bea.count
            ∧ (w.target ≠ s.sheet.set.current.part → t.fnState .ary = .stopping))
        ∧ ((∃ x ∈ s.sheet.issued, x.seq ≠ e.seq ∧ x.secs &&& 3 ≠ 0) → w.beat0 = none))
    ∧ (∀ w b, s.sheet.switch = some w → w.same = false → w.beat0 = some b → w.stuck = false →
      9 ≤ s.bea.count.toNat - b.toNat → s.fn.ary.mixed = true →
      ∃ t, exec .partApplyCheck s = .next t
        ∧ ((t.fn.ary = { s.fn.ary with applied := w.n + 1, mixed := false } ∧ t.cause = s.cause
              ∧ t.sheet.set = ⟨s.sheet.set.staged, s.sheet.set.staged, some s.sheet.set.current⟩)
          ∨ (t.fn = s.fn ∧ t.causeOf .ary = s.causeOf .ary ||| 0x20 ∧ t.sheet.set = s.sheet.set
              ∧ t.sheet.switch = some { w with stuck := true, beat0 := none }))
        ∧ t.mem = s.mem ∧ t.cnd = s.cnd)
    ∧ (s.sheet.switch = none ∨ s.fn.ary.mixed = false ∨ (∃ w, s.sheet.switch = some w ∧ (w.same = true ∨ w.beat0 = none)) →
      exec .partApplyCheck s = .next s)

/-- R45 to R47: the fabric barrier. -/
def Obligations.FabricBarrier : Prop :=
  ∀ (s : State),
    (∀ (a : ArrayArgs) (e : QEnt), s.issuing 0xC2 a = some e → s.barMayStart e = true →
      ∃ t, exec (.fbar a) s = .next t ∧ wordStep s t 0xC2 a e
        ∧ ∃ b ∈ t.sheet.fbars, b.seq = e.seq ∧ b.secs = secsOf a.sec ∧ b.group = fldN a.a 0 16 ∧ b.fseq = a.c
          ∧ b.arrival = s.bea.count ∧ b.planned = s.cnd.run + BitVec.ofNat 64 a.b.toNat)
    ∧ (∀ (a : ArrayArgs) (e : QEnt), s.issuing 0xC2 a = some e → s.barMayStart e = false →
      exec (.fbar a) s = .next s)
    ∧ (∀ (b : FbarHeld) (m at_ : Word), s.sheet.fbars.find? (fun x => x.seq == b.seq) = some b →
      b.result = some (m, at_) →
      let due := max (max b.planned.toNat (m.toNat + fldN s.bea.bar 0 8)) at_.toNat
      let late := due - b.planned.toNat
      (s.bea.count.toNat < due → exec (.fbarRelease b.seq) s = .next s)
      ∧ (due ≤ s.bea.count.toNat → ∃ t, exec (.fbarRelease b.seq) s = .next t
        ∧ (∀ x ∈ t.sheet.fbars, x.seq ≠ b.seq)
        ∧ (∀ x ∈ t.sheet.issued, x.seq ≠ b.seq)
        ∧ (∀ i, i < 3 → bitAt b.secs i = true → t.sheet.last i = s.bea.count)
        ∧ (∀ i, t.sheet.queue i = s.sheet.queue i) ∧ t.cnd.sm = s.cnd.sm ∧ t.cnd.g = s.cnd.g
        ∧ (late = 0 → t.bea.late = s.bea.late ∧ t.causeOf .bea = s.causeOf .bea)
        ∧ (late ≠ 0 → hi32 t.bea.late = min (hi32 s.bea.late + 1) 0xFFFFFFFF
            ∧ lo32 t.bea.late = min (lo32 s.bea.late + late) 0xFFFFFFFF
            ∧ t.causeOf .bea = s.causeOf .bea ||| 0x10)))
    ∧ (∀ (b : FbarHeld), s.sheet.fbars.find? (fun x => x.seq == b.seq) = some b → b.result = none →
      exec (.fbarRelease b.seq) s = .next s)
    ∧ (∀ (b : FbarHeld), s.sheet.fbars.find? (fun x => x.seq == b.seq) = some b →
      let warn := fldN s.bea.bar 8 32
      (b.warned = false → warn ≠ 0 → b.planned.toNat + warn ≤ s.bea.count.toNat →
        ∃ t, exec (.fbarHeldWarning b.seq) s = .next t ∧ t.causeOf .bea = s.causeOf .bea ||| 0x20
          ∧ t.sheet.fbars = s.sheet.fbars.map (fun x => if x.seq = b.seq then { x with warned := true } else x)
          ∧ { t with sheet := { t.sheet with fbars := s.sheet.fbars }, cause := s.cause, atn := s.atn } = s)
      ∧ (b.warned = true ∨ warn = 0 ∨ s.bea.count.toNat < b.planned.toNat + warn →
        exec (.fbarHeldWarning b.seq) s = .next s))

/-! ## The Sheet -/

/-- R42, R61, R95 to R102, R188, R302: what an array word does that may not issue, and a reserved opcode; every matrix
word issues, is refused at its first failed check without touching memory, and, with no
write-out, changes only the G-buffer tiles that it names. -/
def Obligations.MatrixWordsIssue : Prop :=
  (∀ p ∈ classWords ++ [(.nop, 0xFF), (.waitabs, 0xC0), (.fbar, 0xC2), (.part, 0xC3)], ∀ (s : State) (a : ArrayArgs),
    s.mustWait p.2 a → exec (p.1 a) s = .next s)
  ∧ (∀ p ∈ readingWords, ∀ (s : State) (a : ArrayArgs) (e : QEnt), s.issuing p.2.1 a = some e →
    let r := s.tried (secsOf a.sec) e (p.2.2 a)
    r.clear = false → exec (p.1 a) s = .next (s.fetch e.seq r.lines))
  ∧ (∀ p ∈ classWords, ∀ (s : State) (a : ArrayArgs) (secs : BitVec 3) (e : QEnt), s.issuing p.2 a = none →
    s.reservedDue p.2.toNat = some (secs, e) →
    let b := reservedUnit e.word
    ∃ t, exec (p.1 a) s = .next t ∧ t.mem = s.mem ∧ t.headers = s.headers ∧ t.fn = s.fn
      ∧ (∀ i, i < 3 → t.sheet.queue i = if bitAt secs i then (s.sheet.queue i).tail else s.sheet.queue i)
      ∧ t.causeOf b = s.causeOf b ||| 1
      ∧ t.faultOf b = (if recordFree s b (bitAt (s.faultOf b) 0) = true then flawWord b e.word ⟨1, 0, 0x3FF, 0, none⟩
          else s.faultOf b)
      ∧ ∀ d ∈ t.cnd.deliv, d.seq = e.seq → d.value = some 0)
  ∧ ∀ p ∈ matrixWords, ∀ (s : State) (a : ArrayArgs) (e : QEnt), s.goes p.2.1 a (matEffect p.2.2 a) e →
    let s1 := s.taken (secsOf a.sec) e
    let j := matJob p.2.2 a s1
    (∀ f, matChecks p.2.2 a s1 = some f → ∃ t, exec (p.1 a) s = .next t ∧ refusedStep s t .ary p.2.1 a e f)
    ∧ (matChecks p.2.2 a s1 = none → j.zeroWork = true →
        ∃ t, exec (p.1 a) s = .next t ∧ wordStep s t p.2.1 a e ∧ t.formed e.seq ∧ t.mem = s.mem
          ∧ t.headers = s.headers ∧ t.cause = s.cause)
    ∧ (matChecks p.2.2 a s1 = none → j.zeroWork = false →
        ∃ t, exec (p.1 a) s = .next t ∧ wordStep s t p.2.1 a e ∧ t.formed e.seq
          ∧ (j.wout = false → ∀ q,
              (∀ c ∈ s1.coresOf j.sect j.z.tq, ∀ r ∈ resTiles j.gb j.m j.n j.p,
                q < gBase c.c r.t ∨ gBase c.c r.t + 16384 ≤ q) → t.byte q = s.byte q)
          ∧ (∀ k, (∀ c ∈ s1.coresOf j.sect j.z.tq, ∀ r ∈ resTiles j.gb j.m j.n j.p, k ≠ hdrKey c.c r.t) →
              smGet 0 t.headers k = smGet 0 s.headers k))

/-- R95, R97, R100, R101, R103, R104, R116 to R121: what one matrix word computes on one core for one result tile and
one K-tile. -/
def Obligations.MatrixTileResults : Prop :=
  ∀ p ∈ matrixWords, ∀ (s : State) (a : ArrayArgs) (e : QEnt), s.goes p.2.1 a (matEffect p.2.2 a) e →
    let s1 := s.taken (secsOf a.sec) e
    let op := p.2.2
    let j := matJob op a s1
    let c := s1.coreAt j.sect 0
    let r : ResTile := ⟨j.gb, 0, 0, 0⟩
    let u := j.z.slotAt c 0 0 0
    let s2 := match op.kind with
      | .mul | .ascore =>
        s1.putAcc c.c j.gb (Acc.cleared j.f32 (if j.z.amode = 1 then j.z.ae else (s1.acc c.c j.gb).ae))
      | .tacc => j.load r c s1
      | _ => s1
    let x := (s2.readTile 0 c.c j.x (j.x.slotAt c 0 0 0)).1
    let y := (s2.readTile 0 c.c j.y (j.y.slotAt c 0 0 0)).1
    let g := s2.putAcc c.c j.gb ({ s2.acc c.c j.gb with f32 := j.f32 }.addProducts 32
      (tileProducts (if op.tx then transposeL Machine.Num.zero x else x) (if op.ty then transposeL Machine.Num.zero y else y)))
    let canMultiply : Prop := j.k = 1 ∧ j.z.amode ≠ 2 ∧ s1.needFails (rNeed j.x (j.x.slotAt c 0 0 0)) = false
      ∧ s1.needFails (rNeed j.y (j.y.slotAt c 0 0 0)) = false
    let factors := (s1.readTile 0 c.c j.x (j.x.vecSlot c 0)).1.take 32
    let canScale : Prop := s1.needFails (rNeed j.x (j.x.vecSlot c 0)) = false
    matChecks op a s1 = none → j.m = 1 → j.n = 1 → j.p = 1 → j.z.tq = 1 →
    (op.kind = .mul ∨ op.kind = .mac → j.wout = false → canMultiply →
      ∃ t, exec (p.1 a) s = .next t ∧ wordStep s t p.2.1 a e ∧ t.mem = g.mem ∧ t.headers = g.headers
        ∧ t.sheet.products.toNat = min (s.sheet.products.toNat + 1) 0xFFFFFFFFFFFFFFFF)
    ∧ (op.kind = .tacc → j.clr = false → canMultiply → s1.needFails (rNeed j.z u) = false →
      ∃ t, exec (p.1 a) s = .next t ∧ wordStep s t p.2.1 a e ∧ t.headers = g.headers
        ∧ t.sheet.products.toNat = min (s.sheet.products.toNat + 1) 0xFFFFFFFFFFFFFFFF)
    ∧ (op.kind = .gload → s1.needFails (rNeed j.z u) = false →
      ∃ t, exec (p.1 a) s = .next t ∧ wordStep s t p.2.1 a e ∧ t.mem = (j.load r c s1).mem
        ∧ t.headers = (j.load r c s1).headers)
    ∧ (op.kind = .gclr → ∃ t, exec (p.1 a) s = .next t ∧ wordStep s t p.2.1 a e
        ∧ (let g := s1.putAcc c.c j.gb (Acc.cleared j.f32 (if j.z.amode = 1 then j.z.ae else (s1.acc c.c j.gb).ae))
           t.mem = g.mem ∧ t.headers = g.headers))
    ∧ (op.kind = .agscale → canScale → ∃ t, exec (p.1 a) s = .next t ∧ wordStep s t p.2.1 a e
        ∧ (let g := s1.putAcc c.c j.gb ((s1.acc c.c j.gb).scaleRows factors)
           t.mem = g.mem ∧ t.headers = g.headers))
    ∧ (∀ ps, op.kind = .gstore ∨ op.kind = .arows ∧ canScale ∨ op.kind = .ascore ∧ canMultiply →
      j.clr = false → j.z.slagm = false → j.z.foil = 0 → s1.needFails ⟨u, j.z.size, true, j.z.index, false⟩ = false →
      s1.slotOpen u.toNat j.z.size ps →
      let base := if op.kind = .ascore then g else s1
      let acc := base.acc c.c j.gb
      let bs := if j.z.fm = .a128 then acc.slot
        else (packSlot j.z.fm j.z.mx 0 (s1.draw j.z e.step u.toNat 0) (s1.draw j.z e.step u.toNat 1)
          (j.outValues r c (if op.kind = .arows then factors else []) acc)).1
      ps.length = bs.length →
      ∃ t, exec (p.1 a) s = .next t ∧ wordStep s t p.2.1 a e ∧ t.headers = base.headers
        ∧ (if op.kind = .arows ∧ j.z.fm = .a128 then ∀ q, q ∉ ps → t.byte q = s.byte q
          else t.mem = (base.putBytes (ps.zip bs)).mem))

/-- R97 to R102, R136 to R145, R150, R162, R165, R166, R171 to R175, R178: every word of the convolution and vector
classes issues, is refused at its first failed check without touching memory, and does nothing over a zero extent. -/
def Obligations.ConvolutionAndVectorWordsIssue : Prop :=
  ∀ p ∈ unitWords, ∀ (s : State) (a : ArrayArgs) (e : QEnt), s.goes p.opc a (p.effect a) e →
    let s1 := s.taken (secsOf a.sec) e
    (∀ f, p.checks a s1 = some f → ∃ t, exec (p.cmd a) s = .next t ∧ refusedStep s t p.blk p.opc a e f)
    ∧ (p.checks a s1 = none → p.zero a s1 = true →
        ∃ t, exec (p.cmd a) s = .next t ∧ wordStep s t p.opc a e ∧ t.mem = s.mem ∧ t.headers = s.headers
          ∧ t.cause = s.cause ∧ ∀ d ∈ t.cnd.deliv, d.seq = e.seq → d.value = some 0)
    ∧ (p.checks a s1 = none → p.zero a s1 = false →
        ∃ t, exec (p.cmd a) s = .next t ∧ wordStep s t p.opc a e ∧ t.formed e.seq
          ∧ t.cnd.sm = s.cnd.sm ∧ t.fn = s.fn ∧ t.bnk = s.bnk ∧ t.cast = s.cast
          ∧ (opcClass p.opc.toNat = 3 ∨ p.opc = 0x48 ∨ p.opc = 0x49 →
              t.headers = s.headers ∧ t.sheet.products = s.sheet.products))

/-- R99, R158 to R170, R172 to R177: the effect of the convolution words on memory, and one result tile of each. -/
def Obligations.ConvolutionResults : Prop :=
  (∀ p ∈ [((Instr.conv, 0x40, false, false) : (ArrayArgs → Instr) × BitVec 8 × Bool × Bool),
        (.conva, 0x41, false, true), (.convwg, 0x42, true, false), (.convwga, 0x43, true, true)],
    ∀ (s : State) (a : ArrayArgs) (e : QEnt), s.goes p.2.1 a (convEffect p.2.2.1 p.2.2.2 a) e →
    let s1 := s.taken (secsOf a.sec) e
    let j := convJob p.2.2.1 p.2.2.2 a s1
    convChecks p.2.2.1 p.2.2.2 a s1 = none → j.zeroWork = false →
    (j.wout = false → ∃ t, exec (p.1 a) s = .next t ∧ wordStep s t p.2.1 a e
      ∧ ∀ q, (∀ c ∈ j.cores s1, ∀ r ∈ resTiles j.gb j.g.m j.g.n j.p,
          q < gBase c.c r.t ∨ gBase c.c r.t + 16384 ≤ q) → t.byte q = s.byte q)
    ∧ (let r : ResTile := ⟨j.gb, 0, 0, 0⟩
      ∀ c, j.cores s1 = [c] → j.g.m = 1 → j.g.n = 1 → j.p = 1 → j.active r c = true → j.kTiles = 1 →
      j.z.amode ≠ 2 → j.bias = none → (∀ q ∈ j.kNeeds r 0 c, s1.needFails q = false) →
      let base := if j.add then s1
        else s1.putAcc c.c j.gb (Acc.cleared j.f32 (if j.z.amode = 1 then j.z.ae else (s1.acc c.c j.gb).ae))
      let g := base.putAcc c.c j.gb
        ({ base.acc c.c j.gb with f32 := j.f32 }.addProducts 32 (j.products r 0 c base).1)
      (j.wout = false → ∃ t, exec (p.1 a) s = .next t ∧ t.mem = g.mem ∧ t.headers = g.headers
        ∧ t.sheet.products.toNat = min (s.sheet.products.toNat + 1) 0xFFFFFFFFFFFFFFFF)
      ∧ (∀ ps, let u := j.z.slotAt c (j.g.firstTile c) (j.g.firstChan c) 0
        j.wout = true → j.clr = false → j.byElement = false → j.z.slagm = false → j.z.foil = 0 →
        g.needFails ⟨u, j.z.size, true, j.z.index, false⟩ = false → g.slotOpen u.toNat j.z.size ps →
        let acc := g.acc c.c j.gb
        let bs := if j.z.fm = .a128 then (j.trimAcc r c acc).slot
          else (packSlot j.z.fm j.z.mx 0 (s1.draw j.z e.step u.toNat 0) (s1.draw j.z e.step u.toNat 1)
            (j.trimmed r c acc.values)).1
        bs.length = ps.length →
        ∃ t, exec (p.1 a) s = .next t ∧ t.mem = (g.putBytes (ps.zip bs)).mem ∧ t.headers = g.headers)))
  ∧ (∀ p ∈ [((Instr.vdw, 0x62, (fun _ => .vdw), vdwJob) :
          (ArrayArgs → Instr) × BitVec 8 × (ArrayArgs → LaneConv) × (ArrayArgs → State → LaneJob)),
        (.pool, 0x48, poolKind, fun a => planeJob (poolKind a) a),
        (.resample, 0x49, resampleKind, fun a => planeJob (resampleKind a) a)],
    ∀ (s : State) (a : ArrayArgs) (e : QEnt) (c : CoreAt) (ps : List Nat),
    s.goes p.2.1 a (laneConvEffect (p.2.2.1 a) (p.2.2.2 a) a) e →
    let s1 := s.taken (secsOf a.sec) e
    let j := p.2.2.2 a s1
    let r : ResTile := ⟨0, 0, 0, 0⟩
    let u := j.z.slotAt c (j.g.firstTile c) (j.g.firstChan c) 0
    laneChecks (p.2.2.1 a) j a s1 = none → j.zeroWork = false →
    (s1.coresOf j.sect j.z.tq).filter (fun c => !j.g.outsideFrame j.outExt c) = [c] → j.g.m = 1 → j.g.n = 1 →
    j.x.tp = 1 → j.active r c = true → j.bias = none →
    (∀ q ∈ (j.xSlots r c).map (rNeed j.x) ++ (j.wSlots r c).map (rNeed j.w), s1.needFails q = false) →
    j.byElement = false → j.z.slagm = false → j.z.foil = 0 → j.z.mx = false → j.z.fm ≠ .a128 →
    s1.needFails ⟨u, j.z.size, true, j.z.index, false⟩ = false → s1.slotOpen u.toNat j.z.size ps →
    let xs := (State.readTiles 0 c.c j.x (j.xSlots r c) s1).1
    let ws := ((State.readTiles 0 c.c j.w (j.wSlots r c) s1).1.map (·.2)).flatten
    let w0 := 32 * j.g.firstChan c * j.cg * j.g.taps / 1024 * 1024
    let value (n : Nat) : Machine.Num := match j.pos r c (n / 32) with
      | some p => (j.elem r c xs ws w0 none p (32 * j.g.firstChan c + n % 32)).val
      | none => Machine.Num.zero
    let bs := (packSlot j.z.fm false 0 (s1.draw j.z e.step u.toNat 0) (s1.draw j.z e.step u.toNat 1)
      ((List.range 1024).map value)).1
    bs.length = ps.length →
    ∃ t, exec (p.1 a) s = .next t ∧ wordStep s t p.2.1 a e ∧ t.mem = (s1.putBytes (ps.zip bs)).mem
      ∧ t.headers = s.headers)

/-- R132 to R150: one tile of EMAP, and one tile of ERED with one reduction. -/
def Obligations.VectorResults : Prop :=
  ∀ (s : State) (a : ArrayArgs) (e : QEnt) (c : CoreAt) (ps : List Nat) (d : Desc) (ered : Bool),
    s.goes (if ered then 0x61 else 0x60) a (vecEffect ered a) e →
    let s1 := s.taken (secsOf a.sec) e
    let j := vecOf ered a s1
    let tile : IterTile := ⟨0, 0, 0, 0⟩
    vecChecks ered a s1 = none → j.tr = 1 → j.tc = 1 → j.p = 1 → s1.coresOf j.sect j.limit = [c] →
    (∀ p ∈ j.loads, ∀ x, j.stream p.1 = some x → s1.needFails (rNeed x (j.loadSlot p.2 x tile c)) = false) →
    d.slagm = false → d.mx = false → d.foil = 0 →
    let vals := (j.loadAll tile c j.loads s1).1
    let env := j.env s1 e.step tile c vals
    let lane (n : Nat) : Lane := laneRun (env n) j.ops
    let u := d.slotAt c 0 0 0
    s1.needFails ⟨u, d.size, true, d.index, false⟩ = false → s1.slotOpen u.toNat d.size ps →
    let old := s1.slotBytes u.toNat d.size
    (ered = false → j.output 0 = some d → j.stores = [0] →
      let bs := (mergeElems d (s1.draw d e.step u.toNat 0) old
        ((List.range 1024).map (fun n => (lane n).out0.map (stoVal d.fm)))).1
      bs.length = ps.length →
      ∃ t, exec (.emap a) s = .next t ∧ wordStep s t 0x60 a e ∧ t.mem = (s1.putBytes (ps.zip bs)).mem
        ∧ t.headers = s.headers)
    ∧ (∀ red, ered = true → j.output 1 = some d → j.stores = [] → j.reds = [red] → j.indexed = false → j.acc = false →
      let got (g : Nat) : Grp := (List.range 1024).foldl (fun x n =>
        match (lane n).red0.orElse (fun _ => (lane n).red1) with
        | some v => if (j.place red.axis (env n)).1 = g then x.add red d.ae (j.place red.axis (env n)).2 v else x
        | none => x) Grp.empty
      let group (g : Nat) : Grp := if (got g).n = 0 then { got g with sum := Sum.none d.ae } else got g
      let bs := (resultBytes s1 d e.step u.toNat red false false d.ae
        ((slotGroups (j.groups red.axis) 0).map group)).1
      bs.length = ps.length →
      ∃ t, exec (.ered a) s = .next t ∧ wordStep s t 0x61 a e ∧ t.mem = (s1.putBytes (ps.zip bs)).mem
        ∧ t.headers = s.headers)

/-! ## The tier manager -/

/-- R195, R197, R198: TCOPY. -/
def Obligations.TileCopies : Prop :=
  ∀ (s : State) (a : ArrayArgs) (e : QEnt), s.goes 0x80 a (copyEffect a) e →
    let s1 := s.taken (secsOf a.sec) e
    let j := copyJob a s1
    (∀ f, copyChecks a s1 = some f → ∃ t, exec (.tcopy a) s = .next t ∧ refusedStep s t .tmv 0x80 a e f)
    ∧ (copyChecks a s1 = none → ∃ t, exec (.tcopy a) s = .next t ∧ wordStep s t 0x80 a e ∧ t.headers = s.headers
        ∧ t.cnd.sm = s.cnd.sm ∧ t.fn = s.fn ∧ (j.zeroWork = true → t.mem = s.mem ∧ t.cause = s.cause))
    ∧ (∀ c ps, copyChecks a s1 = none →
        (if a.sec = 3 then [hubAt] else s1.coresOf (sectOf a.sec) j.z.tq) = [c] → j.z.tr = 1 → j.z.tc = 1 →
        j.z.tp = 1 → j.z.slagm = false →
        let ux := j.x.slotAt c 0 0 0
        let u := j.z.slotAt c 0 0 0
        s1.needFails (rNeed j.x ux) = false → s1.needFails ⟨u, j.z.size, true, j.z.index, false⟩ = false →
        s1.slotOpen u.toNat j.z.size ps →
        let bs := if j.x.tf = j.z.tf ∧ j.x.mx = j.z.mx ∧ j.x.foil = j.z.foil then s1.slotBytes ux.toNat j.x.size
          else (packSlot j.z.fm j.z.mx j.z.foil (s1.draw j.z e.step u.toNat 0) (s1.draw j.z e.step u.toNat 1)
            (s1.valuesOf j.x (s1.slotBytes ux.toNat j.x.size))).1
        bs.length = ps.length →
        ∃ t, exec (.tcopy a) s = .next t ∧ wordStep s t 0x80 a e ∧ t.mem = (s1.putBytes (ps.zip bs)).mem)

/-- R188, R191 to R193, R196, R198, R206: queued page moves, their beginning, their end. -/
def Obligations.PageMoves : Prop :=
  (∀ (s : State) (a : ArrayArgs) (e : QEnt) (c : CastImg), s.issuing 0x81 a = some e → s.cast = some c →
    (∀ f, migrateFlaw c a = some f → ∃ t, exec (.migrate a) s = .next t ∧ refusedStep s t .tmv 0x81 a e f)
    ∧ (migrateFlaw c a = none →
      let s1 := s.taken (secsOf a.sec) e
      let l := (List.range (fldN a.b 0 24)).flatMap (fun i => s1.entryMoves c e.seq (fldN a.a 0 24 + i))
      ∃ t, exec (.migrate a) s = .next t ∧ wordStep s t 0x81 a e
        ∧ t.tmv = { s.tmv with queue := s.tmv.queue ++ l }
        ∧ t.sheet.holdH = (if bitAt a.flg 4 = true ∧ l ≠ [] then some e.seq else s.sheet.holdH)
        ∧ (bitAt a.flg 4 = true → l ≠ [] → ∀ w ∈ t.sheet.issued, w.seq = e.seq → w.hold = .moves e.seq)
        ∧ { t with sheet := s.sheet, tmv := s.tmv, lnk := { t.lnk with reading := s.lnk.reading } } = s))
  ∧ (∀ (s : State) (c : CastImg) (q : MoveReq) (rest : List MoveReq), s.cast = some c → s.tmv.queue = q :: rest →
    let el := s.tmapAt c q.upage
    let s1 := { s with tmv := { s.tmv with queue := rest } }
    let begun (t : State) (src dst : Nat) : Prop := exec .pageMoveStart s = .next t
      ∧ t.tmv.moving = s.tmv.moving ++ [⟨q.upage, src, dst, q.zero, q.seq⟩] ∧ t.tmv.queue = rest
    let unmoved (t : State) : Prop := { t with
      tmv := s.tmv, sheet := s.sheet, cause := s.cause, cleared := s.cleared, atn := s.atn } = s
    let barred (t : State) : Prop := t.tmv.queue = rest ∧ t.tmv.moving = s.tmv.moving ∧ t.tmv.moves = s.tmv.moves
      ∧ t.causeOf .tmv = s.causeOf .tmv ||| 4 ∧ unmoved t
    (s.running .tmv = false ∨ s.castRuns = false ∨ s.sys.ps ≠ 0 ∨ s.moveLimit ≤ s.tmv.moving.length ∨ (∃ m ∈ s.tmv.moving, m.upage = q.upage) →
      exec .pageMoveStart s = .next s)
    ∧ (s.running .tmv = true → s.castRuns = true → s.sys.ps = 0 → s.tmv.moving.length < s.moveLimit → (∀ m ∈ s.tmv.moving, m.upage ≠ q.upage) →
      (s.tierOf (eLive el) = some q.tier → q.zero = false → ∃ t, exec .pageMoveStart s = .next t
        ∧ t.tmv = { s.tmv with queue := rest } ∧ { t with tmv := s.tmv, sheet := s.sheet } = s)
      ∧ (s.tierOf (eLive el) = some q.tier → q.zero = true → s.placeWritable (eLive el) = true →
        ∃ t, begun t (eLive el) (eLive el) ∧ { t with tmv := s.tmv, sheet := s.sheet } = s)
      ∧ (s.tierOf (eLive el) = some q.tier → q.zero = true → s.placeWritable (eLive el) = false →
        ∃ t, exec .pageMoveStart s = .next t ∧ barred t)
      ∧ (∀ p, s.tierOf (eLive el) ≠ some q.tier → (q.tier = 3 → s.pool.isSome = true) →
        s1.mayEnter s1.pages (eAcct el) q.tier = true → s1.lowestFree s1.pages q.tier = some p →
        (s.placeWritable p = true → ∃ t, begun t (eLive el) p ∧ { t.quiet s with
          tmv := s.tmv, sheet := s.sheet, cause := s.cause } = s)
        ∧ (s.placeWritable p = false → ∃ t, exec .pageMoveStart s = .next t ∧ barred t))
      ∧ (s.tierOf (eLive el) ≠ some q.tier →
        (q.tier = 3 ∧ s.pool = none)
          ∨ (s1.mayEnter s1.pages (eAcct el) q.tier = false
            ∧ (3 ≤ q.tier ∨ s1.victim s1.pages q.tier q.upage = none)) →
        ∃ t, exec .pageMoveStart s = .next t ∧ t.tmv.queue = rest ∧ t.tmv.moving = s.tmv.moving
          ∧ fldN t.tmv.fault 0 1 = 1 ∧ hi32 t.tmv.evict = min (hi32 s.tmv.evict + 1) 0xFFFFFFFF ∧ lo32 t.tmv.evict = lo32 s.tmv.evict
          ∧ t.causeOf .tmv = s.causeOf .tmv ||| 0x10
          ∧ unmoved t)
      ∧ (∀ v d, s.tierOf (eLive el) ≠ some q.tier → q.tier < 3 → (q.tier = 2 → s.pool.isSome = true) →
        s1.mayEnter s1.pages (eAcct el) q.tier = false → s1.victim s1.pages q.tier q.upage = some v →
        s1.mayEnter s1.pages (eAcct v.2) (q.tier + 1) = true → s1.lowestFree s1.pages (q.tier + 1) = some d →
        s.sourceBad ⟨v.1, eLive v.2, d, false, 0⟩ = false → s.placeWritable d = true →
        let s2 := s1.landPage ⟨v.1, eLive v.2, d, false, 0⟩
        s2.claimUse s2.pages q.tier < s2.crucibleNow q.tier →
        ∃ t, begun t (eLive (s2.tmapAt c q.upage)) (eLive v.2) ∧ t.mem = s2.mem
          ∧ lo32 t.tmv.evict = min (lo32 s.tmv.evict + 1) 0xFFFFFFFF)))
  ∧ (∀ (s : State) (c : CastImg) (m : Move), s.cast = some c → s.tmv.moving.find? (fun x => x.upage == m.upage) = some m →
    (s.placePending m.src = true → m.zero = false → exec (.pageMoveComplete m.upage) s = .next s)
    ∧ (s.placePending m.src = false → s.sourceBad m = true → ∃ t, exec (.pageMoveComplete m.upage) s = .next t
      ∧ (∀ x ∈ t.tmv.moving, x.upage ≠ m.upage) ∧ t.tmv.moves = s.tmv.moves ∧ t.mem = s.mem)
    ∧ (s.placePending m.src = false ∨ m.zero = true → s.sourceBad m = false →
      let bs := if m.zero then List.replicate 0x10000 0 else (s.placeBytes m.src).map s.readByte
      ∃ t, exec (.pageMoveComplete m.upage) s = .next t ∧ (∀ x ∈ t.tmv.moving, x.upage ≠ m.upage)
        ∧ (∀ x ∈ s.tmv.moving, x.upage ≠ m.upage → x ∈ t.tmv.moving) ∧ t.tmv.queue = s.tmv.queue
        ∧ (s.windowHit (s.placeBytes m.dst) = none →
          t.mem = ((s.storeBytes .tier none ((s.placeBytes m.dst).zip bs)).putLive c m.upage m.dst).mem)
        ∧ (∀ q, s.windowHit (s.placeBytes m.dst) = some q → t.mem = (s.putLive c m.upage m.dst).mem
          ∧ bitAt (t.causeOf .mdv) 2 = true)
        ∧ t.headers = s.headers ∧ t.cnd = s.cnd ∧ t.bnk = s.bnk))

/-- R203, R204, R200: the step admission and the release of a cast. -/
def Obligations.StepAdmissionAndRelease : Prop :=
  (∀ (s : State) (a : ArrayArgs) (e : QEnt), s.goes 0x82 a (stepadmEffect a) e →
    let s1 := s.taken (secsOf a.sec) e
    let first := fldN a.a 0 12
    let n := fldN a.b 0 13
    let l := slotRange s.tir.slots first n
    (∀ f, stepadmFlaw s.tir.slots a = some f → ∃ t, exec (.stepadm a) s = .next t ∧ refusedStep s t .tmv 0x82 a e f)
    ∧ (stepadmFlaw s.tir.slots a = none →
      (n = 0 → ∃ t, exec (.stepadm a) s = .next t ∧ wordStep s t 0x82 a e ∧ t.tir = s.tir ∧ t.mem = s.mem
        ∧ ∀ d ∈ t.cnd.deliv, d.seq = e.seq → d.value = some 0)
      ∧ (n ≠ 0 → (∀ p ∈ l, ∃ h, s1.slotHeader p.2 = some h ∧ h.1 ≤ p.2.limit) →
        let excess := (l.filter (fun p => decide (p.2.maxLen < ((s1.slotHeader p.2).getD (0, 0)).1))).length
        ∃ t, exec (.stepadm a) s = .next t ∧ wordStep s t 0x82 a e
          ∧ (∀ i x, s.tir.slots[i]? = some x →
              t.tir.slots[i]? = some (if first ≤ i ∧ i < first + n then x.turned else x))
          ∧ (∀ d ∈ t.cnd.deliv, d.seq = e.seq → d.value = some (BitVec.ofNat 64 excess))
          ∧ (excess ≠ 0 → bitAt (t.causeOf .tir) 2 = true) ∧ (excess = 0 → t.causeOf .tir = s.causeOf .tir)
          ∧ t.mem = s.mem ∧ t.headers = s.headers)
      ∧ (n ≠ 0 → (∀ p ∈ l, (s1.slotHeader p.2).isSome = true) →
        (∃ p ∈ l, ∃ h, s1.slotHeader p.2 = some h ∧ p.2.limit < h.1) →
        ∃ t, exec (.stepadm a) s = .next t ∧ wordStep s t 0x82 a e ∧ t.tir.slots = s.tir.slots
          ∧ (∀ d ∈ t.cnd.deliv, d.seq = e.seq → d.value = some (putAt 63 1 1))
          ∧ bitAt (t.causeOf .tir) 0 = true ∧ fldN t.tir.lastAdm 50 2 = 3 ∧ t.mem = s.mem)
      ∧ (n ≠ 0 → (∃ p ∈ l, s1.slotHeader p.2 = none) →
        ∃ t, exec (.stepadm a) s = .next t ∧ wordStep s t 0x82 a e ∧ t.tir = s.tir
          ∧ t.causeOf .tmv = s.causeOf .tmv ||| 4 ∧ t.mem = s.mem
          ∧ ∀ d ∈ t.cnd.deliv, d.seq = e.seq → d.value = some 0)))
  ∧ (∀ s : State, s.hostMay 1 0x080010 →
    ∃ t, exec .tmvCtrlRelease s = .next t ∧ answered s t 2 0
      ∧ t.tmv = { s.tmv with releasing := s.tmv.releasing || decide (s.cnd.adm = .held) }
      ∧ { t.quiet s with tmv := s.tmv, cause := s.cause } = s)
  ∧ (∀ (s : State) (c : CastImg), s.cast = some c → s.tmv.releasing = true → s.tmv.moving = [] →
    (∀ x ∈ s.lnk.trans ++ s.lnk.stalled, ∀ q, x.who ≠ .word q .tmv) →
    ∃ t, exec .releaseComplete s = .next t ∧ t.cast = none ∧ t.cnd = { s.cnd with adm := .idle, part := 0 }
      ∧ t.tmv.map = .load ∧ t.tmv.releasing = false ∧ t.fnState .tmv = .stopped ∧ t.mem = (s.allHome c).mem
      ∧ t.headers = s.headers ∧ t.tir = s.tir ∧ t.sheet = s.sheet)

/-! ## The control space -/

/-- R7, R50, R108, R206, R230, R299, R306, R328, R346, R365: the settings that a write stages for the next epoch, and
the apertures. -/
def Obligations.StagedSettings : Prop :=
  (∀ r ∈ stagedRegs, ∀ (s : State) (v : Word), s.hostMay 2 r.off →
    ∃ t, exec (r.cmd v) s = .next t ∧ answered s t 2 0
      ∧ (r.taken s = true → ∃ new, merged r.fs v (r.old s) new ∧ t.quiet s = r.put new s)
      ∧ (r.taken s = false → t.causeOf (fnBlk r.fn) = s.causeOf (fnBlk r.fn) ||| (1 <<< fnEpochBit r.fn)
          ∧ { t.quiet s with cause := s.cause } = s))
  ∧ (∀ (s : State) (n : Nat) (v : Word), n < 8 → s.hostMay 2 (BitVec.ofNat 24 (0x110080 + 8 * n)) →
    ∃ t, exec (.pwrConfigWrite (BitVec.ofNat 24 (0x110080 + 8 * n)) v) s = .next t ∧ answered s t 2 0
      ∧ (s.stopped .pwr = true → ∃ new, merged [freeField 63 1, freeField 8 8, ⟨0, 8, 80, 200⟩] v
            (smGet 0xC8 s.pwr.set.staged.curve n) new
          ∧ t.pwr = { s.pwr with set := { s.pwr.set with staged := { s.pwr.set.staged with
              curve := smPut 0xC8 s.pwr.set.staged.curve n new } } } ∧ t.cause = s.cause)
      ∧ (s.stopped .pwr = false → t.pwr = s.pwr ∧ t.causeOf .pwr = s.causeOf .pwr ||| 0x100)
      ∧ { t.quiet s with pwr := s.pwr, cause := s.cause } = s)
  ∧ (∀ (s : State) (off : BitVec 24) (v : Word), lnkConfig off = true → s.hostMay 2 off →
    let old := s.lnk.set.staged
    let o := fldN off 0 16
    ∃ t, exec (.lnkConfigWrite off v) s = .next t ∧ answered s t 2 0
      ∧ (s.stopped .lnk = true → t.cause = s.cause ∧ t.lnk.set.current = s.lnk.set.current
        ∧ (o = 0 → t.lnk.set.staged = { old with id := v &&& 0x000080FC0FFF0FFF })
        ∧ (o = 8 → ∃ new, merged [freeField 48 16, freeField 8 32, ⟨0, 5, 1, 31⟩] v old.cfg new
            ∧ t.lnk.set.staged = { old with cfg := new })
        ∧ (∀ r, slotAt o 0x200 4 = some r →
            t.lnk.set.staged = { old with dom := smPut 0xFFFFFFFFFFFFFFFF old.dom r v })
        ∧ (∀ r, slotAt o 0x300 8 = some r →
            t.lnk.set.staged = { old with exp := smPut 0 old.exp r (v &&& 0xFFFFFFFF01FFFFFF) })
        ∧ (∀ r, slotAt o 0x1000 512 = some r →
            t.lnk.set.staged = { old with rt := smPut 0x0F0F0F0F0F0F0F0F old.rt r (v &&& 0x2F2F2F2F2F2F2F2F) }))
      ∧ (s.stopped .lnk = false → t.lnk.set = s.lnk.set ∧ t.causeOf .lnk = s.causeOf .lnk ||| 0x1000)
      ∧ t.lnk.aps = s.lnk.aps ∧ t.lnk.trans = s.lnk.trans ∧ { t.quiet s with cause := s.cause } = s)
  ∧ (∀ (s : State) (a : BitVec 8) (v : Word), 32 ≤ a.toNat →
    s.hostMay 2 (BitVec.ofNat 24 (0x0D0800 + 8 * a.toNat)) →
    let old := s.aperture a.toNat
    ∃ t new, exec (.lnkApWrite a v) s = .next t ∧ answered s t 2 0
      ∧ merged [freeField 62 2, ⟨60, 2, 0, 2⟩, freeField 13 47] v old new
      ∧ (bitAt old 63 = false ∨ bitAt new 63 = false ∧ s.loadMap = true → t.aperture a.toNat = new ∧ t.cause = s.cause)
      ∧ (bitAt old 63 = true → bitAt new 63 = true ∨ s.loadMap = false →
          t.lnk.aps = s.lnk.aps ∧ t.causeOf .lnk = s.causeOf .lnk ||| 0x1000)
      ∧ (∀ b, b ≠ a.toNat → t.aperture b = s.aperture b) ∧ t.lnk.set = s.lnk.set ∧ t.lnk.trans = s.lnk.trans
      ∧ { t.quiet s with cause := s.cause } = s)
  ∧ (∀ (s : State) (a : BitVec 8) (v : Word), a.toNat < 32 →
    s.hostMay 1 (BitVec.ofNat 24 (0x0D0800 + 8 * a.toNat)) →
    ∃ t, exec (.lnkApWrite a v) s = .next t ∧ answered s t 2 0 ∧ t.lnk.aps = s.lnk.aps ∧ t.quiet s = s)
  ∧ (∀ (s : State) (i : Nat) (v : Word), i < 256 → s.hostMay 2 (BitVec.ofNat 24 (0x0E1000 + 8 * i)) →
    ∃ t, exec (.folGroupWrite (BitVec.ofNat 24 (0x0E1000 + 8 * i)) v) s = .next t ∧ answered s t 2 0
      ∧ (s.stopped .fol = true → t.cause = s.cause ∧ t.fol = { s.fol with set := { s.fol.set with
          staged := smPut 0 s.fol.set.staged i
            (v &&& (if i % 4 = 0 then 0x8000000000001FFF else 0xFFFFFF8FFFFFFFFF)) } })
      ∧ (s.stopped .fol = false → t.fol = s.fol ∧ t.causeOf .fol = s.causeOf .fol ||| 0x40)
      ∧ { t.quiet s with fol := s.fol, cause := s.cause } = s)

/-- R6 to R11, R367 to R369, R389, R402: reads and writes of registers by the host. -/
def Obligations.HostRegisterAccess : Prop :=
  (∀ (s : State) (off : BitVec 24), offsetOk off = true → s.hostMay (readNeed off) off →
    off ≠ 0x050010 → off ≠ 0x160020 →
    ∃ t, exec (.crd off) s = .next t ∧ returned s t 1 (leBytes 8 (s.readReg off).toNat)
      ∧ (rcRegs.contains off.toNat = false → t.quiet s = s)
      ∧ t.cause = s.cause ∧ t.mask = s.mask ∧ t.mem = s.mem ∧ t.headers = s.headers ∧ t.fn = s.fn ∧ t.cast = s.cast
      ∧ t.cnd.g = s.cnd.g ∧ t.cnd.sm = s.cnd.sm)
  ∧ (∀ (s : State) (off : BitVec 24), rcRegs.contains off.toNat = true → s.hostMay 1 off →
    ∃ t, exec (.rcRegisterRead off) s = .next t ∧ returned s t 1 (leBytes 8 (s.readReg off).toNat)
      ∧ t.readReg off = 0 ∧ t.cause = s.cause ∧ t.mem = s.mem ∧ t.fn = s.fn)
  ∧ (∀ (s : State) (b : Blk) (v : Word), causeWidth b ≠ 0 →
    let off := BitVec.ofNat 24 (b.idx.val * 0x10000 + causeOff b)
    s.hostMay 1 off →
    ∃ t, exec (.causeW1cWrite off v) s = .next t ∧ answered s t 2 0 ∧ t.causeOf b = s.causeOf b &&& ~~~ v
      ∧ (∀ x, x ≠ b → t.causeOf x = s.causeOf x)
      ∧ { t.quiet s with cause := s.cause, cleared := s.cleared } = s)
  ∧ (∀ (s : State) (b : Blk) (v : Word), causeWidth b ≠ 0 →
    let off := BitVec.ofNat 24 (b.idx.val * 0x10000 + maskOff b)
    s.hostMay 1 off →
    ∃ t, exec (.registerWrite off v) s = .next t ∧ answered s t 2 0
      ∧ t.maskOf b = v &&& BitVec.ofNat 64 (2 ^ causeWidth b - 1) ∧ (∀ x, x ≠ b → t.maskOf x = s.maskOf x)
      ∧ { t.quiet s with mask := s.mask } = s)
  ∧ (∀ p ∈ plainWrites, ∀ (s : State) (v : Word), ∀ c ∈ [Instr.cwr p.1 v, Instr.registerWrite p.1 v],
    (s.hostMay p.2.1 p.1 → ∃ t, exec c s = .next t ∧ answered s t 2 0 ∧ t.quiet s = p.2.2 v s)
    ∧ ((s.port 7).isUp = true → s.sec.session.isSome = true → s.priv = 0 → s.gated p.1 = false → s.answersWait →
        ∃ t, exec c s = .next t ∧ answered s t 2 1 ∧ t.causeOf .sec = s.causeOf .sec ||| 1
          ∧ { t.quiet s with cause := s.cause, sec := s.sec } = s))
  ∧ (∀ r ∈ stagedRegs, ∀ (s : State) (v new : Word), s.hostMay 1 r.off → s.priv = 1 →
    merged r.fs v (r.old s) new → new ≠ r.old s →
    ∃ t, exec (r.cmd v) s = .next t ∧ answered s t 2 1 ∧ t.causeOf .sec = s.causeOf .sec ||| 1
      ∧ { t.quiet s with cause := s.cause, sec := s.sec } = s)
  ∧ (∀ (s : State) (off : BitVec 24) (v : Word), ∀ c ∈ [Instr.cwr off v, Instr.registerWrite off v],
    offsetOk off = true →
    (23 ≤ fldN off 16 8 → s.hostMay 1 off → ∃ t, exec c s = .next t ∧ answered s t 2 0 ∧ t.quiet s = s)
    ∧ ((s.port 7).isUp = true → s.sec.session.isSome = true → 1 ≤ s.priv.toNat → s.gated off = true → s.answersWait →
        ∃ t, exec c s = .next t ∧ answered s t 2 0 ∧ t.quiet s = s)
    ∧ ((s.port 7).isUp = true → s.sec.session = none → s.answersWait →
        ∃ t, exec c s = .next t ∧ answered s t 2 5 ∧ t.quiet s = s)
    ∧ ((s.port 7).isUp = false → exec c s = .next s))
  ∧ (∀ (s : State) (off : BitVec 24), s.sys.standby = true → off ≠ 0x160020 →
    ∃ t, exec (.smbusRead off) s = .next t
      ∧ t.sent = s.sent ++ [.smbus (if smbusReads off then s.readReg off else 0)] ∧ t.quiet s = s)
  ∧ (∀ (s : State) (off : BitVec 24) (v : Word),
    (s.sys.standby = false ∨ smbusWrites off = false → exec (.smbusWrite off v) s = .next s)
    ∧ (s.sys.standby = true → exec (.smbusWrite 0x160018 v) s
        = .next { s with mgt := { s.mgt with offset := fld v 3 13 } }.settleAttn))
  ∧ (∀ (op st : Nat) (addr : Word) (arg data : List Byte), arg.length ≤ 48 → data.length ≤ 448 →
    let b := hostPayload op st addr arg data
    b.length = 512 ∧ b.take 2 = [BitVec.ofNat 8 op, BitVec.ofNat 8 st] ∧ leNat ((b.drop 2).take 2) = data.length
      ∧ (b.drop 4).take 4 = [0, 0, 0, 0] ∧ leNat ((b.drop 8).take 8) = addr.toNat ∧ (b.drop 16).take arg.length = arg
      ∧ (∀ x ∈ (b.drop (16 + arg.length)).take (48 - arg.length), x = 0) ∧ (b.drop 64).take data.length = data
      ∧ ∀ x ∈ b.drop (64 + data.length), x = 0)

/-- R24, R109, R187, R189, R205, R210, R217, R225, R230, R347, R367, R368, R406: the windows onto stores and memory. -/
def Obligations.HostWindows : Prop :=
  (∀ (s : State) (v : Word), s.hostMay 1 0x050000 → ∃ t, exec (.crwSelWrite v) s = .next t ∧ answered s t 2 0
    ∧ (fldN v 0 10 < s.sizCores → t.crw.core = fld v 0 10 ∧ t.cause = s.cause
        ∧ t.crw.store = (if fldN v 16 2 = 3 then s.crw.store else fld v 16 2))
    ∧ (s.sizCores ≤ fldN v 0 10 → t.crw = s.crw ∧ t.causeOf .crw = s.causeOf .crw ||| 2)
    ∧ t.crw.offset = s.crw.offset ∧ { t.quiet s with crw := s.crw, cause := s.cause } = s)
  ∧ (∀ s : State, s.hostMay 1 0x050010 → ∃ t, exec .crwDataRead s = .next t
    ∧ (s.crwOpen = true → returned s t 1 (leBytes 8 s.crwWord.toNat) ∧ t.cause = s.cause ∧ t.crw = { s.crw with
        offset := BitVec.ofNat 16 ((s.crwOffset + 8) % crwSize s.crw.store / 8) })
    ∧ (s.crwOpen = false → returned s t 1 (leBytes 8 0) ∧ t.crw = s.crw ∧ t.causeOf .crw = s.causeOf .crw ||| 1)
    ∧ { t.quiet s with crw := s.crw, cause := s.cause } = s)
  ∧ (∀ (s : State) (v : Word), s.hostMay 2 0x050010 → ∃ t, exec (.crwDataWrite v) s = .next t ∧ answered s t 2 0
    ∧ (s.crwOpen = true → t.cause = s.cause ∧ t.crw = { s.crw with
        offset := BitVec.ofNat 16 ((s.crwOffset + 8) % crwSize s.crw.store / 8) })
    ∧ (s.crwOpen = true → s.crw.store = 2 → t.mem = s.mem
        ∧ t.headers = smPut 0 s.headers (s.crw.core.toNat * 32 + s.crwOffset / 8) v)
    ∧ (s.crwOpen = true → s.crw.store ≠ 2 → t.headers = s.headers
        ∧ t.bytes s.crwByte 8 = leBytes 8 v.toNat
        ∧ ∀ q, q < s.crwByte ∨ s.crwByte + 8 ≤ q → t.byte q = s.byte q)
    ∧ (s.crwOpen = false → t.mem = s.mem ∧ t.headers = s.headers ∧ t.crw = s.crw
        ∧ t.causeOf .crw = s.causeOf .crw ||| 1))
  ∧ (∀ s : State, s.hostMay 1 0x160020 → ∃ t, exec .mgtFlashdataRead s = .next t
    ∧ returned s t 1 (leBytes 8 s.certWord.toNat) ∧ t.quiet s = { s with mgt := { s.mgt with offset := s.mgt.offset + 1 } })
  ∧ (∀ s : State, s.sec.session = none → s.sys.standby = true → ∃ t, exec .mgtFlashdataRead s = .next t
    ∧ t.sent = s.sent ++ [.smbus s.certWord] ∧ t.quiet s = { s with mgt := { s.mgt with offset := s.mgt.offset + 1 } })
  ∧ (∀ s : State, s.hostMay 1 0x100008 → ∃ t, exec .timCtrlClear s = .next t ∧ answered s t 2 0
    ∧ t.quiet s = { s with tim := { s.tim with ring := [], closed := 0 } })
  ∧ (∀ (s : State) (d : BitVec 24), s.hostMay 1 0x0A0010 → ∃ t, exec (.mdvCtrlRetrain d) s = .next t ∧ answered s t 2 0
    ∧ (s.stopped .mdv = true → t.mdv = { s.mdv with trained := d }
        ∧ t.causeOf .mdv = s.causeOf .mdv ||| (if d = 0xFFFFFF then 0 else 0x10))
    ∧ (s.stopped .mdv = false → t.mdv = s.mdv ∧ t.cause = s.cause)
    ∧ { t.quiet s with mdv := s.mdv, cause := s.cause } = s)
  ∧ (∀ (s : State) (pspace : Bool) (addr : Word) (l : List Nat) (n : Nat) (d : List Byte),
    (s.port 7).isUp = true → s.sec.session.isSome = true → (if pspace then 2 else 1) ≤ s.priv.toNat → s.sys.ps ≠ 2 →
    s.answersWait → requestOk addr n = true → d.length = n → s.hostRun pspace addr.toNat n = some l →
    let ps := l.filterMap s.canon
    let same (t : State) : Prop := t.mem = s.mem ∧ t.headers = s.headers
    let rest (t : State) : Prop := t.headers = s.headers ∧ t.cnd = s.cnd ∧ t.fn = s.fn ∧ t.bnk = s.bnk ∧ t.cast = s.cast
    let asked (t : State) (write : Bool) (op : BitVec 8) (qs : List Nat) : Prop := ∀ r ∈ t3Runs (qs.filter isT3),
      s.asked t write (r.1 / 64 * 64) ((r.1 + r.2 + 63) / 64 * 64 - r.1 / 64 * 64) (.host op addr s.lnk.nextId qs)
    (s.memWaits .hostRead pspace addr n = false →
      let mrd := exec (.mrd pspace addr (BitVec.ofNat 16 n)) s
      ((∃ q ∈ l, s.closedAt false q = true) → ∃ t, mrd = .next t ∧ answered s t 3 4
        ∧ t.causeOf .lnk = s.causeOf .lnk ||| 0x100 ∧ { t.quiet s with cause := s.cause } = s)
      ∧ ((∀ q ∈ l, s.closedAt false q = false) → (∃ q ∈ ps, s.testedAt q = true) →
        ∃ t, mrd = .next t ∧ answered s t 3 7 ∧ t.quiet s = s)
      ∧ ((∀ q ∈ l, s.closedAt false q = false) → (∀ q ∈ ps, s.testedAt q = false) →
        ∃ t, mrd = .next t ∧ t.mem = s.mem ∧ rest t
          ∧ ((∀ q ∈ ps, isT3 q = false) → ∃ m : HostMsg, replied s t [m] ∧ m.op = 3 ∧ m.status = s.hostStatus ps
              ∧ m.off = 0 ∧ m.last = true ∧ m.data = ps.map s.readByte)
          ∧ ((∃ q ∈ ps, isT3 q = true) → asked t false 3 ps)
          ∧ ((∀ q ∈ ps, s.unsealedAt q = false ∧ isT3 q = false) → (∀ c ∈ s.badCols ps, s.doubleCol c = false) →
              t.cause = s.cause)
          ∧ ((∃ q ∈ ps, s.unsealedAt q = true) → bitAt (t.causeOf .mdv) 1 = true)))
    ∧ (s.memWaits .hostWrite pspace addr n = false →
      let mwr := exec (.mwr pspace addr d) s
      let u := s.writtenPages pspace addr.toNat n ps
      let shut := (∃ q ∈ l, s.closedAt true q = true ∧ s.dropsWrite q = false) ∨ s.hostRefused ps = true
      let refused (t : State) (b : Blk) (k : Nat) : Prop :=
        mwr = .next t ∧ answered s t 4 2 ∧ t.causeOf b = s.causeOf b ||| (1 <<< k) ∧ same t
      (s.hostLines pspace addr n ≠ [] → ∃ t, mwr = .next t ∧ same t ∧ t.sec = s.sec)
      ∧ (s.hostLines pspace addr n = [] →
        (shut → ∃ t, mwr = .next t ∧ answered s t 4 4 ∧ t.causeOf .lnk = s.causeOf .lnk ||| 0x100 ∧ same t)
        ∧ (¬ shut → (∃ q ∈ ps, s.testedAt q = true) → ∃ t, mwr = .next t ∧ answered s t 4 7 ∧ t.quiet s = s)
        ∧ (¬ shut → (∀ q ∈ ps, s.testedAt q = false) →
          ((s.imageHit ps).isSome = true → ∃ t, refused t .tmv 5)
          ∧ (s.imageHit ps = none → (∃ k ∈ u, s.inputBusy k = true) → ∃ t, refused t .tir 1)
          ∧ (s.imageHit ps = none → (∀ k ∈ u, s.inputBusy k = false) → (s.windowHit ps).isSome = true →
              ∃ t, refused t .mdv 2)
          ∧ (s.imageHit ps = none → (∀ k ∈ u, s.inputBusy k = false) → s.windowHit ps = none →
            s.storeBlocked ps = true → ∃ t, mwr = .next t ∧ answered s t 4 3 ∧ t.headers = s.headers)
          ∧ (s.imageHit ps = none → (∀ k ∈ u, s.inputBusy k = false) → s.windowHit ps = none →
            s.storeBlocked ps = false →
            let k := (s.keptBytes (l.zip d)).filterMap (fun q => (s.canon q.1).map (fun c => (c, q.2)))
            ∃ t, mwr = .next t ∧ rest t
              ∧ t.mem = (s.storeBytes .host (if pspace then none else some addr.toNat) k).mem
              ∧ ((∀ q ∈ k, isT3 q.1 = false) → answered s t 4 0)
              ∧ ((∃ q ∈ k, isT3 q.1 = true) → asked t true 4 (k.map (·.1))))))))
  ∧ (∀ (s : State) (pspace : Bool) (addr : Word) (n : Nat) (d : List Byte),
    (s.port 7).isUp = true → s.sec.session.isSome = true → (if pspace then 2 else 1) ≤ s.priv.toNat → s.sys.ps ≠ 2 →
    requestOk addr n = true → d.length = n →
    (s.memWaits .hostRead pspace addr n = true → exec (.mrd pspace addr (BitVec.ofNat 16 n)) s = .next s)
    ∧ (s.memWaits .hostWrite pspace addr n = true → exec (.mwr pspace addr d) s = .next s)
    ∧ (s.hostRun pspace addr.toNat n = none → s.answersWait →
      (∃ t, exec (.mrd pspace addr (BitVec.ofNat 16 n)) s = .next t ∧ answered s t 3 4
        ∧ t.causeOf .tmv = s.causeOf .tmv ||| 4 ∧ { t.quiet s with cause := s.cause } = s)
      ∧ (∃ t, exec (.mwr pspace addr d) s = .next t ∧ answered s t 4 4
        ∧ t.causeOf .tmv = s.causeOf .tmv ||| 4 ∧ { t.quiet s with cause := s.cause } = s)))

/-! ## Memory devices -/

/-- R210, R213, R219, R222, R223, R229: refresh, tracking, service at a boundary, scrub, repair, temperature. -/
def Obligations.MemoryDeviceEvents : Prop :=
  (∀ (s : State) (bank : Nat) (postpone : Bool), s.mainOn = true →
    let n := s.postponed bank
    let wait := postpone || s.coreRuns bank
    let pause := decide (8 ≤ n) && s.mayPause bank
    ∃ t, exec (.refresh bank postpone) s = .next t
      ∧ t.postponed bank = (if wait then min (n + 1) (max n 8) else 0)
      ∧ smGet 0 t.mdv.refreshed bank = (if wait then (if n < 8 ∨ (s.coreRuns bank = true ∧ pause = false) then smGet 0 s.mdv.refreshed bank
          else (smGet 0 s.mdv.refreshed bank + 8) % 65536) else (smGet 0 s.mdv.refreshed bank + 8 * (n + 1)) % 65536)
      ∧ (∀ b, b ≠ bank → t.postponed b = s.postponed b ∧ smGet 0 t.mdv.refreshed b = smGet 0 s.mdv.refreshed b)
      ∧ t.core bank = (if pause then { s.core bank with ran := false, serving := none } else s.core bank)
      ∧ (∀ b, b ≠ bank → t.core b = s.core b)
      ∧ { t with mdv := { t.mdv with postponed := s.mdv.postponed, refreshed := s.mdv.refreshed },
                 bnk := { t.bnk with cores := s.bnk.cores } } = s)
  ∧ (∀ (s : State) (dev ch : Nat), exec (.interfaceTracking dev ch) s = .next s)
  ∧ (∀ (s : State) (bank : Nat) (waiting : List ServiceClass),
    ((s.core bank).run = none ∨ (s.core bank).ran = false ∨ s.chosen bank waiting = none →
      exec (.bankBoundaryService bank waiting) s = .next s)
    ∧ (∀ k, (s.core bank).run.isSome = true → (s.core bank).ran = true → s.chosen bank waiting = some k →
      ∃ t, exec (.bankBoundaryService bank waiting) s = .next t
        ∧ t.core bank = { s.core bank with
            ran := false, serving := if k = .refresh ∨ k = .refreshAtLimit then none else some k }
        ∧ (∀ b, b ≠ bank → t.core b = s.core b)
        ∧ k ∈ waiting ∧ s.mayServe bank k = true
        ∧ (k = .refresh ∨ k = .refreshAtLimit → t.postponed bank = s.postponed bank - 1
            ∧ smGet 0 t.mdv.refreshed bank = (smGet 0 s.mdv.refreshed bank + 8) % 65536)
        ∧ (k ≠ .refresh → k ≠ .refreshAtLimit → t.mdv = s.mdv)
        ∧ t.mem = s.mem ∧ t.cause = s.cause))
  ∧ (∀ (s : State) (row : Nat), s.mainOn = true → s.scrubHours ≠ 0 → row = s.mdv.scrubNext → row < 15360 * 65536 →
    let p := t2Base + row * 2048
    let skip := s.unsealedAt p || s.inWindow (t2Place p).1 (t2Place p).2.1
    let syn (i : Nat) : Syndrome := readSyndrome (s.syndAt (p + 32 * i))
    ∃ t, exec (.scrubRead row) s = .next t ∧ t.mdv.scrubNext = (row + 1) % (15360 * 65536)
      ∧ (skip = true ∨ (∀ i, i < 64 → syn i = .clean) →
          t.mem = s.mem ∧ t.cause = s.cause ∧ t.mdv = { s.mdv with scrubNext := t.mdv.scrubNext })
      ∧ (∀ k pos i, skip = false → k < 64 → syn k = .single pos → dataBitAt pos = some i →
          (∀ m, m < 64 → m ≠ k → syn m = .clean) →
          t.column (p + 32 * k) = s.column (p + 32 * k) ^^^ ((1 : Wide) <<< i)
          ∧ (∀ q, q < p + 32 * k ∨ p + 32 * k + 32 ≤ q → t.byte q = s.byte q)
          ∧ smGet 0 t.mdv.diff (colOf (p + 32 * k)) = 0 ∧ lo32 t.mdv.ce = min (lo32 s.mdv.ce + 1) 0xFFFFFFFF
          ∧ t.cause = s.cause)
      ∧ (∀ k, skip = false → k < 64 → syn k = .double → (∀ m, m < 64 → m ≠ k → syn m = .clean) →
          t.mem = s.mem ∧ t.causeOf .mdv = s.causeOf .mdv ||| 8
          ∧ lo32 t.mdv.ue = min (lo32 s.mdv.ue + 1) 0xFFFFFFFF))
  ∧ (∀ (s : State) (v : Word) (r : Repair), s.hostMay (if bitAt v 62 = false ∧ bitAt s.mdv.repair 62 = true then 3 else 2) 0x0A0068 →
    repairTarget v = some r →
    let may := s.stopped .mdv && !s.mdv.busy && (!r.hard || decide (3 ≤ s.priv.toNat))
    ∃ t, exec (.mdvRepairGo v) s = .next t ∧ answered s t 2 0
      ∧ (may = true → s.sparesAt r.bank r.row ≠ 0 → t.mdv.busy = true ∧ t.mdv.result = 0
          ∧ t.mdv.repair = v &&& 0x4000000FFFFFFFE0 ∧ t.cause = s.cause)
      ∧ (may = true → s.sparesAt r.bank r.row = 0 → t.mdv.result = 3 ∧ t.mdv.busy = s.mdv.busy
          ∧ t.mdv.repair = s.mdv.repair ∧ t.causeOf .mdv = s.causeOf .mdv ||| 0x40)
      ∧ (may = false → t.mdv.result = 2 ∧ t.mdv.busy = s.mdv.busy ∧ t.mdv.repair = s.mdv.repair
          ∧ t.causeOf .mdv = s.causeOf .mdv ||| 0x40)
      ∧ { t.quiet s with mdv := s.mdv, cause := s.cause } = s)
  ∧ (∀ s : State, s.mdv.busy = false ∨ s.stopped .mdv = false → exec .repairComplete s = .next s)
  ∧ (∀ (s : State) (r : Repair), s.mdv.busy = true → s.stopped .mdv = true → repairTarget s.mdv.repair = some r →
    let p := bankAddr r.bank r.row 0
    ∃ t, exec .repairComplete s = .next t ∧ t.mdv.busy = false ∧ t.mdv.result = 1
      ∧ (r.hard = true → t.flash = { s.flash with hard := s.flash.hard ++ [r] } ∧ t.mdv.repairs = s.mdv.repairs)
      ∧ (r.hard = false → t.flash = s.flash ∧ t.mdv.repairs = s.mdv.repairs ++ [r])
      ∧ (∀ q, q < p ∨ p + 2048 ≤ q → t.byte q = s.byte q)
      ∧ ((∀ i, i < 64 → readSyndrome (s.syndAt (p + 32 * i)) = .clean) → t.mem = s.mem)
      ∧ { t with mdv := s.mdv, flash := s.flash, mem := s.mem } = s)
  ∧ (∀ (s : State) (dev : Nat) (temp : BitVec 8), dev < 24 →
    ∃ t, exec (.memoryDieTemperatureCrossing dev temp) s = .next t
      ∧ t.devTemp dev = temp ∧ (∀ d, d ≠ dev → t.devTemp d = s.devTemp d)
      ∧ t.activeLimits dev = (if 95 ≤ temp.toNat then (80, 4) else (160, 8))
      ∧ t.causeOf .mdv = s.causeOf .mdv ||| (if 95 ≤ temp.toNat ∧ bitAt s.mdv.hot dev = false then 0x20 else 0)
      ∧ { t.quiet s with mdv := { t.mdv with temp := s.mdv.temp, hot := s.mdv.hot }, cause := s.cause } = s)

/-- R24, R227, R228, R311: uncorrectable errors, and the stop of the phase at the next beat edge. -/
def Obligations.UncorrectableErrors : Prop :=
  (∀ (s : State) (e : UncorrInfo), s.mainOn = true →
    e.source ∈ [ErrSource.sheet, .conductor, .tier, .bankCore, .host, .scrub, .link, .remote] →
    ∃ t, exec (.uncorrectableError e) s = .next t ∧ t.mem = s.mem ∧ t.headers = s.headers
      ∧ lo32 t.mdv.ue = min (lo32 s.mdv.ue + 1) 0xFFFFFFFF
      ∧ (s.castSource e.source = true → bitAt (t.causeOf .mdv) 0 = true
          ∧ t.mdv.uncorr = some (s.mdv.uncorr.getD s.bea.count.toNat)
          ∧ (e.source = .bankCore → e.bank ∈ t.mdv.stopCores))
      ∧ (s.castSource e.source = false → bitAt (t.causeOf .mdv) 3 = true ∧ t.mdv.uncorr = s.mdv.uncorr)
      ∧ (e.source = .host → t.mdv.hostErr = columnOf e :: s.mdv.hostErr)
      ∧ (e.source = .conductor → s.cnd.adm = .admitting → t.cnd = { s.cnd with adm := .refused }
          ∧ t.causeOf .cnd = s.causeOf .cnd ||| 2)
      ∧ (e.source ≠ .conductor → t.cnd = s.cnd) ∧ t.sheet = s.sheet ∧ t.fn = s.fn ∧ t.cast = s.cast)
  ∧ (∀ (s : State) (e : UncorrInfo), s.mainOn = true → e.source = .foil →
    ∃ t, exec (.uncorrectableError e) s = .next t ∧ bitAt (t.causeOf .fol) 3 = true
      ∧ hi32 t.fol.crc = min (hi32 s.fol.crc + 1) 0xFFFFFFFF
      ∧ (s.castRuns = true → t.mdv.uncorr = some (s.mdv.uncorr.getD s.bea.count.toNat))
      ∧ t.mem = s.mem ∧ t.cnd = s.cnd ∧ t.sheet = s.sheet)
  ∧ (∀ (s : State) (e : UncorrInfo), s.mainOn = true →
    (∃ c off, e.source = .tileStore c off ∨ e.source = .gbuffer c off) ∨ (∃ c op, e.source = .program c op)
      ∨ e.source = .bankStore →
    ∃ t, exec (.uncorrectableError e) s = .next t ∧ t.mem = s.mem ∧ t.headers = s.headers ∧ t.cnd = s.cnd
      ∧ (∀ c off, e.source = .tileStore c off ∨ e.source = .gbuffer c off →
          t.causeOf .ary = s.causeOf .ary ||| 0x10
          ∧ (recordFree s .ary (bitAt s.sheet.fault 0) = true →
              t.sheet.fault = faultWord 0x40 0 0 c.toNat 1 ∧ t.sheet.faultAddr.toNat = off.toNat))
      ∧ (∀ c op, e.source = .program c op → t.causeOf .vec = s.causeOf .vec ||| 8
          ∧ (recordFree s .vec (bitAt s.vec.fault 0) = true →
              t.vec.fault = faultWord 0x40 0 0 c.toNat (2 ^ 4 * op.toNat + 1)))
      ∧ (e.source = .bankStore → e.bank ∈ t.mdv.stopCores)
      ∧ t.mdv.uncorr = (if s.castRuns then some (s.mdv.uncorr.getD s.bea.count.toNat) else s.mdv.uncorr))
  ∧ (∀ (s : State), (s.mdv.uncorr = none → exec .uncorrPhaseStop s = .next s)
    ∧ (∀ b, s.mdv.uncorr = some b →
      (s.bea.count.toNat ≤ b → exec .uncorrPhaseStop s = .next s)
      ∧ (b < s.bea.count.toNat → ∃ t, exec .uncorrPhaseStop s = .next t ∧ t.mdv.uncorr = none ∧ t.mdv.stopCores = []
        ∧ (s.castRuns = true → t.fnState .cnd = .stopped ∧ t.fnState .ary = .stopped ∧ t.cnd.adm = .held
            ∧ t.cnd.why = 6 ∧ t.tmv.map = .held ∧ bitAt (t.causeOf .cnd) 9 = true
            ∧ t.sheet.qF = [] ∧ t.sheet.qB = [] ∧ t.sheet.qH = [] ∧ t.sheet.issued = [] ∧ t.sheet.sbars = []
            ∧ t.sheet.fbars = [] ∧ t.bnk.launches = [] ∧ t.tmv.queue = [] ∧ t.cnd.deliv = []
            ∧ (∀ b, (t.core b).run = none) ∧ (∀ x ∈ t.tir.slots, x.valid = false)
            ∧ t.cnd.g = s.cnd.g ∧ t.cnd.sm = s.cnd.sm ∧ t.cnd.pc = s.cnd.pc ∧ t.cast = s.cast)
        ∧ (s.castRuns = false → t = { s with mdv := { s.mdv with uncorr := none, stopCores := [] } }))))

/-! ## Bank programs -/

/-- R231 to R233: the scalar instructions and branches of a bank core, and the transfers between its registers. -/
def Obligations.BankScalarInstructions : Prop :=
  ∀ (s : State) (bank : Nat) (body : Body) (r : BankRun),
    let c := s.core bank
    (∀ p ∈ bankScalarTable, s.atBank bank r (p.2.1 ++ body) → ∃ t d, exec (p.1 bank body) s = .next t
      ∧ bankStep s t bank r d ∧ scalarSet c d (sBd body) (p.2.2 (c.reg (sBa body)) (c.reg (sBb body)) body))
    ∧ (∀ p ∈ bankBranchTable, s.atBank bank r (p.2.1 ++ body) → r.plen ≤ 1024 → ∃ t d, exec (p.1 bank body) s = .next t
      ∧ bankStep s t bank r d ∧ { d with pc := c.pc } = c
      ∧ (p.2.2 (c.reg (sBa body)) (c.reg (sBb body)) →
          (0 ≤ (c.pc : Int) + 1 + (fld body 0 14 : BitVec 14).toInt →
            (d.pc : Int) = c.pc + 1 + (fld body 0 14 : BitVec 14).toInt)
          ∧ ((c.pc : Int) + 1 + (fld body 0 14 : BitVec 14).toInt < 0 → 1024 ≤ d.pc))
      ∧ (¬ p.2.2 (c.reg (sBa body)) (c.reg (sBb body)) → d.pc = c.pc + 1))
    ∧ (s.atBank bank r ((0x0C : BitVec 6) ++ body) → ∃ t d v, exec (.bankWbc bank body) s = .next t
      ∧ bankStep s t bank r d ∧ wideSet c d (xW body) v {}
      ∧ ∀ i, i < 8 → (laneAt 32 v i).toNat = (c.reg (xB body)).toNat / 2 ^ (32 * xSel body) % 2 ^ 32)
    ∧ (s.atBank bank r ((0x0D : BitVec 6) ++ body) → ∃ t d v, exec (.bankWins bank body) s = .next t
      ∧ bankStep s t bank r d ∧ wideSet c d (xW body) v {} ∧ laneAt 64 v (xSel body) = c.reg (xB body)
      ∧ ∀ i, i < 4 → i ≠ xSel body → laneAt 64 v i = laneAt 64 (c.wide (xW body)) i)
    ∧ (s.atBank bank r ((0x0E : BitVec 6) ++ body) → ∃ t d, exec (.bankWext bank body) s = .next t
      ∧ bankStep s t bank r d ∧ scalarSet c d (xB body) (laneAt 64 (c.wide (xW body)) (xSel body)))
    ∧ (s.atBank bank r ((0x0F : BitVec 6) ++ body) → ∃ t d, exec (.bankWcrc bank body) s = .next t
      ∧ bankStep s t bank r d ∧ scalarSet c d (xB body) (crc64 (c.reg (xB body))
          ((leBytes 32 (c.wide (xW body)).toNat).take (if xSel body = 0 then 32 else 16))))

/-- R233 to R235: the wide instructions of a bank core, lane by lane. -/
def Obligations.BankWideInstructions : Prop :=
  ∀ (s : State) (bank : Nat) (body : Body) (r : BankRun),
    let c := s.core bank
    let rd : BitVec 5 := fld body 21 5
    let wa (i : Nat) : BitVec 32 := laneAt 32 (c.wide (vA body)) i
    let wb (i : Nat) : BitVec 32 := laneAt 32 (c.wide (vB body)) i
    let wc (i : Nat) : BitVec 32 := laneAt 32 (c.wide (vC body)) i
    (∀ p ∈ bankFpTable, s.atBank bank r (p.2.1 ++ body) → ∃ t d v f, exec (p.1 bank body) s = .next t
      ∧ bankStep s t bank r d ∧ wideSet c d rd v f
      ∧ (∀ i, i < 8 → laneAt 32 v i = (p.2.2.2 (wa i) (wb i) (wc i)).bits)
      ∧ (f.nv = true ↔ ∃ i, i < 8 ∧ (p.2.2.2 (wa i) (wb i) (wc i)).nv = true)
      ∧ (f.dz = true ↔ ∃ i, i < 8 ∧ (p.2.2.2 (wa i) (wb i) (wc i)).dz = true)
      ∧ (f.of = true ↔ ∃ i, i < 8 ∧ (p.2.2.2 (wa i) (wb i) (wc i)).of = true)
      ∧ (f.uf = true ↔ ∃ i, i < 8 ∧ (p.2.2.2 (wa i) (wb i) (wc i)).uf = true)
      ∧ (f.nf = true ↔ ∃ i, i < 8 ∧ ((p.2.2.2 (wa i) (wb i) (wc i)).nf = true
          ∨ ∃ x ∈ ([wa i, wb i, wc i]).take p.2.2.1, (f32Num x).isFin = false)))
    ∧ (∀ p ∈ bankIntTable, s.atBank bank r (p.2.1 ++ body) → ∃ t d v, exec (p.1 bank body) s = .next t
      ∧ bankStep s t bank r d ∧ wideSet c d rd v {} ∧ ∀ i, i < 8 → laneAt 32 v i = p.2.2 (wa i) (wb i))
    ∧ (s.atBank bank r ((0x2E : BitVec 6) ++ body) → ∃ t d v, exec (.bankWcat bank body) s = .next t
      ∧ bankStep s t bank r d ∧ wideSet c d rd v {} ∧ ∀ i, i < 8 → laneAt 32 v i
          = laneAt 16 (c.wide (vA body)) (8 * vP body + i) ++ laneAt 16 (c.wide (vB body)) (8 * vP body + i))
    ∧ (∀ p ∈ [((Instr.bankWhi, 0x2F, 16) : (Nat → Body → Instr) × BitVec 6 × Nat), (.bankWlo, 0x30, 0)],
      s.atBank bank r (p.2.1 ++ body) → ∃ t d v, exec (p.1 bank body) s = .next t
      ∧ bankStep s t bank r d ∧ wideSet c d rd v {}
      ∧ (∀ i, i < 8 → laneAt 16 v (8 * vP body + i) = fld (wa i) p.2.2 16)
      ∧ ∀ i, i < 16 → i / 8 ≠ vP body → laneAt 16 v i = laneAt 16 (c.wide rd) i)
    ∧ (s.atBank bank r ((0x31 : BitVec 6) ++ body) →
      let lane (i : Nat) := kaddLane (wa i) (wb i) (laneAt 8 (c.wide (vC body)) (8 * vP body + i))
      ∃ t d, exec (.bankKadd bank body) s = .next t ∧ bankStep s t bank r d
      ∧ (∀ i, i < 8 → laneAt 32 (d.wide rd) i = (lane i).1)
      ∧ (rd ≠ vC body → (∀ i, i < 8 → laneAt 8 (d.wide (vC body)) (8 * vP body + i) = (lane i).2.1)
          ∧ ∀ i, i < 32 → i / 8 ≠ vP body → laneAt 8 (d.wide (vC body)) i = laneAt 8 (c.wide (vC body)) i)
      ∧ (∀ q, q ≠ rd → q ≠ vC body → d.wide q = c.wide q)
      ∧ { d with w := c.w, flags := c.flags } = { c with pc := c.pc + 1 }
      ∧ (d.flags.of = true ↔ c.flags.of = true ∨ ∃ i, i < 8 ∧ (lane i).2.2.of = true)
      ∧ (d.flags.uf = true ↔ c.flags.uf = true ∨ ∃ i, i < 8 ∧ (lane i).2.2.uf = true))

/-- R218, R220, R236 to R238, R245 to R247: bank loads, stores, row operations, the chain, the end and the faults of a
program. -/
def Obligations.BankMemoryChainAndEnd : Prop :=
  ∀ (s : State) (bank : Nat) (body : Body) (r : BankRun),
    let c := s.core bank
    let row := memRow c body
    let m := memSpan c body
    let at_ (op : BitVec 6) : Prop := s.atBank bank r (op ++ body)
    let went (t : State) (d : BankCore) : Prop :=
      t.core bank = { d with ran := true, serving := none, run := some { r with count := r.count + 1 } }
        ∧ (∀ b, b ≠ bank → t.core b = s.core b) ∧ t.cnd = s.cnd ∧ t.headers = s.headers
    (at_ 0x10 → row ≤ 65535 → ∃ t d, exec (.bankLdw bank body) s = .next t ∧ went t d ∧ t.mem = s.mem
      ∧ (s.syndAt (bankAddr bank row m.1) = 0 → bankStep s t bank r d)
      ∧ d.wide (xW body) = BitVec.ofNat 256 (leNat (s.readBytes (bankAddr bank row m.1) m.2)) ∧ d.row = some row
      ∧ (∀ q, q ≠ xW body → d.wide q = c.wide q) ∧ { d with w := c.w, row := c.row } = { c with pc := c.pc + 1 })
    ∧ (∀ p ∈ [((Instr.bankStw, 0x11) : (Nat → Body → Instr) × BitVec 6), (.bankStc, 0x12)], at_ p.2 →
      bank < 15360 →
      let first := bankAddr bank row m.1
      let span := (List.range m.2).map (first + ·)
      (r.mayWrite row = true → row ≤ 65535 → p.2 = 0x11 ∨ s.mdv.uncorr = none → ∃ t, exec (p.1 bank body) s = .next t
        ∧ went t { c with pc := c.pc + 1, row := some row }
        ∧ (∀ q, q < first / 32 * 32 ∨ first / 32 * 32 + 32 ≤ q → t.byte q = s.byte q)
        ∧ (∀ k, t.rowUnsealed k = s.rowUnsealed k)
        ∧ (s.mergeCols span = [] → t.cause = s.cause
          ∧ (∀ q, q < first ∨ first + m.2 ≤ q → t.byte q = s.byte q)
          ∧ (s.mdv.uncorr = none → t.bytes first m.2 = leBytes m.2 (c.wide (xW body)).toNat))
        ∧ (s.storeBlocked span = true → t.mem = s.mem ∧ lo32 t.mdv.ue = min (lo32 s.mdv.ue + 1) 0xFFFFFFFF))
      ∧ (r.mayWrite row = false → row ≤ 65535 → ∃ t, exec (p.1 bank body) s = .next t
        ∧ bankFaultStep s t bank r 0x32 3)
      ∧ (65535 < row → ∃ t, exec (p.1 bank body) s = .next t ∧ bankFaultStep s t bank r 0x31 3))
    ∧ (at_ 0x12 → r.mayWrite row = true → row ≤ 65535 → s.mdv.uncorr ≠ none → exec (.bankStc bank body) s = .next s)
    ∧ (at_ 0x10 → 65535 < row → ∃ t, exec (.bankLdw bank body) s = .next t ∧ bankFaultStep s t bank r 0x31 3)
    ∧ (at_ 0x14 → bank < 15360 →
      let l := rowNames c body
      let dst := (c.reg (rBd body)).toNat
      let img := s.rowImage bank
      let v := rowResult (rKind body) (img dst) (img (l.getD 1 dst)) (img (l.getD 2 dst))
      ((∀ x ∈ l, x ≤ 65535 ∧ x / 1024 = dst / 1024) → r.mayWrite dst = true →
        ∃ t, exec (.bankRowop bank body) s = .next t ∧ went t { c with pc := c.pc + 1, row := none }
          ∧ t.cause = s.cause ∧ (s.mdv.uncorr = none → t.bytes (bankAddr bank dst 0) 2048 = v.data)
          ∧ (∀ q, q < bankAddr bank dst 0 ∨ bankAddr bank dst 0 + 2048 ≤ q → t.byte q = s.byte q)
          ∧ (t.rowUnsealed (rowKey bank dst) = !v.sealed)
          ∧ (∀ k, k ≠ rowKey bank dst → t.rowUnsealed k = s.rowUnsealed k))
      ∧ ((∃ x ∈ l, 65535 < x) → ∃ t, exec (.bankRowop bank body) s = .next t ∧ bankFaultStep s t bank r 0x31 3)
      ∧ ((∀ x ∈ l, x ≤ 65535) → r.mayWrite dst = false →
        ∃ t, exec (.bankRowop bank body) s = .next t ∧ bankFaultStep s t bank r 0x32 3)
      ∧ ((∀ x ∈ l, x ≤ 65535) → r.mayWrite dst = true → (∃ x ∈ l, x / 1024 ≠ dst / 1024) →
        ∃ t, exec (.bankRowop bank body) s = .next t ∧ bankFaultStep s t bank r 0x33 3))
    ∧ (at_ 0x15 →
      let up := bank + 32
      let ok := dieOf bank ≠ 19 ∧ s.inLaunch r.launch up = true ∧ r.sent < 64
      (ok → ∃ t, exec (.bankChput bank body) s = .next t
        ∧ t.core bank = { c with
            pc := c.pc + 1, ran := true, serving := none, run := some { r with count := r.count + 1, sent := r.sent + 1 } }
        ∧ t.core up = { s.core up with flight := (s.core up).flight ++ [(r.launch, c.wide (xW body))] }
        ∧ (∀ b, b ≠ bank → b ≠ up → t.core b = s.core b)
        ∧ hi32 t.bnk.chain = min (hi32 s.bnk.chain + 1) 0xFFFFFFFF ∧ t.mem = s.mem ∧ t.cause = s.cause)
      ∧ (¬ ok → ∃ t, exec (.bankChput bank body) s = .next t ∧ bankFaultStep s t bank r 0x34 5))
    ∧ (at_ 0x16 →
      (∀ q, dieOf bank ≠ 0 → c.oldest r.launch = some q → ∃ t d, exec (.bankChget bank body) s = .next t
        ∧ bankStep s t bank r d ∧ d.wide (xW body) = q.2 ∧ (∀ x, x ≠ xW body → d.wide x = c.wide x)
        ∧ { d with w := c.w } = { c with pc := c.pc + 1, inbox := c.inbox.erase q })
      ∧ (dieOf bank ≠ 0 → c.oldest r.launch = none →
          (s.progAlive r.launch (bank - 32) = true ∨ ∃ q ∈ c.flight, q.1 = r.launch) →
          exec (.bankChget bank body) s = .next s)
      ∧ (dieOf bank = 0 ∨ c.oldest r.launch = none ∧ s.progAlive r.launch (bank - 32) = false
            ∧ (∀ q ∈ c.flight, q.1 ≠ r.launch) →
          ∃ t, exec (.bankChget bank body) s = .next t ∧ bankFaultStep s t bank r 0x34 5))
    ∧ (∀ q rest, c.flight = q :: rest → ∃ t, exec (.chainWordArrival bank) s = .next t
      ∧ t.core bank = { c with inbox := c.inbox ++ [q], flight := rest } ∧ (∀ b, b ≠ bank → t.core b = s.core b)
      ∧ { t with bnk := { t.bnk with cores := s.bnk.cores } } = s)
    ∧ (at_ 0x3F → ∃ t, exec (.bankEnd bank body) s = .next t ∧ t.core bank = { c with run := none }
      ∧ (∀ b, b ≠ bank → t.core b = s.core b) ∧ t.bnk.flags = s.bnk.flags ||| c.flags.bits
      ∧ hi32 t.bnk.done = min (hi32 s.bnk.done + 1) 0xFFFFFFFF
      ∧ (∀ l ∈ t.bnk.launches, l.seq = r.launch → ∀ p ∈ l.progs, p.bank = bank →
          p.state = .ended (some (c.reg (sBa body))) false c.flags)
      ∧ { t with bnk := s.bnk } = s)
    ∧ (∀ p ∈ [((Instr.bankAdd, 0x01) : (Nat → Body → Instr) × BitVec 6), (.bankStw, 0x11), (.bankEnd, 0x3F)],
      c.run = some r → s.mdv.stopCores.contains bank = false →
      (r.plen ≤ c.pc → ∃ t, exec (p.1 bank body) s = .next t ∧ bankFaultStep s t bank r 0x35 3)
      ∧ (c.pc < r.plen → r.budget ≤ r.count →
          ∃ t, exec (p.1 bank body) s = .next t ∧ bankFaultStep s t bank r 0x36 4))

/-- R222, R231, R239 to R245: launches, their start and their completion. -/
def Obligations.BankLaunches : Prop :=
  (∀ (s : State) (a : ArrayArgs) (e : QEnt), s.goes 0xA0 a (blaunchEffect a) e →
    let s1 := s.taken (secsOf a.sec) e
    let n := fldN a.c 0 24
    let rec_ := launchRec (s1.descWide (fldN a.a 0 16))
    let tag : BitVec 4 := fld a.a 16 4
    (∀ f, blaunchFlaw a s1 = some f → ∃ t, exec (.blaunch a) s = .next t ∧ refusedStep s t .bnk 0xA0 a e f)
    ∧ (blaunchFlaw a s1 = none → n = 0 → ∃ t, exec (.blaunch a) s = .next t ∧ wordStep s t 0xA0 a e
        ∧ t.bnk = s.bnk ∧ t.mem = s.mem ∧ ∀ d ∈ t.cnd.deliv, d.seq = e.seq → d.value = some 0)
    ∧ (blaunchFlaw a s1 = none → n ≠ 0 → ∃ t l, exec (.blaunch a) s = .next t ∧ wordStep s t 0xA0 a e
        ∧ t.bnk.launches = s.bnk.launches.filter (fun x => !(x.tag == tag && x.done)) ++ [l]
        ∧ l.seq = e.seq ∧ l.tag = tag ∧ l.pstart = rec_.pstart ∧ l.plen = rec_.plen ∧ l.budget = rec_.budget
        ∧ l.step = e.step ∧ l.done = false ∧ l.params = s1.paramWords rec_ ∧ l.progs.length = n
        ∧ (∀ p ∈ l.progs, p.state = .pending)
        ∧ l.progs.map (fun p => (p.bank, p.wrow, p.wlen, p.arg))
            = (s1.bankList rec_.list (fldN a.b 0 24) n).map (fun q => (q.bank, q.wrow, q.wlen, q.arg))
        ∧ (bitAt a.flg 4 = true → t.sheet.holdH = some e.seq
            ∧ ∀ w ∈ t.sheet.issued, w.seq = e.seq → w.hold = .launch e.seq (combOf a.flg))
        ∧ t.bnk.cores = s.bnk.cores ∧ t.mem = s.mem ∧ t.headers = s.headers))
  ∧ (∀ (s : State) (a : ArrayArgs) (e : QEnt), s.issuing 0xA1 a = some e →
    let on := s.bnk.launches.filter (fun l => l.tag == fld a.a 0 4)
    (∀ f, bwaitFlaw a = some f → ∃ t, exec (.bwait a) s = .next t ∧ refusedStep s t .bnk 0xA1 a e f)
    ∧ (bwaitFlaw a = none → ∃ t, exec (.bwait a) s = .next t ∧ wordStep s t 0xA1 a e ∧ t.bnk = s.bnk ∧ t.mem = s.mem
      ∧ (on = [] → ∀ d ∈ t.cnd.deliv, d.seq = e.seq → d.value = some 0)
      ∧ (∀ l, on.getLast? = some l → l.done = true →
          ∀ d ∈ t.cnd.deliv, d.seq = e.seq → d.value = some (l.value (combOf a.flg)))
      ∧ (∀ l, on.getLast? = some l → l.done = false →
          ∀ w ∈ t.sheet.issued, w.seq = e.seq → w.hold = .launch l.seq (combOf a.flg))))
  ∧ (∀ (s : State) (bank : Nat),
    (s.bankWaits bank = false ∨ s.mdv.uncorr ≠ none ∨ s.hasRoom bank = false ∨ s.lowerWaits bank = true →
      exec (.bankProgramStart bank) s = .next s)
    ∧ (∀ l p, s.mayStart bank = some (l, p) → s.mdv.uncorr = none → s.hasRoom bank = true → s.lowerWaits bank = false →
      ∃ t, exec (.bankProgramStart bank) s = .next t
        ∧ (t.core bank).run = some ⟨l.seq, l.tag, p.wrow, p.wlen, l.pstart, l.plen, l.budget, 0, 0⟩
        ∧ (t.core bank).pc = 0 ∧ (t.core bank).flags = {} ∧ (t.core bank).inbox = (s.core bank).inbox
        ∧ (t.core bank).reg 1 = p.arg ∧ (t.core bank).reg 2 = BitVec.ofNat 64 p.wrow
        ∧ (t.core bank).reg 3 = BitVec.ofNat 64 p.wlen ∧ (t.core bank).reg 4 = l.step
        ∧ (∀ i : BitVec 4, i.toNat = 0 ∨ 5 ≤ i.toNat ∧ i.toNat ≤ 7 → (t.core bank).reg i = 0)
        ∧ (∀ i : BitVec 4, 8 ≤ i.toNat → (t.core bank).reg i = l.params.getD (i.toNat - 8) 0)
        ∧ (∀ i, (t.core bank).wide i = 0) ∧ (t.core bank).held = some (l.pstart, l.plen)
        ∧ (∀ b, b ≠ bank → { t.core b with held := (s.core b).held } = s.core b)
        ∧ (∀ b, b / 640 ≠ bank / 640 → t.core b = s.core b)
        ∧ (∀ x ∈ t.bnk.launches, x.seq = l.seq → ∀ q ∈ x.progs, q.bank = bank → q.state = .running)
        ∧ { t with bnk := s.bnk } = s)
    ∧ (s.mayStart bank = none → s.workMayStart bank = true → s.mdv.uncorr = none → s.hasRoom bank = true →
      s.lowerWaits bank = false → ∃ t, exec (.bankProgramStart bank) s = .next t
        ∧ (∀ w, t.bnk.work = some w → ∀ k ∈ w.tasks, k.bank = bank → k.started = true)
        ∧ { t with bnk := { t.bnk with work := s.bnk.work } } = s))
  ∧ (∀ (s : State) (tag : BitVec 4) (l : Launch), s.bnk.launches.find? (fun x => x.tag == tag && !x.done) = some l →
    (l.finished = false → exec (.launchComplete tag) s = .next s)
    ∧ (l.finished = true → ∃ t, exec (.launchComplete tag) s = .next t
      ∧ (∀ x ∈ t.bnk.launches, x.seq = l.seq → x.done = true)
      ∧ lo32 t.bnk.done = min (lo32 s.bnk.done + 1) 0xFFFFFFFF
      ∧ (∀ b, ∀ q ∈ (t.core b).inbox ++ (t.core b).flight, q.1 ≠ l.seq)
      ∧ (∀ w ∈ s.sheet.issued, ∀ comb, w.hold = .launch l.seq comb →
          (∀ d ∈ t.cnd.deliv, d.seq = w.seq → d.value.isSome = true)
          ∧ ∀ x ∈ t.sheet.issued, x.seq = w.seq → x.hold = .none)
      ∧ t.mem = s.mem ∧ t.cause = s.cause))

/-! ## The update -/

/-- R265 to R267, R273, R280: GFLUSH. -/
def Obligations.GradientFlush : Prop :=
  ∀ (s : State) (a : ArrayArgs) (e : QEnt), s.goes 0xA4 a (gflushEffect a) e →
    let s1 := s.taken (secsOf a.sec) e
    let j := flushJob a s1
    (∀ f, gflushChecks a s1 = some f → ∃ t, exec (.gflush a) s = .next t ∧ refusedStep s t .upd 0xA4 a e f)
    ∧ (gflushChecks a s1 = none → ∃ t, exec (.gflush a) s = .next t ∧ wordStep s t 0xA4 a e ∧ t.formed e.seq
        ∧ t.cnd.sm = s.cnd.sm ∧ t.fn = s.fn ∧ t.bnk = s.bnk
        ∧ (j.zeroWork = true → t.mem = s.mem ∧ t.headers = s.headers ∧ t.upd = s.upd)
        ∧ (∀ k, (∀ c ∈ j.cores s1, ∀ r ∈ j.tiles, k ≠ hdrKey c.c r.t) → smGet 0 t.headers k = smGet 0 s.headers k))
    ∧ (∀ (c : CoreAt) (pz : List Nat), gflushChecks a s1 = none → j.cores s1 = [c] → j.z.tr = 1 → j.z.tc = 1 →
        j.z.tp = 1 → j.z.slagm = false → j.ns = none →
        let r : ResTile := ⟨j.gb, 0, 0, 0⟩
        let uz := j.zSlot r c
        let ue := j.eSlot r c
        let b := j.block r c
        let code := s1.scaleCode j.scale c b
        let ecode := s1.scaleCode j.escale c b
        let bytes (l : List Int) : List Byte := l.map (fun i => BitVec.ofInt 8 i)
        let acc := s1.acc c.c j.gb
        let nonFin := acc.high = true ∨ (acc.f32 = true ∧ ∃ i ∈ acc.vals, (fp32Val i.toNat).isFin = false) ∨ code = 255 ∨ ecode = 255
        let lines := [(scaleAt j.scale c b, 1, j.scale.index), (scaleAt j.escale c b, 1, j.escale.index)]
        (∀ q ∈ lines, s1.needFails ⟨q.1, q.2.1, false, q.2.2, false⟩ = false) →
        s1.needFails ⟨uz, j.z.size, true, j.z.index, false⟩ = false → s1.slotOpen uz.toNat 1024 pz →
        (nonFin →
          let m := s1.putBytes (pz.zip (List.replicate 1024 0))
          ∃ t, exec (.gflush a) s = .next t ∧ t.mem = (m.clearTile c.c j.gb).mem
            ∧ t.headers = (m.clearTile c.c j.gb).headers ∧ bitAt (t.causeOf .upd) 3 = true
            ∧ ∀ d ∈ t.cnd.deliv, d.seq = e.seq → d.value = some 1)
        ∧ (∀ pe, ¬ nonFin →
          s1.needFails ⟨ue, j.e.size, true, j.e.index, false⟩ = false →
          let l := (acc.flushValues.zip (s1.slotBytes ue.toNat j.e.size)).map
            (fun q => flushElem code ecode q.1 q.2.toNat)
          l.length = 1024 →
          let m1 := s1.putBytes (pz.zip (bytes (l.map (·.q))))
          m1.slotOpen ue.toNat 1024 pe →
          let m2 := m1.putBytes (pe.zip (bytes (l.map (·.e))))
          let gs := (l.filter (·.gsat)).length
          let es := (l.filter (·.esat)).length
          ∃ t, exec (.gflush a) s = .next t ∧ t.mem = (m2.clearTile c.c j.gb).mem
            ∧ t.headers = (m2.clearTile c.c j.gb).headers
            ∧ (gs = 0 → es = 0 → t.causeOf .upd = s.causeOf .upd) ∧ (gs ≠ 0 ∨ es ≠ 0 → bitAt (t.causeOf .upd) 4 = true)
            ∧ ∀ d ∈ t.cnd.deliv, d.seq = e.seq → d.value = some (putBit 1 (gs != 0) ||| putBit 2 (es != 0))))

/-- R270 to R276, R278, R280: GDEPOSIT, GHARV and STEPABORT, and the restore of an ingot by a STEPABORT at work. -/
def Obligations.UpdateWords : Prop :=
  (∀ (s : State) (a : ArrayArgs) (e : QEnt),
    let s1 := s.taken (secsOf a.sec) e
    let j := hubJob false a s1
    (s.goes 0xA5 a (gdepositEffect a) e → ∀ f, hubChecks false a s1 = some f →
      ∃ t, exec (.gdeposit a) s = .next t ∧ refusedStep s t .upd 0xA5 a e f)
    ∧ (s.goes 0xA6 a (gharvEffect a) e → ∀ f, hubChecks false a s1 = some f →
      ∃ t, exec (.gharv a) s = .next t ∧ refusedStep s t .upd 0xA6 a e f)
    ∧ (s.goes 0xA7 a (abortEffect a) e → ∀ f, hubChecks true a s1 = some f →
      ∃ t, exec (.stepabort a) s = .next t ∧ refusedStep s t .upd 0xA7 a e f)
    ∧ (s.goes 0xA5 a (gdepositEffect a) e → hubChecks false a s1 = none →
      ∃ t, exec (.gdeposit a) s = .next t ∧ wordStep s t 0xA5 a e ∧ t.sheet.holdH = some e.seq
        ∧ t.headers = s.headers ∧ t.cnd = s.cnd ∧ t.fn = s.fn
        ∧ ∀ q, (∀ g ∈ j.ingots, q < bankAddr g.1 (g.2 + 8) 0 ∨ bankAddr g.1 (g.2 + 8) 0 + 2048 ≤ q) →
            t.byte q = s.byte q)
    ∧ (∀ b0 r0 b1 r1 bs0 bs1 c0 c1, s.goes 0xA5 a (gdepositEffect a) e → hubChecks false a s1 = none →
      j.ingots = [(b0, r0), (b1, r1)] → s1.readFor j.upd.sum 4096 = some bs0 → s1.readFor j.upd.scl 1 = some [c0] →
      s1.windowHit [bankAddr b0 (r0 + 8) 0] = none → s1.windowHit [bankAddr b1 (r1 + 8) 0] = none →
      let m0 := s1.putRun (bankAddr b0 (r0 + 8) 0) (depositRow j.upd.mult c0.toNat (bs0.take 2048))
      m0.readFor j.upd.sum 4096 = some bs1 → m0.readFor j.upd.scl 1 = some [c1] →
      let m1 := m0.putRun (bankAddr b1 (r1 + 8) 0) (depositRow j.upd.mult c1.toNat ((bs1.drop 2048).take 2048))
      ∃ t, exec (.gdeposit a) s = .next t ∧ t.mem = m1.mem
        ∧ lo32 t.upd.moved = min (lo32 s.upd.moved + 1) 0xFFFFFFFF)
    ∧ (∀ b0 r0 b1 r1 p0 p1, s.goes 0xA6 a (gharvEffect a) e → hubChecks false a s1 = none →
      j.ingots = [(b0, r0), (b1, r1)] → s1.slotOpen j.upd.harv 1024 p0 →
      let m0 := s1.putBytes (p0.zip (s1.readBytes (bankAddr b0 r0 0) 1024))
      m0.slotOpen (j.upd.harv + 1024) 1024 p1 →
      ∃ t, exec (.gharv a) s = .next t ∧ wordStep s t 0xA6 a e ∧ t.sheet.holdH = some e.seq
        ∧ t.mem = (m0.putBytes (p1.zip (m0.readBytes (bankAddr b1 r1 0) 1024))).mem ∧ t.headers = s.headers
        ∧ hi32 t.upd.moved = min (hi32 s.upd.moved + 1) 0xFFFFFFFF)
    ∧ (s.goes 0xA7 a (abortEffect a) e → hubChecks true a s1 = none →
      let h := hubJob true a s1
      ∃ t, exec (.stepabort a) s = .next t ∧ wordStep s t 0xA7 a e ∧ t.mem = s.mem ∧ t.headers = s.headers
        ∧ (h.count = 0 → t.upd = s.upd ∧ t.bnk = s.bnk ∧ t.summed e.seq 0)
        ∧ (h.count ≠ 0 → t.sheet.holdH = some e.seq ∧ t.upd.restore = s.upd.restore
          ∧ t.upd.last = putBit 63 true ||| (e.step &&& 0x7FFFFFFFFFFFFFFF) ∧ bitAt (t.causeOf .upd) 5 = true)
        ∧ (h.count ≠ 0 → h.ingots = [] → t.bnk = s.bnk ∧ t.summed e.seq 0)
        ∧ (h.ingots ≠ [] → t.cnd = s.cnd ∧ (∀ w ∈ t.sheet.issued, w.seq = e.seq → w.hold = .banks)
          ∧ t.bnk.work = some { ent := e, kind := .abort, total := h.ingots.length, tasks := tasksFrom h.first 0 h.list }
          ∧ { t.bnk with work := s.bnk.work } = s.bnk)))
  ∧ (∀ (s : State) (w : HubWork) (k : BankTask) (i row : Nat) (rest : List (Nat × Nat)), s.works w k ((i, row) :: rest) →
    w.kind = .abort →
    let r := restoreIngot w.ent.step k.bank row s
    ∃ t, step s = .next t ∧ t.mem = r.2.mem ∧ t.headers = s.headers
      ∧ t.upd.restore = countRestore s.upd.restore r.1 ∧ t.upd.last = s.upd.last
      ∧ (r.1 = .mismatch → bitAt (t.causeOf .upd) 6 = true ∧ t.mem = s.mem) ∧ (r.1 = .kept → t.mem = s.mem)
      ∧ (rest ≠ [] → t.cnd = s.cnd
        ∧ t.bnk = { s.bnk with work := some { w with tally := w.tally.add r.1, tasks := [{ k with left := rest }] } })
      ∧ (rest = [] → t.bnk = { s.bnk with work := none } ∧ t.summed w.ent.seq (w.tally.add r.1).word))

/-! ## Links -/

/-- R282, R288 to R292, R330, R372, R375: training, loss and anneal of ports. -/
def Obligations.PortStates : Prop :=
  (∀ (p : Nat) (lanes : BitVec 16), let n := if p < 6 then 8 else if p = 6 then 16 else 4
    ((∀ i, i < n → bitAt lanes i = true) → widthOf p lanes = some (n, false))
    ∧ ((∃ i, i < n ∧ bitAt lanes i = false) →
        ((∀ i, i < n / 2 → bitAt lanes i = true) ∨ (∀ i, i < n / 2 → bitAt lanes (n / 2 + i) = true) →
          widthOf p lanes = some (n / 2, true))
        ∧ ((∃ i, i < n / 2 ∧ bitAt lanes i = false) → (∃ i, i < n / 2 ∧ bitAt lanes (n / 2 + i) = false) →
          widthOf p lanes = none)))
  ∧ (∀ (s : State) (pair : Nat) (lanes : BitVec 8), pair < 3 →
    ∃ t, exec (.loopTrainingDone pair lanes) s = .next t
      ∧ (∀ p, p / 2 = pair → (s.port p).state = 1 →
          ((widthOf p (lanes.setWidth 16)).isSome = true → t.port p = { s.port p with looped := true })
          ∧ (widthOf p (lanes.setWidth 16) = none →
              t.port p = { s.port p with looped := false, state := 0, width := 0, degraded := false }
              ∧ t.causeOf .lnk = s.causeOf .lnk ||| 4))
      ∧ (∀ p, p / 2 ≠ pair ∨ (s.port p).state ≠ 1 → t.port p = s.port p)
      ∧ ((widthOf (2 * pair) (lanes.setWidth 16)).isSome = true → t.cause = s.cause)
      ∧ onlyPorts s t ∧ { t.quiet s with cause := s.cause } = s)
  ∧ (∀ (s : State) (p : Nat) (lanes : BitVec 16) (neigh : BitVec 18) (spare : Bool) (rand : List Byte),
    let q := s.port p
    let c := Instr.neighbourTrainingDone p lanes neigh spare rand
    (q.state ≠ 2 → q.state ≠ 5 → exec c s = .next s)
    ∧ (q.state = 2 ∨ q.state = 5 →
      (s.portProt p = true → s.flash.fabric = [] → ∃ t, exec c s = .next t
        ∧ t.causeOf .lnk = s.causeOf .lnk ||| 4 ∧ t.causeOf .sec = s.causeOf .sec ||| 0x40 ∧ t.lnk = s.lnk
        ∧ { t.quiet s with cause := s.cause } = s)
      ∧ (s.portProt p = false ∨ s.flash.fabric ≠ [] →
        (widthOf p lanes = none → ∃ t, exec c s = .next t
          ∧ portLost s t p { q with state := 6, width := 0, degraded := false } ∧ t.causeOf .lnk = s.causeOf .lnk ||| 1)
        ∧ (∀ n half, widthOf p lanes = some (n, half) →
          let up : Port := { q with
            state := 3, width := BitVec.ofNat 5 n, degraded := half, prot := s.portProt p
            fails := 0, neigh := neigh, nspare := spare, known := true, group := [], ctrls := 0
            key := if s.portProt p = true then some (s.linkKey neigh (s.ownRandom p) rand) else none }
          let n := s.fresh + if s.portProt p = true then 1 else 0
          (q.known = false ∨ q.neigh = neigh → ∃ t, exec c s = .next t
            ∧ portStep { s with fresh := n } t p up ∧ t.cause = s.cause)
          ∧ (q.known = true → q.neigh ≠ neigh → ∃ t, exec c s = .next t
            ∧ t.port p = { up with txSeq := 0, rxSeq := 0, replay := [], sentC := Vector.replicate 8 0, tookC := Vector.replicate 8 0 }
            ∧ (∀ r, r ≠ p → t.port r = s.port r) ∧ t.held = s.held.filter (fun f => f.port != p)
            ∧ fldN t.lnk.drop 16 16 = min (fldN s.lnk.drop 16 16 + q.replay.length) 0xFFFF
            ∧ t.causeOf .lnk = s.causeOf .lnk ||| 0x400 ∧ t.mem = s.mem
            ∧ (p = 6 → s.twn.pair = .soldered → t.twn.pair = .single ∧ t.causeOf .twn = s.causeOf .twn ||| 0x100)
            ∧ (p ≠ 6 → { t.quiet s with cause := s.cause, held := s.held, fresh := s.fresh } = s))))))
  ∧ (∀ (s : State) (p : Nat) (delay : BitVec 32), let q := s.port p
    let up := { q with state := 4, delay := delay, annealed := s.bea.count, quiet := 0 }
    let n := 1000000 * fldN s.lnk.set.current.cfg 48 16
    let age := s.bea.count.toNat - q.annealed.toNat
    let due := 0 < n ∧ n ≤ age ∧ (q.busy = false ∧ 8 ≤ q.quiet ∨ 2 * n ≤ age)
    ((q.state ≠ 3 → exec (.delayMeasured p delay) s = .next s)
    ∧ (q.state = 3 → ∃ t, exec (.delayMeasured p delay) s = .next t ∧ portOpened s t p up
        ∧ t.causeOf .lnk = s.causeOf .lnk ||| (if q.degraded = true then 2 else 0)
        ∧ (t.lnk.taking = true ↔ s.lnk.taking = true ∧ ∃ r, r < 6 ∧ (t.port r).isUp = false)))
    ∧ ((q.isUp = false → exec (.portLinkLoss p) s = .next s)
    ∧ (q.isUp = true → ∃ t, exec (.portLinkLoss p) s = .next t ∧ portLost s t p { q with state := 5, fails := 0, group := [] }
        ∧ t.causeOf .lnk = s.causeOf .lnk))
    ∧ ((q.state = 2 ∨ q.state = 3 ∨ q.state = 5 → ∃ t, exec (.portRetrainTimeout p) s = .next t
        ∧ portLost s t p { q with state := 6, width := 0, degraded := false } ∧ t.causeOf .lnk = s.causeOf .lnk ||| 1)
    ∧ (q.state ≠ 2 → q.state ≠ 3 → q.state ≠ 5 → exec (.portRetrainTimeout p) s = .next s))
    ∧ ((q.state ≠ 4 ∨ ¬ due → exec (.linkAnneal p) s = .next s)
    ∧ (q.state = 4 → due → ∃ t, exec (.linkAnneal p) s = .next t
        ∧ portStep s t p { q with state := 7 } ∧ t.cause = s.cause)
    ∧ (q.state ≠ 7 → exec (.linkAnnealEnd p delay) s = .next s)
    ∧ (q.state = 7 → ∃ t, exec (.linkAnnealEnd p delay) s = .next t ∧ portOpened s t p up ∧ t.cause = s.cause
        ∧ t.lnk.taking = s.lnk.taking)))
  ∧ (∀ s : State, s.hostMay 2 0x0D0010 → ∃ t, exec .lnkCtrlTake s = .next t ∧ answered s t 2 0
    ∧ (s.lnk.take = true → t.cause = s.cause ∧ t.lnk.take = true ∧ ∀ p, p < 7 → t.port p = s.port p)
    ∧ (s.lnk.take = false → (∀ p, p < 6 → (s.port p).looped = true) → t.lnk.take = true ∧ t.lnk.taking = true
        ∧ t.cause = s.cause ∧ t.port 6 = s.port 6 ∧ ∀ p, p < 6 → t.port p = { s.port p with state := 2 })
    ∧ (s.lnk.take = false → (∃ p, p < 6 ∧ (s.port p).looped = false) → t.lnk.take = false
        ∧ t.causeOf .lnk = s.causeOf .lnk ||| 4 ∧ ∀ p, p < 7 → t.port p = s.port p)
    ∧ { t.quiet s with cause := s.cause } = s)
  ∧ (∀ s : State, s.hostMay 2 0x0D0010 → ∃ t, exec .lnkCtrlGive s = .next t ∧ answered s t 2 0 ∧ t.lnk.take = false
    ∧ t.port 6 = s.port 6
    ∧ (s.lnk.take = true → t.lnk.taking = false
        ∧ ∀ p, p < 6 → t.port p = { s.port p with state := 0, width := 0, degraded := false })
    ∧ (s.lnk.take = false → ∀ p, p < 6 → t.port p = s.port p) ∧ t.quiet s = s)
  ∧ (∀ (s : State) (mask : BitVec 8), s.hostMay 2 0x0D0010 → ∃ t, exec (.lnkCtrlRetrain mask) s = .next t
    ∧ answered s t 2 0
    ∧ (∀ p, p < 8 → let go := bitAt mask p && decide (2 ≤ (s.port p).state.toNat) && (decide (6 ≤ p) || s.lnk.take)
        (p < 7 → t.port p = if go then { s.port p with state := 5, fails := 0, group := [] } else s.port p)
        ∧ (t.port p).state = if go then 5 else (s.port p).state)
    ∧ t.quiet s = s)

/-- R284 to R289, R293 to R297, R374, R388: control slots, discarding, holding, forwarding. -/
def Obligations.FramesOnPorts : Prop :=
  (∀ (s : State) (p : Nat) (why : FrameReject),
    ((s.port p).isUp = false → exec (.frameCrcFail p why) s = .next s)
    ∧ ((s.port p).isUp = true → ∃ t, exec (.frameCrcFail p why) s = .next t ∧ discardStep s t p (why != .outOfSequence)))
  ∧ (∀ (s : State) (p : Nat) (h : FrameHdr) (addr len : Nat) (bs : List Byte), p < 8 → ∀ f ∈ dataFrames p h addr len bs,
    let c := channelOf f.1 h.vch
    let kept : HeldIn := ⟨p, 1, c, true, f.2.2⟩
    let new := ∀ g ∈ s.held, g.cmd ≠ f.2.2
    (new → (s.port p).isUp = false → exec f.2.2 s = .next s)
    ∧ (new → (s.port p).isUp = true → ¬ s.nextOn p h →
        ∃ t, exec f.2.2 s = .next t ∧ discardStep s t p (decide (h.seq = s.rxNext p)))
    ∧ (new → s.nextOn p h → ¬ s.actsNow p f.1 h →
        exec f.2.2 s = .next { s with held := s.held ++ [{ kept with good := !s.isProtected p }] })
    ∧ (s.heldFirst.contains kept = true → s.framesFlow = false → exec f.2.2 s = .next s)
    ∧ (∀ s0 : State, s.inOrder p f.1 h ∧ s0 = s
        ∨ s.heldFirst.contains kept = true ∧ s.framesFlow = true ∧ s0 = { s with held := s.held.erase kept } →
      s.consumes p f.1 h = false →
      let maxHops := fldN s.lnk.set.current.cfg 0 5
      (maxHops < h.hops.toNat + 1 → ∃ t, exec f.2.2 s = .next t ∧ tookFrame s t p ∧ t.sent = s.sent
        ∧ fldN t.lnk.drop 48 16 = min (fldN s.lnk.drop 48 16 + 1) 0xFFFF ∧ t.causeOf .lnk = s.causeOf .lnk ||| 0x10
        ∧ { t.quiet s0 with cause := s.cause } = s0)
      ∧ (h.hops.toNat + 1 ≤ maxHops →
        (∀ o, s.wayTo h.dst = some o → (s.port o).joined = true → ∃ t, exec f.2.2 s = .next t ∧ tookFrame s t p
          ∧ s.handed t o [⟨f.1, { h with
              hops := h.hops + 1, seq := 0, ack := 0
              vch := (s.route h.dst).2 || ((o == p || decide (o < 6) && decide (p < 6) && o / 2 == p / 2) && h.vch) }, f.2.1⟩]
          ∧ t.quiet s0 = s0)
        ∧ (s.wayTo h.dst = none ∨ (∃ o, s.wayTo h.dst = some o ∧ (s.port o).joined = false) →
          ∃ t, exec f.2.2 s = .next t ∧ tookFrame s t p ∧ t.sent = s.sent
            ∧ fldN t.lnk.drop 32 16 = min (fldN s.lnk.drop 32 16 + 1) 0xFFFF
            ∧ t.causeOf .lnk = s.causeOf .lnk ||| 0x20 ∧ { t.quiet s0 with cause := s.cause } = s0))))
  ∧ (∀ (s : State) (p : Nat) (type : BitVec 4) (h : FrameHdr), s.consumes p type h = true ↔
    h.dst = s.ownId ∧ bitAt s.lnk.set.current.id 47 = false ∨ p = 6 ∨ p = 7 ∧ 12 ≤ type.toNat)
  ∧ (∀ (s : State) (p : Nat) (f : CtrlFrame), let q := s.port p
    let bad := p ≠ 7 ∧ fld f.neigh 12 6 = fld s.ownId 12 6 ∧ (∃ v, f.stamp = some v ∧ v.1 ≠ s.bea.count)
      ∧ s.bea.srcAct = 2 ∧ s.bea.hold = false ∧ s.bea.started = true ∧ p = fldN s.bea.ctrl 8 3
    let stamped (t : State) : Prop := (bad → t.bea = { s.bea with lock := false } ∧ bitAt (t.causeOf .bea) 8 = true)
      ∧ (¬ bad → t.bea = s.bea ∧ t.causeOf .bea = s.causeOf .bea)
    let good := s.held.map (fun g => if g.port = p then { g with good := true } else g)
    let kept := s.held.filter (fun g => g.port != p || g.good)
    let clean := s.isProtected p = false ∨ f.gtagOk = true
    (q.isUp = false → exec (.ctrlFrame p f) s = .next s)
    ∧ (q.isUp = true → (q.known = false ∨ q.neigh = f.neigh) →
      let met : Port := { q with
        credits := f.credits, err := addHi q.err f.fecsym, known := true, neigh := f.neigh, nspare := f.spare }
      (clean → f.nak = none → ∃ t, exec (.ctrlFrame p f) s = .next t ∧ stamped t ∧ t.held = good
        ∧ portOpened { s with bea := t.bea, held := t.held } t p met ∧ t.causeOf .lnk = s.causeOf .lnk)
      ∧ (∀ n, clean → f.nak = some n → q.out = [] → let l := replayFrom n q.replay
        ∃ t, exec (.ctrlFrame p f) s = .next t ∧ stamped t ∧ t.held = good
          ∧ portStep { s with bea := t.bea, held := t.held, lnk := { s.lnk with wire := t.lnk.wire } } t p
              { met with err := addRetry met.err l.length }
          ∧ t.causeOf .lnk = s.causeOf .lnk ∧ t.sent = s.sent ++ l.map (fun f => .frame p f.type f.h f.payload))
      ∧ (¬ clean → f.nak = none → q.out = [] → ∃ t, exec (.ctrlFrame p f) s = .next t ∧ stamped t ∧ t.held = kept
        ∧ t.sent = s.sent ++ [.nak p (t.rxNext p)] ∧ t.causeOf .lnk = s.causeOf .lnk ||| 0x800
        ∧ portStep { s with bea := t.bea, held := t.held } t p { met with
            err := addAuth met.err, fails := if 8 ≤ q.fails + 1 then 0 else q.fails + 1
            state := if 8 ≤ q.fails + 1 then 5 else q.state, group := if 8 ≤ q.fails + 1 then [] else q.group }))
    ∧ (q.isUp = true → q.known = true → q.neigh ≠ f.neigh → clean → f.nak = none → q.out = [] →
      ∃ t, exec (.ctrlFrame p f) s = .next t ∧ stamped t ∧ t.held = s.held.filter (fun g => g.port != p)
        ∧ t.port p = { q with
            credits := f.credits, err := addHi q.err f.fecsym, neigh := f.neigh, nspare := f.spare, txSeq := 0
            rxSeq := 0, replay := [], fails := 0, sentC := Vector.replicate 8 0, tookC := Vector.replicate 8 0 }
        ∧ fldN t.lnk.drop 16 16 = min (fldN s.lnk.drop 16 16 + q.replay.length) 0xFFFF
        ∧ t.causeOf .lnk = s.causeOf .lnk ||| 0x400
        ∧ (p = 6 → s.twn.pair = .soldered → t.twn.pair = .single)))

/-- R188, R214, R217, R223, R225, R230, R301, R302: serving remote requesters. -/
def Obligations.RemoteRequests : Prop :=
  (∀ (s : State) (p addr len : Nat) (write : Bool), s.serves p write addr len = true ↔
    (t2Base ≤ addr ∧ addr + len ≤ t2Base + t2Size ∨ stripeBase ≤ addr ∧ addr + len ≤ stripeBase + t2Size)
    ∧ ∃ n w, n < 8 ∧ smGet 0 s.lnk.set.current.exp n = w ∧ bitAt w 63 = true ∧ (write = true → bitAt w 62 = true)
        ∧ (bitAt w 61 = true → p = 6) ∧ fldN w 32 29 * 65536 ≤ addr
        ∧ addr + len ≤ (fldN w 32 29 + fldN w 0 25) * 65536)
  ∧ (∀ (s : State) (p addr len : Nat) (h : FrameHdr), s.arrives p 2 h → s.serves p false addr len = true →
    s.stopped .mdv = true ∨ s.bankBusy .hubRead (s.remoteRun addr len) = true ∨ s.placeMoves (s.remoteRun addr len) = true →
    exec (.rreq p h addr len) s
      = .next { s with held := s.held ++ [⟨p, 1, channelOf 2 h.vch, true, .rreq p h addr len⟩] })
  ∧ (∀ (s : State) (p o addr len : Nat) (h : FrameHdr),
    (if p = 6 then o = 6 else s.isOwn h.src = false ∧ s.wayTo h.src = some o) → (s.port o).joined = true →
    (s.arrives p 2 h → s.serves p false addr len = true → s.remoteWaits .hubRead addr len = false →
      ∃ t ps, exec (.rreq p h addr len) s = .next t
        ∧ tookFrame s t p ∧ s.canonRun addr len = some ps ∧ blockSent s t o 3 h.src h.tag (ps.map s.readByte)
        ∧ (s.sound → t.mdv = s.mdv ∧ t.cause = s.cause)
        ∧ ((∃ q ∈ ps, s.unsealedAt q = true) → bitAt (t.causeOf .mdv) 1 = true)
        ∧ { t.quiet s with mdv := s.mdv, cause := s.cause, tmv := s.tmv } = s)
    ∧ (∀ type c, (type, c) ∈ [((2 : BitVec 4), Instr.rreq p h addr len), (4, Instr.wreq p h addr len)] →
      s.arrives p type h → s.serves p (type == 4) addr len = false → ∃ t, exec c s = .next t ∧ tookFrame s t p
        ∧ (∃ g, s.handed t o [⟨7, g, []⟩] ∧ g.dst = h.src ∧ g.tag = h.tag)
        ∧ hi32 t.lnk.refused = min (hi32 s.lnk.refused + 1) 0xFFFFFFFF ∧ t.causeOf .lnk = s.causeOf .lnk ||| 0x40
        ∧ t.lnk.inWrites = s.lnk.inWrites ∧ { t.quiet s with cause := s.cause } = s)
    ∧ (∀ bs w ps, s.arrives p 5 h → s.lnk.inWrites.find? (fun x => x.of p h) = some w →
      s.canonRun (w.addr + 512 * h.off.toNat) bs.length = some ps →
      w.drop = true ∨ s.remoteWaits .hubWrite (w.addr + 512 * h.off.toNat) bs.length = false →
      let m := if w.drop then s else s.storeBytes .remote none (ps.zip bs)
      let rest := s.lnk.inWrites.filter (fun x => !x.of p h)
      ∃ t, exec (.wdata p h bs) s = .next t ∧ tookFrame s t p ∧ t.mem = m.mem ∧ t.mdv = m.mdv ∧ t.cause = m.cause
        ∧ t.headers = s.headers
        ∧ (w.got + bs.length < w.len → t.sent = s.sent
          ∧ t.lnk.inWrites = rest ++ [{ w with got := w.got + bs.length }])
        ∧ (w.len ≤ w.got + bs.length → t.lnk.inWrites = rest
          ∧ ∃ g, s.handed t o [⟨6, g, []⟩] ∧ g.dst = h.src ∧ g.tag = h.tag)))
  ∧ (∀ (s : State) (p addr len : Nat) (h : FrameHdr) (ps : List Nat), s.arrives p 4 h →
    s.serves p true addr len = true → s.canonRun addr len = some ps →
    ∃ t, exec (.wreq p h addr len) s = .next t ∧ tookFrame s t p ∧ t.mem = s.mem ∧ t.sent = s.sent
      ∧ t.lnk.inWrites = s.lnk.inWrites ++ [⟨p, h.src, h.tag, addr, len, 0, (s.windowHit ps).isSome⟩]
      ∧ (s.windowHit ps = none → t.quiet s = s)
      ∧ ((s.windowHit ps).isSome = true → bitAt (t.causeOf .mdv) 2 = true
          ∧ { t.quiet s with mdv := s.mdv, cause := s.cause } = s))
  ∧ (∀ (s : State) (p : Nat) (h : FrameHdr) (bs : List Byte), s.arrives p 5 h →
    s.lnk.inWrites.find? (fun x => x.of p h) = none →
    ∃ t, exec (.wdata p h bs) s = .next t ∧ tookFrame s t p ∧ t.sent = s.sent ∧ t.quiet s = s)

/-- R298 to R303, R338, R368: this module's transactions. -/
def Obligations.OwnTransactions : Prop :=
  (∀ (s : State) (write : Bool) (p len : Nat) (who : Requester), s.lnk.stalled = [] →
    let t := s.startTrans write p len who
    let x : Transaction := ⟨0, write, p, len, 0, s.bea.count, false, who, s.lnk.nextId⟩
    let barred := write = false ∧ ∃ y ∈ s.lnk.trans, y.write = true ∧ p < y.paddr + y.len ∧ y.paddr < p + len
    (barred ∨ (∀ n, n < 8192 → ∃ y ∈ s.lnk.trans, y.tag = n) →
      t.lnk = { s.lnk with stalled := [x], nextId := s.lnk.nextId + 1 } ∧ t.sent = s.sent)
    ∧ (∀ o, ¬ barred → (∃ n, n < 8192 ∧ ∀ y ∈ s.lnk.trans, y.tag ≠ n) → s.apWay p = some o → (s.port o).joined = true →
      ∃ n g l, n < 8192 ∧ (∀ y ∈ s.lnk.trans, y.tag ≠ n) ∧ t.lnk.trans = s.lnk.trans ++ [{ x with tag := n }]
        ∧ t.lnk.stalled = [] ∧ s.handed t o (⟨if write then 4 else 2, g, padTo 64 (reqHead (s.remoteAddr p) len)⟩ :: l)
        ∧ g.tag = BitVec.ofNat 13 n ∧ (write = false → l = []) ∧ (∀ f ∈ l, f.type = 5 ∧ f.h.tag = g.tag ∧ f.payload.length ≤ 512)
        ∧ (write = true → l.flatMap OutFrame.payload = s.bytes p len))
    ∧ { t.quiet s with cause := s.cause } = s)
  ∧ (∀ (s : State) (p : Nat) (h : FrameHdr) (bs : List Byte) (x : Transaction), s.arrives p 3 h →
    s.transOf h.tag = some x →
    (x.write = true → ∃ t, exec (.rdata p h bs) s = .next t ∧ tookFrame s t p ∧ t.quiet s = s)
    ∧ (x.write = false →
      let m := s.putRun (x.paddr + 512 * h.off.toNat) bs
      (x.got + bs.length < x.len → ∃ t, exec (.rdata p h bs) s = .next t ∧ tookFrame s t p ∧ t.mem = m.mem
        ∧ t.lnk.trans = s.lnk.trans.map (fun y => if y.tag = x.tag then { y with got := x.got + bs.length } else y)
        ∧ t.cause = s.cause ∧ t.sent = s.sent ∧ t.headers = s.headers)
      ∧ (x.len ≤ x.got + bs.length →
        ∃ t, exec (.rdata p h bs) s = .next t ∧ tookFrame s t p ∧ t.headers = s.headers ∧ t.cnd = s.cnd
          ∧ (s.lnk.stalled = [] → t.lnk.trans = s.lnk.trans.filter (fun y => y.tag ≠ x.tag))
          ∧ (x.who = .conductor ∨ (∃ n b, x.who = .word n b) → t.mem = m.mem ∧ t.lnk.got = s.lnk.got
              ∧ (s.lnk.stalled = [] → t.sent = s.sent ∧ t.cause = s.cause))
          ∧ (∀ k, x.who = .fetch k → t.mem = m.mem
              ∧ t.lnk.got = s.lnk.got ++ (List.range (x.len / 64)).map (fun i => (k, x.paddr + 64 * i, true)))
          ∧ (∀ op addr id ps, x.who = .host op addr id ps → t.mem = m.mem ∧ (s.lnk.stalled = [] →
              (∀ y ∈ s.lnk.trans, y.tag ≠ x.tag → ofAccess y id = false) →
              cameFor s t (.access id) [⟨op.toNat, m.hostStatus ps, addr, 0, true, [], ps.map m.readByte⟩]))
          ∧ (∀ n bank row, x.who = .pull n bank row → m.windowHit [bankAddr bank row 0] = none →
              t.mem = (m.putRun (bankAddr bank row 0) (m.bytes x.paddr x.len)).mem))))
  ∧ (∀ (s : State) (p : Nat) (h : FrameHdr) (x : Transaction), s.arrives p 6 h → s.transOf h.tag = some x →
    (x.write = false → ∃ t, exec (.wack p h) s = .next t ∧ tookFrame s t p ∧ t.quiet s = s)
    ∧ (x.write = true → (∀ n bank row, x.who ≠ .pull n bank row) →
      ∃ t, exec (.wack p h) s = .next t ∧ tookFrame s t p ∧ t.mem = s.mem
        ∧ (∀ w ∈ s.sheet.issued, w.hold = .transfers [x.id] → { w with hold := .none } ∈ t.sheet.issued)
        ∧ (s.lnk.stalled = [] → t.cause = s.cause ∧ t.lnk.trans = s.lnk.trans.filter (fun y => y.tag ≠ x.tag)
          ∧ (∀ op addr id ps, x.who = .host op addr id ps →
            (∀ y ∈ s.lnk.trans, y.tag ≠ x.tag → ofAccess y id = false) →
            cameFor s t (.access id) [⟨op.toNat, 0, addr, 0, true, [], []⟩]))))
  ∧ (∀ (s : State) (p : Nat) (h : FrameHdr) (x : Transaction), s.arrives p 7 h → s.transOf h.tag = some x →
    ∃ t, exec (.nack p h) s = .next t ∧ tookFrame s t p ∧ t.mem = s.mem ∧ t.headers = s.headers
      ∧ bitAt (t.causeOf .lnk) 7 = true ∧ lo32 t.lnk.refused = min (lo32 s.lnk.refused + 1) 0xFFFFFFFF
      ∧ (s.lnk.stalled = [] → ∀ y ∈ t.lnk.trans, y.tag ≠ x.tag)
      ∧ (∀ op addr id ps, x.who = .host op addr id ps → bitAt (t.causeOf .lnk) 8 = true ∧ t.cnd = s.cnd
          ∧ (s.lnk.stalled = [] →
            cameFor s t (.access id) [⟨op.toNat, 4, addr, 0, true, [], if x.write then [] else List.replicate ps.length 0⟩]
            ∧ ∀ y ∈ s.lnk.trans, y.tag ≠ x.tag → ofAccess y id = true → y ∉ t.lnk.trans ∧ y.tag ∈ t.lnk.abandoned))
      ∧ (x.who = .conductor → s.running .cnd = true → t.fnState .cnd = .stopping ∧ t.cnd.ending = 4
          ∧ t.cnd.exc = putAt 56 8 7 ||| putAt 44 12 s.cnd.mould.toNat ||| putAt 0 24 s.cnd.pc.toNat
          ∧ t.causeOf .cnd = s.causeOf .cnd ||| 0x20 ∧ t.cnd.g = s.cnd.g)
      ∧ (∀ k, x.who = .fetch k →
          t.lnk.got = s.lnk.got ++ (List.range (x.len / 64)).map (fun i => (k, x.paddr + 64 * i, false)))
      ∧ (∀ n b, x.who = .word n b → bitAt (t.causeOf b) 2 = true)
      ∧ (∀ n bank row, x.who = .pull n bank row → t.causeOf .twn = s.causeOf .twn ||| 4
          ∧ ∀ w, t.bnk.work = some w → ∀ k ∈ w.tasks, k.left = []))
  ∧ (∀ (s : State) (p : Nat) (h : FrameHdr) (bs : List Byte), s.transOf h.tag = none →
    ∀ q ∈ [((3 : BitVec 4), Instr.rdata p h bs, h.last), (6, Instr.wack p h, true), (7, Instr.nack p h, true)],
    s.arrives p q.1 h → ∃ t, exec q.2.1 s = .next t ∧ tookFrame s t p ∧ t.lnk.trans = s.lnk.trans ∧ t.quiet s = s
      ∧ (h.tag.toNat ∈ s.lnk.abandoned → q.2.2 = true → t.lnk.abandoned = s.lnk.abandoned.erase h.tag.toNat
          ∧ fldN t.lnk.drop 0 16 = min (fldN s.lnk.drop 0 16 + 1) 0xFFFF)
      ∧ (h.tag.toNat ∉ s.lnk.abandoned ∨ q.2.2 = false → t.lnk.abandoned = s.lnk.abandoned ∧ t.lnk.drop = s.lnk.drop))
  ∧ (∀ (s : State) (tag : Nat), let warn := fldN s.lnk.set.current.cfg 8 32
    let due := ∃ x, s.lnk.trans.find? (fun y => y.tag == tag) = some x ∧ x.warned = false ∧ warn ≠ 0
      ∧ x.since.toNat + warn < s.bea.count.toNat
    (¬ due → exec (.transactionStall tag) s = .next s)
    ∧ (due → ∃ t, exec (.transactionStall tag) s = .next t ∧ t.causeOf .lnk = s.causeOf .lnk ||| 0x200
        ∧ t.lnk.trans = s.lnk.trans.map (fun y => if y.tag = tag then { y with warned := true } else y)
        ∧ { t.quiet s with cause := s.cause } = s ∧ { t.lnk with trans := s.lnk.trans } = s.lnk))

/-! ## Collectives -/

/-- R98, R315, R316, R319, R320: collective words wait, are refused, or start. -/
def Obligations.CollectiveWords : Prop :=
  (∀ p ∈ collWords, ∀ (s : State) (a : ArrayArgs) (e : QEnt), s.issuing p.2 a = some e →
    (s.collReady p.2 (secsOf a.sec) e = false → exec (p.1 a) s = .next s)
    ∧ ((∀ i, i < 3 → ∀ q ∈ s.sheet.queue i, q.seq = e.seq → q.word = e.word) →
        ∃ t, exec (p.1 a) s = .next t ∧ exec (.collectiveStart e.seq) s = .next t))
  ∧ (∀ (s : State) (seq : Nat), (∀ i, i < 3 → ∀ q ∈ s.sheet.queue i, q.seq ≠ seq) →
    exec (.collectiveStart seq) s = .next s)
  ∧ (∀ (s : State) (secs : BitVec 3) (e : QEnt) (i : Inst), s.instOf e.seq = some i →
    (s.collMayStart secs e = true ↔ s.running .fol = true ∧ s.fol.flying < 16
      ∧ (∀ x ∈ s.fol.insts, x.grp = i.grp → x.abandoned = false → i.num < x.num + 8)
      ∧ (∀ q ∈ e.srcs, q.2.isSome = true) ∧ (secs = 4 ∨ ∀ w ∈ s.sheet.issued, w.secs &&& secs = 0)))
  ∧ (∀ p ∈ tileWords, ∀ (s : State) (a : ArrayArgs) (e : QEnt) (i : Inst) (f : Flaw), s.goes p.2.1 a (collEffect p.2.1 a) e →
    s.collReady p.2.1 (secsOf a.sec) e = true → s.instOf e.seq = some i →
    collChecks a i.kind (s.taken (secsOf a.sec) e) = some f →
    ∃ t, exec (p.1 a) s = .next t ∧ refusedStep s t .fol p.2.1 a e f ∧ t.instOf e.seq = none ∧ t.sent = s.sent)
  ∧ (∀ (s : State) (a : ArrayArgs) (e : QEnt) (i : Inst) (f : Flaw), s.goes 0xB0 a (collEffect 0xB0 a) e →
    s.collReady 0xB0 (secsOf a.sec) e = true → s.instOf e.seq = some i →
    cscalChecks a (s.taken (secsOf a.sec) e) = some f →
    ∃ t, exec (.cscal a) s = .next t ∧ refusedStep s t .fol 0xB0 a e f ∧ t.instOf e.seq = none ∧ t.sent = s.sent)
  ∧ (∀ (s : State) (a : ArrayArgs) (e : QEnt), s.goes 0xB5 a (collEffect 0xB5 a) e →
    s.collReady 0xB5 (secsOf a.sec) e = true →
    let s1 := s.taken (secsOf a.sec) e
    let g := fldN a.a 0 16
    (∀ f, cwaitChecks a s1 = some f → ∃ t, exec (.cwait a) s = .next t ∧ refusedStep s t .fol 0xB5 a e f)
    ∧ (cwaitChecks a s1 = none → ∃ t, exec (.cwait a) s = .next t ∧ wordStep s t 0xB5 a e
        ∧ (∀ i, i < 3 → bitAt (secsOf a.sec) i = true → t.sheet.holder i = some e.seq)
        ∧ (∀ w ∈ t.sheet.issued, w.seq = e.seq →
            ((∃ x ∈ s.fol.insts, x.abandoned = false ∧ x.grp = g ∧ x.seq < e.seq) → w.hold = .group g e.seq)
            ∧ ((∀ x ∈ s.fol.insts, x.grp = g → x.seq < e.seq → x.abandoned = true) → w.hold = .none))
        ∧ t.fol = s.fol ∧ t.mem = s.mem ∧ t.headers = s.headers ∧ t.cause = s.cause ∧ t.cnd = s.cnd))
  ∧ (∀ (s : State) (a : ArrayArgs), s.issuing 0xB5 a = none → s.reservedDue 0xB5 = none →
    exec (.cwait a) s = .next s)
  ∧ (∀ (s : State) (seq : Nat), let i := s.instOf seq
    let may := ∃ x, i = some x ∧ x.inFlight = true ∧ (∀ q, x.kind ≠ .barrier q) ∧ x.finished (s.groupAt x.grp) = true
    (¬ may → (∀ x, i = some x → x.inFlight = false ∨ x.kind.isScalar = true) → exec (.collectiveComplete seq) s = .next s)
    ∧ (∀ x, ¬ may → i = some x → x.inFlight = true → x.kind.isScalar = false →
      ∃ t, exec (.collectiveComplete seq) s = .next t ∧ t.headers = s.headers
        ∧ ∀ k, t.instOf seq = some k → k.inFlight = true → k.finished (t.groupAt k.grp) = false)
    ∧ (may → ∃ t, exec (.collectiveComplete seq) s = .next t ∧ t.instOf seq = none
        ∧ lo32 t.fol.coll = min (lo32 s.fol.coll + 1) 0xFFFFFFFF
        ∧ (∀ x ∈ t.fol.insts, x ∈ s.fol.insts) ∧ (∀ x ∈ s.fol.insts, x.seq ≠ seq → x ∈ t.fol.insts)
        ∧ (∀ w ∈ t.sheet.issued, w.hold ≠ .inst seq) ∧ (s.running .fol = true → t.fn = s.fn)
        ∧ t.mem = s.mem ∧ t.headers = s.headers ∧ t.cause = s.cause ∧ t.cnd.sm = s.cnd.sm ∧ t.cnd.pc = s.cnd.pc))
  ∧ (∀ (s : State) (seq : Nat), let warn := fldN s.bea.bar 8 32
    let due := ∃ x, s.instOf seq = some x ∧ x.inFlight = true ∧ (∀ q, x.kind ≠ .barrier q) ∧ x.warned = false
      ∧ warn ≠ 0 ∧ x.beat.toNat + warn < s.bea.count.toNat
    (¬ due → exec (.collectiveStall seq) s = .next s)
    ∧ (due → ∃ t, exec (.collectiveStall seq) s = .next t ∧ t.causeOf .fol = s.causeOf .fol ||| 0x20
        ∧ (∀ x, t.instOf seq = some x → x.warned = true)
        ∧ { t.quiet s with cause := s.cause, fol := s.fol } = s))

/-- R45, R47, R318, R319, R323, R324: scalar exchanges on a group of one and of two members, and stray frames. -/
def Obligations.ScalarExchange : Prop :=
  (∀ (s : State) (a : ArrayArgs) (e : QEnt) (num : Nat) (sm : BitVec 4) (v : Word), s.goes 0xB0 a (collEffect 0xB0 a) e →
    s.collReady 0xB0 (secsOf a.sec) e = true → e.srcs = [(sm, some v)] → s.fol.held = [] →
    let op := fldN a.a 16 4
    let i := Inst.numbered (fldN a.a 0 16) num e.seq (.scalar op) e.word
    let g := s.groupAt (fldN a.a 0 16)
    s.instOf e.seq = some i → cscalChecks a (s.taken (secsOf a.sec) e) = none →
    (g.single → ∃ t u, exec (.cscal a) s = .next t ∧ wordStep s t 0xB0 a e ∧ t.sent = s.sent ∧ t.mem = s.mem
      ∧ exec (.collectiveComplete e.seq) t = .next u ∧ u.instOf e.seq = none
      ∧ ∀ d ∈ u.cnd.deliv, d.seq = e.seq → d.value = some (if op = 9 then 0 else v))
    ∧ (∀ o, g.twoRing → s.isOwn (g.plus 0) = false → s.wayTo (g.plus 0) = some o → (s.port o).joined = true →
      ∃ t h, exec (.cscal a) s = .next t ∧ wordStep s t 0xB0 a e ∧ t.mem = s.mem ∧ t.cause = s.cause
        ∧ s.handed t o [⟨8, h, padTo 64 (leBytes 8 v.toNat ++ leBytes 4 0)⟩]
        ∧ h.dst = g.plus 0 ∧ h.tag = g.gid ∧ h.off.toNat = num % 8 * 16 ∧ h.last = true
        ∧ t.instOf e.seq = some { i with
            started := true, beat := s.bea.count
            ring := ⟨0, 1, false, (v, false), (v, false), (v, false), [], false⟩ }))
  ∧ (∀ (s : State) (p : Nat) (h : FrameHdr) (i : Inst) (op : Nat) (v w : Word) (x : Bool),
    s.framesFor p 8 h i → i.kind = .scalar op → 1 ≤ op → op ≤ 9 → (s.groupAt i.grp).twoRing →
    h.src = (s.groupAt i.grp).plus 0 → i.ring = ⟨0, 1, false, (v, false), (v, false), (v, false), [], false⟩ →
    ∃ t u, exec (.redFrame p h (padTo 64 (leBytes 8 w.toNat ++ leBytes 4 (if op = 9 then x.toNat else 0)))) s = .next t
      ∧ tookFrame s t p ∧ t.sent = s.sent ∧ t.mem = s.mem ∧ t.cause = s.cause
      ∧ exec (.collectiveComplete i.seq) t = .next u ∧ u.instOf i.seq = none
      ∧ ∀ d ∈ u.cnd.deliv, d.seq = i.seq → d.value = some (if op = 9 ∧ x = true then 1 else scalarTable op v w))
  ∧ (∀ (s : State) (p : Nat) (h : FrameHdr) (i : Inst) (q q2 : BitVec 32) (v w : Word),
    s.framesFor p 10 h i → i.kind = .barrier q → (s.groupAt i.grp).twoRing →
    h.src = (s.groupAt i.grp).plus 0 → i.ring = ⟨0, 1, false, (v, false), (v, false), (v, false), [], false⟩ →
    let c := Instr.barFrame p h (padTo 64 (leBytes 8 w.toNat ++ leBytes 4 q2.toNat))
    (q2 = q → ∃ t, exec c s = .next t ∧ tookFrame s t p ∧ t.cause = s.cause ∧ t.mem = s.mem
      ∧ t.sheet.fbars = s.sheet.fbars.map (fun b => if b.seq = i.seq ∧ b.result = none then
          { b with result := some (BitVec.ofNat 64 (max v.toNat w.toNat), s.bea.count) } else b))
    ∧ (q2 ≠ q → ∃ t, exec c s = .next t ∧ tookFrame s t p ∧ t.causeOf .bea = s.causeOf .bea ||| 0x40
      ∧ { t.quiet s with cause := s.cause } = s))
  ∧ (∀ (s : State) (p : Nat) (h : FrameHdr) (bs : List Byte),
    ∀ c ∈ [((8 : BitVec 4), Instr.redFrame p h bs), (9, Instr.gathFrame p h bs), (10, Instr.barFrame p h bs)],
    s.arrives p c.1 h →
    (s.gidGroup h.tag = none ∨ (∃ g i, s.gidGroup h.tag = some g ∧ s.frameInst g h = some i ∧ i.abandoned = true) →
      ∃ t, exec c.2 s = .next t ∧ tookFrame s t p
        ∧ fldN t.fol.coll 32 16 = min (fldN s.fol.coll 32 16 + 1) 0xFFFF
        ∧ { t.quiet s with fol := { t.fol with coll := s.fol.coll } } = s)
    ∧ (∀ g, s.gidGroup h.tag = some g →
        (s.frameInst g h = none ∨ ∃ i, s.frameInst g h = some i ∧ i.started = false ∧ i.abandoned = false) →
      ∃ t, exec c.2 s = .next t ∧ tookFrame s t p
        ∧ t.quiet s = { s with fol := { s.fol with held := s.fol.held ++ [⟨p, c.1, h, bs⟩] } }))
  ∧ (∀ (s : State) (tag : BitVec 13) (g : Nat), s.gidGroup tag = some g ↔
    g < 64 ∧ (s.groupAt g).usable = true ∧ (s.groupAt g).gid = tag
      ∧ ∀ k, k < g → (s.groupAt k).usable = false ∨ (s.groupAt k).gid ≠ tag)

/-- R268, R317, R319, R321 to R323: tile collectives on a group of one and of two members. -/
def Obligations.TileCollectives : Prop :=
  (∀ p ∈ tileWords, ∀ (s : State) (a : ArrayArgs) (e : QEnt) (num : Nat) (bs : List Byte) (pz : List Nat),
    s.goes p.2.1 a (collEffect p.2.1 a) e → s.collReady p.2.1 (secsOf a.sec) e = true → s.fol.held = [] →
    let i := Inst.numbered (fldN a.a 0 16) num e.seq (p.2.2 a) e.word
    let s1 := s.taken (secsOf a.sec) e
    let j := collJob a i.kind s1
    s.instOf e.seq = some i → collChecks a i.kind s1 = none → j.g.single → j.x.count = 1 → j.z.count = 1 →
    j.x.foil = 0 → j.clash = false → s1.readFor j.x.uaddr j.x.size = some bs → bs ≠ [] →
    let out := if i.kind = .reduceScatter ∨ i.kind = .allReduce 3 then sumBytes (bs.map (·.toInt)) else bs
    s1.slotOpen j.z.uaddr out.length pz → s1.meetsMove j.z.uaddr out.length = false →
    ∃ t u, exec (p.1 a) s = .next t ∧ wordStep s t p.2.1 a e ∧ t.mem = (s1.putBytes (pz.zip out)).mem
      ∧ t.headers = s.headers ∧ t.cnd = s.cnd ∧ exec (.collectiveComplete e.seq) t = .next u ∧ u.instOf e.seq = none
      ∧ u.mem = t.mem ∧ lo32 u.fol.coll = min (lo32 s.fol.coll + 1) 0xFFFFFFFF)
  ∧ (∀ (s : State) (a : ArrayArgs) (e : QEnt) (num o : Nat) (bs : List Byte) (pz : List Nat),
    s.goes 0xB2 a (collEffect 0xB2 a) e → s.collReady 0xB2 (secsOf a.sec) e = true → s.fol.held = [] →
    let i := Inst.numbered (fldN a.a 0 16) num e.seq .gather e.word
    let s1 := s.taken (secsOf a.sec) e
    let j := collJob a i.kind s1
    s.instOf e.seq = some i → collChecks a i.kind s1 = none → j.g.twoRing → j.x.count = 1 → j.z.count = 2 →
    j.x.foil = 0 → j.clash = false → s1.readFor j.x.uaddr j.x.size = some bs → bs ≠ [] →
    s1.slotOpen (j.z.uaddr + j.z.size * j.g.m) bs.length pz → s1.meetsMove (j.z.uaddr + j.z.size * j.g.m) bs.length = false → (∀ q ∈ pz, isT3 q = false) →
    s.isOwn (j.g.plus 0) = false → s.wayTo (j.g.plus 0) = some o → (s.port o).joined = true →
    ∃ t, exec (.cagr a) s = .next t ∧ wordStep s t 0xB2 a e ∧ t.mem = (s1.putBytes (pz.zip bs)).mem
      ∧ blockSent s t o 9 (j.g.plus 0) j.g.gid bs ∧ t.headers = s.headers)
  ∧ (∀ (s : State) (a : ArrayArgs) (e : QEnt) (num o : Nat) (b0 b1 : List Byte),
    s.goes 0xB1 a (collEffect 0xB1 a) e → s.collReady 0xB1 (secsOf a.sec) e = true → s.fol.held = [] →
    let i := Inst.numbered (fldN a.a 0 16) num e.seq .reduceScatter e.word
    let s1 := s.taken (secsOf a.sec) e
    let j := collJob a i.kind s1
    s.instOf e.seq = some i → collChecks a i.kind s1 = none → j.g.twoRing → j.x.count = 2 → j.z.count = 1 →
    s1.readFor j.x.uaddr j.x.size = some b0 → s1.readFor (j.x.uaddr + j.x.size) j.x.size = some b1 → b0 ≠ [] → b1 ≠ [] →
    s.isOwn (j.g.plus 0) = false → s.wayTo (j.g.plus 0) = some o → (s.port o).joined = true →
    ∃ t, exec (.crsc a) s = .next t ∧ wordStep s t 0xB1 a e ∧ t.mem = s.mem
      ∧ blockSent s t o 8 (j.g.plus 0) j.g.gid (if j.g.m = 0 then b1 else b0) ∧ t.headers = s.headers)
  ∧ (∀ (s : State) (p : Nat) (h : FrameHdr) (i : Inst) (bs : List Byte), s.framesFor p 9 h i → i.kind = .gather →
    (s.groupAt i.grp).twoRing → h.src = (s.groupAt i.grp).plus 0 → p % 2 = 1 →
    let got := smGet [] i.part 6 ++ bs
    (h.last = false → ∃ t, exec (.gathFrame p h bs) s = .next t ∧ tookFrame s t p ∧ t.mem = s.mem ∧ t.sent = s.sent
      ∧ t.instOf i.seq = some { i with part := smPut [] i.part 6 got } ∧ t.cause = s.cause)
    ∧ (∀ pz, h.last = true → i.nx = 1 → i.nz = 2 → smGet 0 i.recvd 6 = 0 → i.clash = false → got ≠ [] →
      let m := (s.groupAt i.grp).m
      smGet false i.written m = true → smGet false i.written (1 - m) = false →
      s.slotOpen (i.zAddr + i.zSlot * (1 - m)) got.length pz → s.meetsMove (i.zAddr + i.zSlot * (1 - m)) got.length = false →
      ∃ t, exec (.gathFrame p h bs) s = .next t ∧ tookFrame s t p ∧ t.mem = (s.putBytes (pz.zip got)).mem
        ∧ t.headers = s.headers ∧ ∃ k, t.instOf i.seq = some k ∧ smGet false k.written (1 - m) = true
        ∧ smGet 0 k.recvd 6 = 1))
  ∧ (∀ (s : State) (p : Nat) (h : FrameHdr) (i : Inst) (bs : List Byte) (own : List Int) (pz : List Nat),
    s.framesFor p 8 h i → i.kind = .reduceScatter → (s.groupAt i.grp).twoRing →
    h.src = (s.groupAt i.grp).plus 0 → p % 2 = 1 → h.last = true → i.nx = 2 → i.nz = 1 →
    smGet 0 i.recvd 0 = 0 → i.clash = false → smGet false i.written 0 = false →
    let got := smGet [] i.part 0 ++ bs
    let m := (s.groupAt i.grp).m
    smGet [] i.own m = own → own ≠ [] → got ≠ [] →
    let out := sumBytes ((got.zip own).map (fun q => q.1.toInt + q.2))
    s.slotOpen i.zAddr out.length pz → s.meetsMove i.zAddr out.length = false →
    ∃ t, exec (.redFrame p h bs) s = .next t ∧ tookFrame s t p ∧ t.mem = (s.putBytes (pz.zip out)).mem
      ∧ t.headers = s.headers ∧ ∃ k, t.instOf i.seq = some k ∧ smGet false k.written 0 = true)

/-! ## Twins -/

/-- R297, R329, R330, R335, R338, R346: the pair, RESUME and the range-digest engine. -/
def Obligations.PairAndDigestEngine : Prop :=
  (∀ s : State, s.hostMay 1 0x0F0010 →
    let may := s.twn.pair = .single ∧ (s.port 6).isUp = true ∧ s.loadMap = true ∧ s.stopped .twn = true
    (¬ may → ∃ t, exec .twnCtrlSolder s = .next t ∧ answered s t 2 0 ∧ t.causeOf .twn = s.causeOf .twn ||| 0x100
      ∧ { t.quiet s with cause := s.cause } = s)
    ∧ (may → ∃ t, exec .twnCtrlSolder s = .next t ∧ answered s t 2 0 ∧ t.cause = s.cause
        ∧ (∃ h, t.made 6 (channelOf 11 false) = s.made 6 (channelOf 11 false) ++ [⟨11, h, controlFrame 1 []⟩]
            ∧ h.dst = s.twn.twin)
        ∧ (s.twn.gotS = false → t.twn.pair = .soldering ∧ t.lnk.aps = s.lnk.aps)
        ∧ (s.twn.gotS = true → t.twn.pair = .soldered ∧ t.twn.twin = (s.port 6).neigh
            ∧ ∀ a, a < 30 → t.aperture a = twinEntry a)
        ∧ { t.quiet s with twn := s.twn } = s))
  ∧ (∀ s : State, s.hostMay 1 0x0F0010 →
    let may := s.twn.pair = .soldered ∧ s.loadMap = true ∧ s.stopped .twn = true
    (¬ may → ∃ t, exec .twnCtrlUnsolder s = .next t ∧ answered s t 2 0 ∧ t.causeOf .twn = s.causeOf .twn ||| 0x100
      ∧ { t.quiet s with cause := s.cause } = s)
    ∧ (may → ∃ t, exec .twnCtrlUnsolder s = .next t ∧ answered s t 2 0 ∧ t.cause = s.cause ∧ t.twn.pair = .single ∧ t.twn.jobs = []
        ∧ t.twn.digest = none ∧ t.twn.verify = none ∧ t.mem = s.mem
        ∧ (∀ a, a < 30 → t.apOpen a = false) ∧ (∀ a, 30 ≤ a → t.aperture a = s.aperture a)
        ∧ ((s.port 6).isUp = true → ∃ h, h.dst = s.twn.twin
            ∧ t.made 6 (channelOf 11 false) = s.made 6 (channelOf 11 false) ++ [⟨11, h, controlFrame 2 []⟩])))
  ∧ (∀ s : State,
    (s.twn.pair ≠ .soldering → exec .solderTimeout s = .next s)
    ∧ (s.twn.pair = .soldering → ∃ t, exec .solderTimeout s = .next t ∧ t.twn.pair = .single
        ∧ t.causeOf .twn = s.causeOf .twn ||| 0x100 ∧ { t.quiet s with cause := s.cause, twn := s.twn } = s)
    ∧ (s.twinOpen → ∃ t, exec .solderTransfer s = .next t ∧ tookMirr s t 1
        ∧ (s.twn.pair = .soldering → t.twn.pair = .soldered ∧ t.twn.twin = (s.port 6).neigh
            ∧ (∀ a, a < 30 → t.aperture a = twinEntry a) ∧ ∀ a, 30 ≤ a → t.aperture a = s.aperture a)
        ∧ (s.twn.pair = .single → t.twn = { s.twn with gotS := true } ∧ t.lnk.aps = s.lnk.aps)
        ∧ (s.twn.pair = .soldered → t.twn = s.twn ∧ t.lnk.aps = s.lnk.aps)
        ∧ t.sent = s.sent ∧ { t.quiet s with twn := s.twn } = s)
    ∧ (s.twinOpen → ∃ t, exec .unsolderTransfer s = .next t ∧ tookMirr s t 1 ∧ t.mem = s.mem ∧ t.sent = s.sent
        ∧ (s.twn.pair = .soldered → t.twn.pair = .single ∧ t.causeOf .twn = s.causeOf .twn ||| 0x100
            ∧ ∀ a, a < 30 → t.apOpen a = false)
        ∧ (s.twn.pair ≠ .soldered → { t.quiet s with twn := { t.twn with gotS := s.twn.gotS } } = s)))
  ∧ (∀ a, a < 30 → bitAt (twinEntry a) 63 = true ∧ bitAt (twinEntry a) 62 = true ∧ fldN (twinEntry a) 60 2 = 2
      ∧ fldN (twinEntry a) 13 29 = 0x1000000 + a * 0x100000)
  ∧ (∀ (s : State) (d : BitVec 32), s.hostMay 1 0x0F0010 →
    (s.twn.hold = none → ∃ t, exec (.twnCtrlResume d) s = .next t ∧ answered s t 2 0 ∧ t.quiet s = s)
    ∧ (∀ q, s.twn.hold = some q → ∃ t, exec (.twnCtrlResume d) s = .next t ∧ answered s t 2 0 ∧ t.twn.hold = none
        ∧ t.summed q (BitVec.ofNat 64 d.toNat) ∧ (∀ w ∈ t.sheet.issued, w.seq = q → w.hold = .none)
        ∧ (s.tim.opened = true → t.tim.cur[11] = s.tim.cur[11] ||| 4) ∧ t.cause = s.cause ∧ t.mem = s.mem
        ∧ t.cnd.sm = s.cnd.sm ∧ t.cnd.pc = s.cnd.pc))
  ∧ (∀ (s : State) (v : Word), s.hostMay 1 0x0F0070 →
    (s.castRuns = true → ∃ t, exec (.twnRdctlGo v) s = .next t ∧ answered s t 2 0
      ∧ t.causeOf .twn = s.causeOf .twn ||| 0x200 ∧ { t.quiet s with cause := s.cause } = s)
    ∧ (s.castRuns = false → ∃ t, exec (.twnRdctlGo v) s = .next t ∧ answered s t 2 0
      ∧ t.quiet s = { s with twn := { s.twn with rdAddr := fld v 0 48, rdBusy := true } }))
  ∧ (∀ s : State,
    let u := s.twn.rdAddr.toNat / 64 * 64
    let n := s.twn.rdLen.toNat / 64
    let m := { s with lnk := { s.lnk with reading := digestKey } }
    let far := s.missing digestKey (t3Lines (((List.range n).map (fun i => u + 64 * i)).filterMap s.transl))
    let may := s.twn.rdBusy = true ∧ s.castRuns = false ∧ s.stopped .mdv = false
    (¬ may → exec .rangeDigestComplete s = .next s)
    ∧ (may → far ≠ [] → ∃ t, exec .rangeDigestComplete s = .next t ∧ t.twn = s.twn ∧ t.mem = s.mem ∧ t.cnd = s.cnd)
    ∧ (∀ l : List (List Byte), may → far = [] → l.length = n → (∀ i, i < n → m.readFor (u + 64 * i) 64 = l[i]?) →
      ∃ t, exec .rangeDigestComplete s = .next t ∧ t.twn = { s.twn with rdBusy := false, rdRes := linesDigest u l }
        ∧ t.causeOf .twn = s.causeOf .twn ∧ t.mem = s.mem ∧ t.cnd = s.cnd ∧ t.fn = s.fn)
    ∧ (∀ (l : List (List Byte)) (k : Nat), may → far = [] → l.length = k → k < n →
      (∀ i, i < k → m.readFor (u + 64 * i) 64 = l[i]?) → m.readFor (u + 64 * k) 64 = none →
      ∃ t, exec .rangeDigestComplete s = .next t ∧ t.twn = { s.twn with rdBusy := false, rdRes := linesDigest u l }
        ∧ t.causeOf .twn = s.causeOf .twn ||| 4 ∧ t.mem = s.mem ∧ t.cnd = s.cnd ∧ t.fn = s.fn))

/-- R332 to R335, R338: transfers of the twin. -/
def Obligations.TwinTransfers : Prop :=
  (∀ (s : State) (tag : BitVec 13) (m : MirrorImage),
    (s.twinOpen → s.running .twn = false → exec (.mirrorImage tag m) s
      = .next { s with held := [⟨6, 37, channelOf 11 false, true, .mirrorImage tag m⟩] })
    ∧ (∀ b, s.twinOpen → s.running .twn = true → imageBank m.bank = some b →
      let r := m.row.toNat + fldN s.twn.set.current 0 16
      let rows := (List.range 9).map (fun j => bankAddr b (r + j) 0)
      r + 8 ≤ 65535 → s.windowHit rows = none → s.stopped .mdv = false → s.bankBusy .hubWrite rows = false →
      s.placeMoves rows = false →
      ∃ t h, exec (.mirrorImage tag m) s = .next t ∧ tookMirr s t 37 ∧ t.headers = s.headers ∧ t.cause = s.cause
        ∧ (∀ j, j < 9 → t.bytes (bankAddr b (r + j) 0) 2048 = padTo 2048 (m.rows.getD j []))
        ∧ (∀ q, (∀ j, j < 9 → q < bankAddr b (r + j) 0 ∨ bankAddr b (r + j) 0 + 2048 ≤ q) → t.byte q = s.byte q)
        ∧ s.handed t 6 [⟨11, h, padTo 512 (leBytes 2 0)⟩] ∧ h.tag = tag ∧ h.dst = s.twn.twin
        ∧ lo32 t.twn.mirror = min (lo32 s.twn.mirror + 1) 0xFFFFFFFF ∧ t.cnd = s.cnd ∧ t.sheet = s.sheet)
    ∧ (s.twinOpen → s.running .twn = true →
      let r := m.row.toNat + fldN s.twn.set.current 0 16
      let why (c : Nat) : Prop := ∃ t h, exec (.mirrorImage tag m) s = .next t ∧ tookMirr s t 37
        ∧ t.causeOf .twn = s.causeOf .twn ||| 8 ∧ s.handed t 6 [⟨11, h, padTo 512 (leBytes 2 c)⟩]
        ∧ h.tag = tag ∧ lo32 t.twn.refused = min (lo32 s.twn.refused + 1) 0xFFFFFFFF
        ∧ { t.quiet s with twn := s.twn, cause := s.cause } = s
      (imageBank m.bank = none ∨ 65535 < r + 8 → why 1)
      ∧ (∀ b, imageBank m.bank = some b → r + 8 ≤ 65535 →
          (s.windowHit ((List.range 9).map (fun j => bankAddr b (r + j) 0))).isSome = true → why 2)))
  ∧ (∀ (s : State) (tag : BitVec 13) (status : BitVec 16), s.twinOpen →
    let mine := s.twn.jobs.find? (fun j => j.tags.contains tag.toNat)
    let bad := if status = 0 then 0 else 1
    (mine = none → ∃ t, exec (.mirrorAck tag status) s = .next t ∧ tookMirr s t 1 ∧ t.quiet s = s)
    ∧ (∀ j, mine = some j → ∃ t, exec (.mirrorAck tag status) s = .next t ∧ tookMirr s t 1
        ∧ hi32 t.twn.refused = (if status = 0 then hi32 s.twn.refused else min (hi32 s.twn.refused + 1) 0xFFFFFFFF)
        ∧ (j.tags.erase tag.toNat = [] → j.unsent = 0 → t.summed j.seq (BitVec.ofNat 64 (j.refused + bad))
            ∧ (∀ k ∈ t.twn.jobs, k.seq ≠ j.seq) ∧ ∀ w ∈ t.sheet.issued, w.seq = j.seq → w.hold = .none)
        ∧ (j.tags.erase tag.toNat ≠ [] ∨ j.unsent ≠ 0 →
            { j with tags := j.tags.erase tag.toNat, refused := j.refused + bad } ∈ t.twn.jobs
            ∧ t.cnd = s.cnd ∧ t.sheet = s.sheet)
        ∧ t.mem = s.mem ∧ t.cause = s.cause ∧ t.cnd.sm = s.cnd.sm))
  ∧ (∀ (s : State) (own mir : Word), s.twinOpen →
    (s.twn.digest = none → ∃ t, exec (.digestTransfer own mir) s = .next t ∧ tookMirr s t 1
      ∧ t.quiet s = { s with twn := { s.twn with digestIn := s.twn.digestIn ++ [(own, mir)] } })
    ∧ (∀ q o m, s.twn.digest = some (q, o, m) → ∃ t, exec (.digestTransfer own mir) s = .next t ∧ tookMirr s t 1
      ∧ t.summed q ((if o = mir then 0 else 1) ||| (if m = own then 0 else 2)) ∧ t.twn.digest = none
      ∧ t.twn.dig[2] = own ∧ t.twn.dig[3] = mir ∧ t.twn.dig[0] = s.twn.dig[0] ∧ t.twn.dig[1] = s.twn.dig[1]
      ∧ t.causeOf .twn = s.causeOf .twn ||| (if o = mir ∧ m = own then 0 else 0x20)
      ∧ (∀ w ∈ t.sheet.issued, w.seq = q → w.hold = .none) ∧ t.mem = s.mem ∧ t.cnd.sm = s.cnd.sm))
  ∧ (∀ (s : State) (l : List (Word × Word)), s.twinOpen →
    (s.twn.verify = none → ∃ t, exec (.verifyTransfer l) s = .next t ∧ tookMirr s t 1
      ∧ t.quiet s = { s with twn := { s.twn with verifyIn := s.twn.verifyIn ++ l } })
    ∧ (∀ j, s.twn.verify = some j → s.twn.verifyIn = [] → j.got = 0 → j.own = 0 → j.mir = 0 → j.first = none →
      l.length = j.pairs.length →
      let z := j.pairs.zip l
      let own := (z.filter (fun p => p.1.1 != p.2.2)).length
      let mir := (z.filter (fun p => p.1.2 != p.2.1)).length
      ∃ t, exec (.verifyTransfer l) s = .next t ∧ tookMirr s t 1 ∧ t.summed j.seq (BitVec.ofNat 64 (own + mir))
        ∧ t.twn.verify = none ∧ (own + mir = 0 → t.twn.div = 0) ∧ t.mem = s.mem ∧ t.cause = s.cause
        ∧ (∀ k, k < z.length → (∀ i, i < k → ∀ p, z[i]? = some p → p.1.1 = p.2.2 ∧ p.1.2 = p.2.1) →
            (∀ p, z[k]? = some p → p.1.1 ≠ p.2.2 ∨ p.1.2 ≠ p.2.1) →
            bitAt t.twn.div 63 = true ∧ fldN t.twn.div 0 24 = k % 2 ^ 24
              ∧ ∀ p, z[k]? = some p → (bitAt t.twn.div 62 = true ↔ p.1.1 = p.2.2))
        ∧ fldN t.twn.divcnt 24 24 = min (fldN s.twn.divcnt 24 24 + own) 0xFFFFFF
        ∧ fldN t.twn.divcnt 0 24 = min (fldN s.twn.divcnt 0 24 + mir) 0xFFFFFF
        ∧ fldN t.twn.divcnt 48 16 = fldN s.twn.divcnt 48 16))
  ∧ (∀ (s : State) (tag : BitVec 13) (m : MirrorImage) (st : BitVec 16) (o w : Word) (l : List (Word × Word)),
    ∀ c ∈ mirrFrames tag m st o w l,
    let kept : HeldIn := ⟨6, c.2, channelOf 11 false, true, c.1⟩
    (s.held = [] → (s.port 6).isUp = false → exec c.1 s = .next s)
    ∧ (s.held = [] → (s.port 6).isUp = true → s.framesFlow = false ∨ s.isProtected 6 = true →
        exec c.1 s = .next { s with held := [{ kept with good := !s.isProtected 6 }] })
    ∧ (s.held = [kept] → s.framesFlow = false → exec c.1 s = .next s)
    ∧ (s.held = [kept] → State.twinOpen { s with held := [] } → exec c.1 s = exec c.1 { s with held := [] }
        ∨ c.1 = .mirrorImage tag m ∧ s.imageWaits m = true ∧ exec c.1 s = .next s))

/-- R98, R99, R227, R335 to R339, R344, R345: the words of the twin unit, and their work on banks. -/
def Obligations.TwinWords : Prop :=
  (∀ p ∈ twinLists, ∀ (s : State) (a : ArrayArgs) (e : QEnt), p.goes s a e →
    let s1 := s.taken (secsOf a.sec) e
    let j := hubJob true a s1
    let none_ := j.count = 0 ∨ needsTwin p.opc.toNat a = true ∧ s.alone = true
    (∀ f, twinListChecks p.opc.toNat a s1 = some f → ∃ t, exec (p.cmd a) s = .next t ∧ refusedStep s t .twn p.opc a e f)
    ∧ (twinListChecks p.opc.toNat a s1 = none →
      ∃ t, exec (p.cmd a) s = .next t ∧ wordStep s t p.opc a e ∧ t.mem = s.mem ∧ t.headers = s.headers ∧ t.sent = s.sent
        ∧ t.causeOf .twn = s.causeOf .twn
        ∧ t.twn = (if ¬ none_ ∧ j.ingots ≠ [] ∧ p.opc = 0xD0
            then { s.twn with jobs := s.twn.jobs ++ [⟨e.seq, j.ingots.length, [], 0⟩] } else s.twn)
        ∧ (none_ ∨ j.ingots = [] → t.summed e.seq 0 ∧ t.bnk = s.bnk)
        ∧ (¬ none_ → t.sheet.holdH = some e.seq)
        ∧ (¬ none_ → j.ingots ≠ [] → (∀ w ∈ t.sheet.issued, w.seq = e.seq → w.hold = .banks)
          ∧ t.bnk.work = some
              { ent := e, kind := p.kind a s1, total := j.ingots.length, tasks := tasksFrom j.first 0 j.list }
          ∧ { t.bnk with work := s.bnk.work } = s.bnk)))
  ∧ (∀ (s : State) (w : HubWork) (k : BankTask) (i row : Nat), s.works w k [(i, row)] →
    let bank := k.bank
    let q := w.ent.seq
    let rowAt (j k n : Nat) : List Byte := s.readBytes (bankAddr bank (row + j) k) n
    let ended (t : State) : Prop := step s = .next t ∧ t.headers = s.headers ∧ t.cnd.sm = s.cnd.sm ∧ t.fn = s.fn
      ∧ t.bnk = { s.bnk with work := none }
    (∀ r, w.kind = .mirror → w.total = 1 → i = 0 → w.ready = [] → w.sent = 0 → s.twn.jobs = [⟨q, 1, [], r⟩] →
      ∃ t l, ended t ∧ t.mem = s.mem ∧ s.handed t 6 l ∧ l.length = 37
      ∧ l.flatMap OutFrame.payload
          = padTo 512 (leBytes 2 (bank / 640 * 1024 + bank % 640) ++ leBytes 2 row ++ rowAt 4 1536 8)
            ++ (List.range 9).flatMap (fun j => rowAt j 0 2048)
      ∧ (∀ f ∈ l, f.type = 11 ∧ f.h.dst = s.twn.twin ∧ f.h.tag = BitVec.ofNat 13 s.twn.nextTag)
      ∧ t.twn.jobs = [⟨q, 0, [s.twn.nextTag], r⟩] ∧ (∀ x ∈ t.sheet.issued, x.seq = q → x.hold = .image)
      ∧ hi32 t.twn.mirror = min (hi32 s.twn.mirror + 1) 0xFFFFFFFF)
    ∧ (∀ off, w.kind = .digest off → row + off + 8 ≤ 65535 → let d := s.ingotDigest bank (row + off)
      ∃ t, ended t ∧ t.mem = s.mem ∧ t.sent = s.sent ∧ t.summed q (w.fold ^^^ d.1) ∧ t.freed q
        ∧ (d.1 = d.2 → t.twn = s.twn ∧ t.causeOf .twn = s.causeOf .twn)
        ∧ (d.1 ≠ d.2 → t.causeOf .twn = s.causeOf .twn ||| 0x10
            ∧ fldN t.twn.divcnt 48 16 = min (fldN s.twn.divcnt 48 16 + 1) 0xFFFF))
    ∧ (∀ off, w.kind = .verify off → row + 8 + off ≤ 65535 → w.total = 1 → i = 0 → w.ready = [] → s.twn.verifyIn = [] →
      let o := (s.ingotDigest bank row).1
      let m := (s.ingotDigest bank (row + off)).1
      ∃ t, ended t ∧ t.mem = s.mem ∧ toTwin s t 4 (leBytes 8 o.toNat ++ leBytes 8 m.toNat)
        ∧ t.twn.verify = some ⟨q, [(o, m)], 0, 0, 0, none⟩ ∧ (∀ x ∈ t.sheet.issued, x.seq = q → x.hold = .verify))
    ∧ (∀ ap off rec_, w.kind = .pull ap off rec_ →
      (s.pullClosed ap off (bank, row) = true → ∃ t, ended t ∧ t.mem = s.mem ∧ t.causeOf .twn = s.causeOf .twn ||| 4
        ∧ t.lnk = s.lnk ∧ t.freed q)
      ∧ (s.pullClosed ap off (bank, row) = false → s.lnk.stalled = [] → ∃ t l, step s = .next t ∧ t.mem = s.mem
        ∧ t.bnk = { s.bnk with work := some { w with tasks := [{ k with left := [] }] } } ∧ t.cnd = s.cnd
        ∧ t.lnk.trans ++ t.lnk.stalled = s.lnk.trans ++ l ∧ l.length = 9 ∧ ∀ n, n < 9 → ∃ x, l[n]? = some x
          ∧ x.write = false ∧ x.len = 2048 ∧ x.who = .pull q bank (row + n)
          ∧ x.paddr = t3Base + ap * apSize + (bankAddr bank (row + off + n) 0 - t2Base)))
    ∧ (∀ dest n rec_, w.kind = .snap dest n rec_ →
      let src := s.snapSource n (bank, row)
      let u := dest + 2048 * (i / 2) + 1024 * (i % 2)
      (src = none → s.meetsMove u 1024 = false → ∃ t, ended t ∧ t.mem = s.mem ∧ t.summed q (pair32 w.copied (w.overrun + 1))
        ∧ t.causeOf .twn = s.causeOf .twn ||| 0x80 ∧ lo32 t.twn.snap = min (lo32 s.twn.snap + 1) 0xFFFFFFFF ∧ t.freed q)
      ∧ (∀ bs ps, src = some bs → s.meetsMove u 1024 = false → s.slotOpen u bs.length ps → ∃ t, ended t
        ∧ t.mem = (s.putBytes (ps.zip bs)).mem ∧ t.summed q (pair32 (w.copied + 1) w.overrun)
        ∧ hi32 t.twn.snap = min (hi32 s.twn.snap + 1) 0xFFFFFFFF ∧ t.freed q)))
  ∧ (∀ (s : State) (w : HubWork) (k : BankTask) (ap off rec_ : Nat), s.works w k [] → w.kind = .pull ap off rec_ →
    ∃ t, step s = .next t ∧ t.bnk = { s.bnk with work := none } ∧ t.freed w.ent.seq ∧ t.mem = s.mem ∧ t.cnd = s.cnd)
  ∧ (∀ p ∈ twinPlains, ∀ (s : State) (a : ArrayArgs) (e : QEnt), s.twinGoes p.2.1 a (p.2.2 a) e →
    (p.2.1 = 0xD3 → ∀ q ∈ e.srcs, q.2.isSome = true) →
    ∀ f, twinPlainChecks p.2.1.toNat a (s.taken (secsOf a.sec) e) = some f →
      ∃ t, exec (p.1 a) s = .next t ∧ refusedStep s t .twn p.2.1 a e f)
  ∧ (∀ (s : State) (a : ArrayArgs) (e : QEnt), s.issuing 0xD3 a = some e →
    ((∃ q ∈ e.srcs, q.2 = none) → exec (.tdcmp a) s = .next s)
    ∧ (s.twinGoes 0xD3 a dcmpRun e → twinPlainChecks 0xD3 a (s.taken (secsOf a.sec) e) = none →
      ∀ n m v w, e.srcs = [(n, some v), (m, some w)] →
      (s.alone = true → ∃ t, exec (.tdcmp a) s = .next t ∧ wordStep s t 0xD3 a e ∧ t.summed e.seq 0 ∧ t.sent = s.sent
        ∧ t.twn = s.twn)
      ∧ (s.alone = false → ∃ t, exec (.tdcmp a) s = .next t ∧ wordStep s t 0xD3 a e ∧ t.sheet.holdH = some e.seq
        ∧ toTwin s t 3 (leBytes 8 v.toNat ++ leBytes 8 w.toNat) ∧ t.twn.dig[0] = v ∧ t.twn.dig[1] = w ∧ t.mem = s.mem
        ∧ (s.twn.digestIn = [] → t.twn.digest = some (e.seq, v, w) ∧ t.cause = s.cause)
        ∧ (∀ x y rest, s.twn.digestIn = (x, y) :: rest → t.twn.digest = none ∧ t.twn.digestIn = rest
            ∧ t.summed e.seq ((if v = y then 0 else 1) ||| (if w = x then 0 else 2))
            ∧ t.causeOf .twn = s.causeOf .twn ||| (if v = y ∧ w = x then 0 else 0x20)))))
  ∧ (∀ (s : State) (a : ArrayArgs) (e : QEnt) (l : List (List Byte)), s.twinGoes 0xD5 a (rdigRun a) e →
    let s1 := s.taken (secsOf a.sec) e
    let x := s1.desc (fldN a.a 0 16)
    let n := x.size * (x.tr * x.tc * x.tp) / 64
    twinPlainChecks 0xD5 a s1 = none → (∀ i, i < l.length → s1.readFor (x.uaddr + 64 * i) 64 = l[i]?) →
    (l.length = n → ∃ t, exec (.trdig a) s = .next t ∧ wordStep s t 0xD5 a e ∧ t.mem = s.mem ∧ t.sent = s.sent
      ∧ t.summed e.seq (linesDigest x.uaddr l) ∧ t.twn = s.twn ∧ t.causeOf .twn = s.causeOf .twn)
    ∧ (l.length < n → s1.readFor (x.uaddr + 64 * l.length) 64 = none →
      ∃ t, exec (.trdig a) s = .next t ∧ wordStep s t 0xD5 a e ∧ t.mem = s.mem
        ∧ t.summed e.seq (linesDigest x.uaddr l) ∧ t.causeOf .twn = s.causeOf .twn ||| 4))
  ∧ (∀ (s : State) (a : ArrayArgs) (e : QEnt), s.twinGoes 0xD6 a (holdRun a) e →
    twinPlainChecks 0xD6 a (s.taken (secsOf a.sec) e) = none →
    ∃ t, exec (.thold a) s = .next t ∧ wordStep s t 0xD6 a e ∧ t.twn = { s.twn with hold := some e.seq }
      ∧ t.sheet.holdH = some e.seq ∧ (∀ w ∈ t.sheet.issued, w.seq = e.seq → w.hold = .resume)
      ∧ t.causeOf .twn = s.causeOf .twn ||| 0x40 ||| (if bitAt a.a 0 = true then 0x20 else 0)
      ∧ t.mem = s.mem ∧ t.cnd = s.cnd ∧ t.sent = s.sent)
  ∧ (∀ (s : State) (a : ArrayArgs) (e : QEnt), s.twinGoes 0xD9 a recovRun e →
    twinPlainChecks 0xD9 a (s.taken (secsOf a.sec) e) = none →
    ∃ t, exec (.trecov a) s = .next t ∧ wordStep s t 0xD9 a e
      ∧ t.summed e.seq (BitVec.ofNat 64 s.twn.recov.toNat) ∧ t.twn = s.twn ∧ t.mem = s.mem ∧ t.cause = s.cause)
  ∧ (∀ (s : State) (a : ArrayArgs) (e : QEnt), s.goes 0xD8 a (tmarkEffect a) e →
    ∃ t, exec (.tmark a) s = .next t ∧ wordStep s t 0xD8 a e ∧ t.mem = s.mem ∧ t.twn = s.twn
      ∧ (markBad a = true → t.causeOf .tim = s.causeOf .tim ||| 1 ∧ t.tim = s.tim)
      ∧ (markBad a = false → t.cause = s.cause ∧ t.tim = { s.tim with
          fwd := if fldN a.a 0 4 = 1 then !bitAt a.a 4 else s.tim.fwd
          split := if fldN a.a 0 4 = 1 then s.tim.split else !bitAt a.a 4 }))

/-! ## Power, Temper and clocks -/

/-- R348, R350, R351, R353, R413: one sample of the Temper unit. -/
def Obligations.TemperSample : Prop :=
  ∀ (s : State) (x : Telemetry), ∃ t, exec (.temperSample x) s = .next t
    ∧ t.pwr.power = x.power ∧ fldN t.pwr.tel0 48 16 = x.vin.toNat ∧ fldN t.pwr.tel0 32 16 = x.iin.toNat
    ∧ fldN t.pwr.tel1 48 16 = x.quart.toNat ∧ fldN t.pwr.tel1 32 16 = x.hub.toNat ∧ fldN t.pwr.tel1 16 16 = x.mem.toNat
    ∧ fldN t.pwr.tel1 0 16 = x.link.toNat ∧ t.pwr.energy.toNat = (s.pwr.energy.toNat + x.energy.toNat) % 2 ^ 64
    ∧ fldN t.pwr.temp0 24 8 = x.hubT.toNat ∧ fldN t.pwr.temp0 16 8 = x.inlet.toNat
    ∧ fldN t.pwr.temp0 8 8 = x.outlet.toNat ∧ fldN t.pwr.temp0 0 8 = s.hottest x
    ∧ t.pwr.capRate = s.pwr.capRate ∧ t.pwr.thermRate = s.pwr.thermRate ∧ t.pwr.clock = s.pwr.clock
    ∧ t.pwr.set = s.pwr.set ∧ t.pwr.inletOut = (decide (x.inlet.toNat < 20) || decide (45 < x.inlet.toNat))
    ∧ { t.quiet s with pwr := s.pwr, cause := s.cause } = s
    ∧ (∀ cap den, (curveOf s.pwr.set.current.curve = [] →
        (cap, den) = if 42 * x.vin.toNat < s.pwr.cap.toNat * 1000 then (42 * x.vin.toNat, 100) else (s.pwr.cap.toNat * 10, 1)) →
      (∀ at_ w, curveOf s.pwr.set.current.curve = [(at_, w)] →
        (cap, den) = if 42 * x.vin.toNat < min w (s.pwr.cap.toNat * 10) * 100 then (42 * x.vin.toNat, 100)
          else (min w (s.pwr.cap.toNat * 10), 1)) →
      (curveOf s.pwr.set.current.curve).length ≤ 1 →
      let old := s.pwr.capNext.getD s.pwr.capRate
      let excess := x.power.toNat * den - cap
      let floor := fldN s.pwr.set.current.loop 0 8
      let missed := cap < x.power.toNat * den ∧ t.pwr.capNext = some floor
      t.pwr.effCap = BitVec.ofNat 8 (cap / den / 10) ∧ (t.pwr.effVin = true ↔ den = 100)
      ∧ t.causeOf .pwr = s.causeOf .pwr ||| (if den = 100 ∨ (4000 ≤ x.vin.toNat ∧ x.vin.toNat < 4400) then 0x20 else 0)
          ||| (if missed then 1 else 0)
          ||| (if t.pwr.inletOut = true ∧ s.pwr.inletOut = false then 0x10 else 0)
      ∧ (cap < x.power.toNat * den → ∃ d, t.pwr.capNext = some (max (old - d) floor)
          ∧ 64 * excess ≤ d * (x.power.toNat * den) ∧ ∀ k, 64 * excess ≤ k * (x.power.toNat * den) → d ≤ k)
      ∧ (x.power.toNat * den ≤ cap →
          t.pwr.capNext = some (if (x.power.toNat + fldN s.pwr.set.current.loop 8 8) * den < cap ∧ old < 64 then old + 1
            else old)))

/-- R356, R358, R360 to R363: droop, swarf, ramp, the clock, the anneal, the accumulators. -/
def Obligations.DroopSwarfAndClock : Prop :=
  (∀ (s : State) (q : BitVec 2),
    (bitAt s.rst.active q.toNat = true → exec (.droopDetect q) s = .next s)
    ∧ (bitAt s.rst.active q.toNat = false → ∃ t, exec (.droopDetect q) s = .next t
      ∧ t.pwr.droopRate[q.toNat] = fldN s.pwr.set.current.droop 16 8 ∧ t.pwr.droopHold[q.toNat] = true
      ∧ t.flash = { s.flash with droops := s.flash.droops.set q.toNat (s.flash.droops[q.toNat] + 1) }
      ∧ t.pwr.droopBeat = some s.bea.count
      ∧ hi32 t.pwr.dcount = min (hi32 s.pwr.dcount + 1) 0xFFFFFFFF ∧ t.causeOf .pwr = s.causeOf .pwr ||| 0x80
      ∧ (∀ k : Fin 4, k.val ≠ q.toNat → t.pwr.droopRate[k] = s.pwr.droopRate[k] ∧ t.pwr.droopHold[k] = s.pwr.droopHold[k])
      ∧ { t.quiet s with pwr := s.pwr, cause := s.cause, flash := s.flash } = s)
    ∧ (s.pwr.droopHold[q.toNat] = false → exec (.droopHoldExpire q) s = .next s)
    ∧ (s.pwr.droopHold[q.toNat] = true → ∃ t, exec (.droopHoldExpire q) s = .next t
      ∧ t = { s with pwr := { s.pwr with droopHold := s.pwr.droopHold.set q.toNat false } })
    ∧ (s.pwr.droopHold[q.toNat] = true ∨ 64 ≤ s.pwr.droopRate[q.toNat] → exec (.droopRateStep q) s = .next s)
    ∧ (s.pwr.droopHold[q.toNat] = false → s.pwr.droopRate[q.toNat] < 64 → ∃ t, exec (.droopRateStep q) s = .next t
      ∧ t = { s with pwr := { s.pwr with
          droopRate := s.pwr.droopRate.set q.toNat (s.pwr.droopRate[q.toNat] + 1) } }))
  ∧ (∀ (s : State) (sec : BitVec 2), let i : Fin 2 := if sec = 2 then 1 else 0
    let only (t : State) : Prop := { t with pwr := { t.pwr with
      swarf := s.pwr.swarf, swarfRate := s.pwr.swarfRate, rampRate := s.pwr.rampRate } } = s
      ∧ (∀ k : Fin 2, k ≠ i → t.pwr.swarf[k] = s.pwr.swarf[k])
      ∧ ∀ k : Fin 8, k.val / 4 ≠ i.val → t.pwr.swarfRate[k] = s.pwr.swarfRate[k] ∧ t.pwr.rampRate[k] = s.pwr.rampRate[k]
    let mine (k : Fin 8) : Prop := k.val / 4 = i.val
    let due (b : FbarHeld) : Prop := b.arrival.toNat + fldN s.pwr.set.current.swarf 32 16 ≤ s.bea.count.toNat
    (∀ b, s.sheet.fbars.find? (fun b => bitAt b.secs i.val) = some b → s.pwr.swarf[i] = .holding → due b →
      ∃ t, exec (.swarfHoldExpire sec) s = .next t ∧ t.pwr.swarf[i] = .decaying ∧ only t
        ∧ (∀ k, mine k → t.pwr.swarfRate[k] = min s.pwr.swarfRate[k] (s.quarterRate (k.val % 4)))
        ∧ t.pwr.rampRate = s.pwr.rampRate)
    ∧ (s.pwr.swarf[i] ≠ .holding ∨ (∀ b, s.sheet.fbars.find? (fun b => bitAt b.secs i.val) = some b → ¬ due b) →
        exec (.swarfHoldExpire sec) s = .next s)
    ∧ (s.pwr.swarf[i] = .decaying → ∃ t, exec (.swarfDecayStep sec) s = .next t
        ∧ (∀ k, mine k → t.pwr.swarfRate[k] = s.pwr.swarfRate[k] - 1) ∧ only t ∧ t.pwr.swarf = s.pwr.swarf
        ∧ t.pwr.rampRate = s.pwr.rampRate)
    ∧ (s.pwr.swarf[i] ≠ .decaying → exec (.swarfDecayStep sec) s = .next s)
    ∧ (s.pwr.swarf[i] = .ramping → ∃ t, exec (.rampStep sec) s = .next t
        ∧ (∀ k, mine k → t.pwr.rampRate[k] = min 64 (s.pwr.rampRate[k] + 1)) ∧ only t
        ∧ t.pwr.swarfRate = s.pwr.swarfRate
        ∧ ((∀ k, mine k → 63 ≤ s.pwr.rampRate[k]) → t.pwr.swarf[i] = .off)
        ∧ ((∃ k, mine k ∧ s.pwr.rampRate[k] < 63) → t.pwr.swarf[i] = .ramping))
    ∧ (s.pwr.swarf[i] ≠ .ramping → exec (.rampStep sec) s = .next s))
  ∧ (∀ s : State, 1 ≤ s.issueRate ∧ (s.pwr.capRate ≤ 64 → s.issueRate ≤ 64)
    ∧ (0 < s.pwr.capRate → s.issueRate ≤ s.pwr.capRate) ∧ (0 < s.pwr.thermRate → s.issueRate ≤ s.pwr.thermRate)
    ∧ ∀ q, q < 4 → bitAt s.rst.active q = false → (0 < s.pwr.droopRate.toList.getD q 64 → s.issueRate ≤ s.pwr.droopRate.toList.getD q 64)
      ∧ ∀ i, i < 2 → 0 < s.pwr.rampRate.toList.getD (4 * i + q) 64 → s.issueRate ≤ s.pwr.rampRate.toList.getD (4 * i + q) 64)
  ∧ (∀ (s : State) (v : Word), s.hostMay 2 0x110010 → ∃ t, exec (.pwrFreqWrite v) s = .next t ∧ answered s t 2 0
    ∧ (40 ≤ fldN v 0 8 → fldN v 0 8 ≤ 96 → t.pwr.fstep.toNat = fldN v 0 8
        ∧ (t.pwr.pending = true ↔ 25 * min (fldN v 0 8) s.minFmax ≠ s.pwr.clock) ∧ t.pwr.asked = s.bea.count)
    ∧ (fldN v 0 8 < 40 ∨ 96 < fldN v 0 8 → t.pwr = s.pwr)
    ∧ { t.quiet s with pwr := { t.pwr with
        fstep := s.pwr.fstep, pending := s.pwr.pending, asked := s.pwr.asked } } = s)
  ∧ (∀ s : State,
    let busy := ∃ b, s.pwr.changed = some b ∧ s.bea.count.toNat < b.toNat + 4
    let near := ∃ b, s.pwr.droopBeat = some b ∧ s.bea.count.toNat ≤ b.toNat + 4
    let clock := 25 * min s.pwr.fstep.toNat s.minFmax
    let volts := clock ≤ s.pwr.clock ∨ s.pwr.asked.toNat + 4 ≤ s.bea.count.toNat
    (s.pwr.pending = false ∨ busy ∨ ¬ volts → exec .freqChange s = .next s)
    ∧ (s.pwr.pending = true → ¬ busy → volts → near → ∃ t, exec .freqChange s = .next t
      ∧ lo32 t.pwr.dcount = min (lo32 s.pwr.dcount + 1) 0xFFFFFFFF ∧ t.causeOf .pwr = s.causeOf .pwr ||| 2
      ∧ t.pwr.clock = s.pwr.clock ∧ t.pwr.pending = true ∧ { t.quiet s with pwr := s.pwr, cause := s.cause } = s)
    ∧ (s.pwr.pending = true → ¬ busy → volts → ¬ near → ∃ t, exec .freqChange s = .next t ∧ t.pwr.clock = clock
      ∧ t.pwr.pending = false ∧ t.pwr.changed = (if clock < s.pwr.clock then some s.bea.count else none)
      ∧ (bitAt t.pwr.why 0 = true ↔ s.minFmax < s.pwr.fstep.toNat) ∧ (bitAt t.pwr.why 1 = true ↔ s.pwr.fstep.toNat < 96)
      ∧ { t with pwr := { t.pwr with
          clock := s.pwr.clock, pending := s.pwr.pending, changed := s.pwr.changed, why := s.pwr.why } } = s))
  ∧ (∀ s : State, s.hostMay 2 0x110018 →
    (s.stopped .ary = true → s.noCast = true → ∃ t, exec .pwrCtrlAnneal s = .next t ∧ answered s t 2 0
      ∧ t.quiet s = { s with pwr := { s.pwr with annealing := true } })
    ∧ (s.stopped .ary = false ∨ s.noCast = false → ∃ t, exec .pwrCtrlAnneal s = .next t ∧ answered s t 2 0
      ∧ t.causeOf .pwr = s.causeOf .pwr ||| 0x200 ∧ { t.quiet s with cause := s.cause } = s)
    ∧ ∃ t, exec .pwrCtrlClracc s = .next t ∧ answered s t 2 0
      ∧ t.quiet s = { s with pwr := { s.pwr with thrAcc := Vector.replicate 7 0 } })
  ∧ (∀ (s : State) (r : CoreAnneal),
    (s.pwr.annealing = false → exec (.clockAnnealComplete [r]) s = .next s)
    ∧ (s.pwr.annealing = true → r.core < s.sizCores → 1 ≤ r.passed.toNat → let p := s.physCore r.core
      ∃ t, exec (.clockAnnealComplete [r]) s = .next t ∧ t.pwr.annealing = false ∧ t.flash.annealed = s.flash.hours
        ∧ fldN (t.patina p) 56 8 = r.passed.toNat - 1 ∧ fldN (t.patina p) 48 8 = fldN (s.patina p) 48 8
        ∧ fldN (t.patinaNow p) 24 24 = s.flash.hours.toNat ∧ t.flash.droops = s.flash.droops
        ∧ fldN (t.patina p) 0 8 = (if r.margin = true then min 255 (fldN (s.patina p) 0 8 + 5) else fldN (s.patina p) 0 8)
        ∧ (∀ k, k ≠ p → t.patina k = s.patina k)
        ∧ t.causeOf .pwr = s.causeOf .pwr ||| (if r.passed.toNat - 1 < 96 then 0x40 else 0)
        ∧ (t.pwr.pending = true ↔ s.pwr.pending = true ∨ 25 * min s.pwr.fstep.toNat t.minFmax ≠ s.pwr.clock)
        ∧ t.mem = s.mem ∧ t.fn = s.fn ∧ t.pwr.clock = s.pwr.clock))

/-! ## Sessions, keys, firmware, attestation, attention -/

/-- R366 to R375, R382: sessions, their privilege, keys, the claim. -/
def Obligations.SessionsAndKeys : Prop :=
  (∀ (s : State) (slot : Word) (nonce proof : List Byte), (s.port 7).isUp = true → s.answersWait →
    (15 < slot.toNat ∨ nonce.length ≠ 32 → ∃ t, exec (.sopen slot nonce) s = .next t ∧ answered s t 0x10 6
      ∧ t.quiet s = s)
    ∧ (15 < slot.toNat ∨ proof.length ≠ 48 → ∃ t, exec (.sproof slot proof) s = .next t ∧ answered s t 0x12 6
      ∧ t.quiet s = s)
    ∧ (slot.toNat ≤ 15 → nonce.length = 32 → proof.length = 48 →
      (s.sec.lockout = true → (∃ t, exec (.sopen slot nonce) s = .next t ∧ answered s t 0x10 9 ∧ t.quiet s = s)
        ∧ ∃ t, exec (.sproof slot proof) s = .next t ∧ answered s t 0x12 9 ∧ t.quiet s = s)
      ∧ (s.sec.lockout = false → ∃ t c, exec (.sopen slot nonce) s = .next t
        ∧ (t.quiet s).sec = { s.sec with challenge := some c } ∧ c.slot.toNat = slot.toNat ∧ c.nh = nonce ∧ c.nd.length = 32
        ∧ replied s t [⟨0x11, 0, c.sid.setWidth 64, 0, true, c.nd, []⟩]
        ∧ { t.quiet s with sec := s.sec, fresh := s.fresh } = s)
      ∧ (s.sec.lockout = false →
        (s.sec.challenge = none ∨ (∃ c, s.sec.challenge = some c ∧ (c.slot.toNat ≠ slot.toNat
            ∨ (s.keySlot slot.toNat).priv = 0
            ∨ proof ≠ hmac384 (s.keySlot slot.toNat).key (textBytes "YN-OPEN" ++ c.nd ++ c.nh ++ s.serialName
                ++ [c.slot.setWidth 8]))) →
          ∃ t, exec (.sproof slot proof) s = .next t ∧ answered s t 0x12 8
            ∧ (t.quiet s).sec = { s.sec with
                fails := s.sec.fails + 1, authfail := addLo s.sec.authfail 1, lockout := decide (7 ≤ s.sec.fails) }
            ∧ t.causeOf .sec = s.causeOf .sec ||| 2 ||| (if 7 ≤ s.sec.fails then 4 else 0)
            ∧ { t.quiet s with sec := s.sec, cause := s.cause } = s)
        ∧ (∀ c, s.sec.challenge = some c → c.slot.toNat = slot.toNat → (s.keySlot slot.toNat).priv ≠ 0 →
          proof = hmac384 (s.keySlot slot.toNat).key (textBytes "YN-OPEN" ++ c.nd ++ c.nh ++ s.serialName
              ++ [c.slot.setWidth 8]) →
          let k := s.keySlot slot.toNat
          ∃ t, exec (.sproof slot proof) s = .next t
            ∧ t.sec.session = some ⟨c.slot, k.priv, c.sid, trafficKeys k.key (c.nh ++ c.nd)⟩
            ∧ t.sec.challenge = none ∧ t.sec.fails = 0 ∧ t.sec.opens = s.sec.opens + 1 ∧ t.priv = k.priv
            ∧ replied s t [⟨0x13, 0, c.sid.setWidth 64, 0, true, hmac384 k.key
                (textBytes "YN-OK" ++ c.nh ++ c.nd ++ s.serialName ++ [c.slot.setWidth 8]), []⟩]
            ∧ (t.port 7).key = some (hkdf384 k.key (c.nh ++ c.nd) (textBytes "YN P7 M2H key") 32,
                hkdf384 k.key (c.nh ++ c.nd) (textBytes "YN P7 M2H iv") 4)
            ∧ (t.port 7).group = [] ∧ (t.port 7).ctrls = 0
            ∧ { t.quiet s with sec := s.sec } = s))))
  ∧ (∀ s : State, (s.sec.lockout = false → exec .sessionLockoutExpire s = .next s)
    ∧ (s.sec.lockout = true → exec .sessionLockoutExpire s
        = .next { s with sec := { s.sec with lockout := false, fails := 0 } }))
  ∧ (∀ (s : State) (slot len off : Word) (priv : BitVec 8) (key data : List Byte),
    ∀ q ∈ [(Instr.skey slot priv key, 0x20, decide (1 ≤ slot.toNat) && decide (slot.toNat ≤ 15) && decide (priv.toNat ≤ 3)
              && key.length == 32, 3), (Instr.fkey key, 0x21, key.length == 32 || key.isEmpty, 3),
           (Instr.fww off data, 0x28, decide (data.length ≤ 448), 3), (Instr.fwend len, 0x29, true, 3),
           (Instr.attest key, 0x30, key.length == 32, 1), (Instr.sclose, 0x14, true, 1)],
    ((s.port 7).isUp = false → exec q.1 s = .next s)
    ∧ ((s.port 7).isUp = true → s.answersWait → s.sec.session = none → ∃ t, exec q.1 s = .next t ∧ answered s t q.2.1 5 ∧ t.quiet s = s)
    ∧ ((s.port 7).isUp = true → s.answersWait → s.sec.session.isSome = true → q.2.2.1 = false →
        ∃ t, exec q.1 s = .next t ∧ answered s t q.2.1 6 ∧ t.quiet s = s)
    ∧ ((s.port 7).isUp = true → s.answersWait → s.sec.session.isSome = true → q.2.2.1 = true → s.priv.toNat < q.2.2.2 →
        ∃ t, exec q.1 s = .next t ∧ answered s t q.2.1 1 ∧ t.causeOf .sec = s.causeOf .sec ||| 1
          ∧ (bitAt s.sec.privlog 63 = false ∨ bitAt (s.causeOf .sec) 0 = false → bitAt t.sec.privlog 63 = true
              ∧ fldN t.sec.privlog 61 2 = q.2.2.2 ∧ fldN t.sec.privlog 55 6 = q.2.1)
          ∧ { (t.quiet s).sec with privlog := s.sec.privlog } = s.sec
          ∧ { t.quiet s with sec := s.sec, cause := s.cause } = s))
  ∧ (∀ s : State, (s.port 7).isUp = true → s.answersWait → s.sec.session.isSome = true → 1 ≤ s.priv.toNat →
    ∃ t, exec .sclose s = .next t ∧ answered s t 0x14 0 ∧ (t.port 7).key = none
      ∧ t.quiet s = { s with sec := { s.sec with session := none } })
  ∧ (∀ (s : State) (slot : Word) (priv : BitVec 8) (key : List Byte), (s.port 7).isUp = true → s.answersWait → s.priv = 3 →
    (1 ≤ slot.toNat → slot.toNat ≤ 15 → priv.toNat ≤ 3 → key.length = 32 →
      ∃ t, exec (.skey slot priv key) s = .next t ∧ answered s t 0x20 0
        ∧ t.keySlot slot.toNat = (if priv = 0 then ⟨0, []⟩ else ⟨BitVec.ofNat 2 priv.toNat, key⟩)
        ∧ (∀ n, n ≠ slot.toNat → t.keySlot n = s.keySlot n)
        ∧ { t.quiet s with flash := { t.flash with keys := s.flash.keys } } = s)
    ∧ (key.length = 32 ∨ key = [] → ∃ t, exec (.fkey key) s = .next t ∧ answered s t 0x21 0
        ∧ t.quiet s = { s with flash := { s.flash with fabric := key } }))
  ∧ (∀ s : State,
    (s.hostMay 1 0x120010 → ∃ t, exec .secCtrlClose s = .next t ∧ answered s t 2 0 ∧ (t.port 7).key = none
      ∧ t.quiet s = { s with sec := { s.sec with session := none } })
    ∧ (s.hostMay 3 0x120010 → ∃ t, exec .secCtrlRelease s = .next t ∧ answered s t 2 0
      ∧ t.quiet s = { s with
          sec := { s.sec with session := none }, flash := { s.flash with keys := [], fabric := [], owned := false } })
    ∧ (s.hostMay 3 0x120010 → ∃ t, exec .secCtrlCommitSvn s = .next t ∧ answered s t 2 0
      ∧ (∀ k : Fin 5, t.flash.fuse[k].toNat = max s.flash.fuse[k].toNat s.sec.run[k].toNat)
      ∧ { t.quiet s with flash := { t.flash with fuse := s.flash.fuse } } = s))
  ∧ (∀ (s : State) (n : BitVec 2) (v : Word), s.sys.standby = true →
    (s.flash.owned = true → (∃ t, exec (.secClaimWrite n v) s = .next t ∧ t.quiet s = s)
      ∧ ∃ t, exec .secClaimGo s = .next t ∧ t.quiet s = s)
    ∧ (s.flash.owned = false → (∃ t, exec (.secClaimWrite n v) s = .next t ∧ t.flash.claim[n.toNat] = v
        ∧ (∀ k : Fin 4, k.val ≠ n.toNat → t.flash.claim[k] = s.flash.claim[k])
        ∧ { t.quiet s with flash := { t.flash with claim := s.flash.claim } } = s)
      ∧ ∃ t, exec .secClaimGo s = .next t ∧ t.flash.owned = true
        ∧ t.keySlot 0 = ⟨3, s.flash.claim.toList.flatMap (fun w => leBytes 8 w.toNat)⟩
        ∧ (∀ k, k ≠ 0 → t.keySlot k = s.keySlot k)
        ∧ { t.quiet s with flash := { t.flash with keys := s.flash.keys, owned := false } } = s))

/-- R376 to R379, R381, R383: firmware, attestation, attention frames. -/
def Obligations.FirmwareAttestationAttention : Prop :=
  (∀ (s : State) (off len : Word) (data : List Byte), (s.port 7).isUp = true → s.answersWait → s.priv = 3 →
    (s.sec.verifying.isSome = true → data.length ≤ 448 →
      (∃ t, exec (.fww off data) s = .next t ∧ answered s t 0x28 7 ∧ t.quiet s = s)
      ∧ ∃ t, exec (.fwend len) s = .next t ∧ answered s t 0x29 7 ∧ t.quiet s = s)
    ∧ (s.sec.verifying = none →
      (data.length ≤ 448 → ∃ t, exec (.fww off data) s = .next t ∧ answered s t 0x28 0
        ∧ (∀ k, k < data.length → data[k]? = some (smGet 0 t.sec.staged (off.toNat + k)))
        ∧ (∀ k, k < off.toNat ∨ off.toNat + data.length ≤ k → smGet 0 t.sec.staged k = smGet 0 s.sec.staged k)
        ∧ { (t.quiet s).sec with staged := s.sec.staged } = s.sec ∧ { t.quiet s with sec := s.sec } = s)
      ∧ ∃ t, exec (.fwend len) s = .next t ∧ s.handed t 7 []
        ∧ t.sec.answers = s.sec.answers ++ [⟨s.sec.reqs + 1, some .image, []⟩]
        ∧ t.quiet s = { s with sec := { s.sec with verifying := some len.toNat } }))
  ∧ (∀ m : List Byte, imageSound m = true ↔ leNat (m.take 8) = 0x4D494657524E5947
    ∧ m.length = 17120 + leNat ((m.drop 16).take 8) ∧ leNat ((m.drop 9).take 1) ≤ 64
    ∧ sha384 (m.drop 17120) = (m.drop 24).take 48 ∧ Config.imageSigned m = true)
  ∧ (∀ s : State, (s.sec.verifying = none → exec .firmwareVerifyComplete s = .next s)
    ∧ (∀ n, s.sec.verifying = some n →
      let m := smGetRun 0 s.sec.staged 0 n
      let kind := leNat ((m.drop 8).take 1)
      let svn := leNat ((m.drop 9).take 1)
      let fuse := (s.flash.fuse.toList.getD (kind - 1) 0).toNat
      let good := 1 ≤ kind ∧ kind ≤ 5 ∧ imageSound m = true
      (good → fuse ≤ svn → ∃ t, exec .firmwareVerifyComplete s = .next t
        ∧ smGet [] t.flash.images ((if s.runBank kind then 0 else 8) + kind) = m
        ∧ (∀ k, k ≠ (if s.runBank kind then 0 else 8) + kind → smGet [] t.flash.images k = smGet [] s.flash.images k)
        ∧ t.switched kind = (!s.runBank kind ^^ s.flash.bank)
        ∧ (t.quiet s).sec = { s.sec with verifying := none, staged := [] }
        ∧ cameFor s t .image [⟨0x29, 0, BitVec.ofNat 64 n, 0, true, [], []⟩]
        ∧ { t.quiet s with flash := { t.flash with images := s.flash.images, switch := s.flash.switch }, sec := s.sec } = s)
      ∧ (good → svn < fuse → ∃ t, exec .firmwareVerifyComplete s = .next t ∧ t.flash = s.flash
        ∧ t.causeOf .sec = s.causeOf .sec ||| 0x30 ∧ (t.quiet s).sec = { s.sec with verifying := none, staged := [] }
        ∧ cameFor s t .image [⟨0x29, 6, BitVec.ofNat 64 n, 0, true, [], []⟩] ∧ { t.quiet s with sec := s.sec, cause := s.cause } = s)
      ∧ (¬ good → ∃ t, exec .firmwareVerifyComplete s = .next t ∧ t.flash = s.flash
        ∧ t.causeOf .sec = s.causeOf .sec ||| 0x10 ∧ (t.quiet s).sec = { s.sec with verifying := none, staged := [] }
        ∧ cameFor s t .image [⟨0x29, 6, BitVec.ofNat 64 n, 0, true, [], []⟩] ∧ { t.quiet s with sec := s.sec, cause := s.cause } = s)))
  ∧ (∀ (s : State) (nonce : List Byte), (s.port 7).isUp = true → s.answersWait → s.sec.session.isSome = true → 1 ≤ s.priv.toNat →
    nonce.length = 32 →
    (s.sec.attest.isSome = true → ∃ t, exec (.attest nonce) s = .next t ∧ answered s t 0x30 7 ∧ t.quiet s = s)
    ∧ (s.sec.attest = none → ∃ t, exec (.attest nonce) s = .next t ∧ s.handed t 7 []
        ∧ t.sec.answers = s.sec.answers ++ [⟨s.sec.reqs + 1, some .report, []⟩]
        ∧ t.quiet s = { s with sec := { s.sec with attest := some nonce } }))
  ∧ (∀ s : State, (s.sec.attest = none → exec .attestComplete s = .next s)
    ∧ (∀ nonce, s.sec.attest = some nonce → ∃ t l, exec .attestComplete s = .next t ∧ cameFor s t .report l
      ∧ l.length = 40 ∧ (∀ i m, l[i]? = some m → m.op = 0x30 ∧ m.status = 0 ∧ m.off = i ∧ m.last = decide (i = 39))
      ∧ (l.flatMap HostMsg.data).take 1280 = s.reportBody nonce
      ∧ { t.quiet s with fresh := s.fresh } = { s with sec := { s.sec with attest := none } }))
  ∧ (∀ (s : State) (nonce : List Byte), nonce.length = 32 → let b := s.reportBody nonce
    b.length = 1280 ∧ leNat (b.take 8) = 0x54525441524E5947 ∧ (b.drop 8).take 32 = nonce
    ∧ leNat ((b.drop 40).take 8) = s.flash.serial[0].toNat ∧ leNat ((b.drop 48).take 8) = s.flash.serial[1].toNat
    ∧ leNat ((b.drop 64).take 8) = s.bea.count.toNat ∧ (b.drop 74).take 5 = s.sec.run.toList
    ∧ (b.drop 79).take 5 = s.flash.fuse.toList)
  ∧ (∀ s : State,
    let may := s.sec.session.isSome = true ∧ (s.port 7).isUp = true ∧ s.atn.frame = true ∧ s.atn.owed = true
    (¬ may → exec .attnFrameSend s = .next s)
    ∧ (may → ∃ t h p, exec .attnFrameSend s = .next t ∧ s.handed t 7 [⟨12, h, p⟩] ∧ p.take 2 = [0x38, 0]
      ∧ leNat ((p.drop 16).take 8) = s.attention.toNat ∧ t.atn = { s.atn with owed := false } ∧ t.quiet s = s)
    ∧ (s.hostMay 1 0x130010 → ∃ u t h p, exec .atnCtrlResend s = .next t
      ∧ answered s u 2 0 ∧ u.handed t 7 [⟨12, h, p⟩] ∧ t.sec.answers = u.sec.answers ∧ p.take 2 = [0x38, 0]
      ∧ leNat ((p.drop 16).take 8) = s.attention.toNat ∧ t.atn.frame = s.atn.frame ∧ t.quiet s = s))

/-! ## Resets and power states -/

/-- R376, R384, R385, R390 to R395, R400: cold and warm resets and their sequences. -/
def Obligations.ColdAndWarmResets : Prop :=
  (∀ (s : State) (pu : PowerUp),
    ∃ t, exec (.coldReset pu) s = .next t ∧ t.pending = s.pending ∧ t.sent = s.sent ∧ t.mem = [] ∧ t.headers = []
      ∧ t.cast = none ∧ t.staged = none ∧ t.cnd = Cnd.atReset ∧ t.sheet = Sheet.atReset ∧ t.bea = Bea.atReset
      ∧ t.tmv = Tmv.atReset ∧ t.tir = Tir.atReset ∧ t.bnk = Bnk.atReset ∧ t.fol = Fol.atReset ∧ t.twn = Twn.atReset
      ∧ t.upd = Upd.atReset ∧ t.vec = Vec.atReset ∧ t.tim = Tim.atReset ∧ { t.mdv with trained := 0 } = Mdv.atReset
      ∧ t.sec.session = none ∧ t.sec.lockout = false ∧ t.rst.last = 1 ∧ t.rst.warms = 0 ∧ t.rst.reverted = 0x7FF
      ∧ t.flash = { s.flash.settleBank with logNew := false, tshut := false, claim := Vector.replicate 4 0 }
      ∧ t.held = [] ∧ t.bst.result = (if s.bst.busy then 3 else 0) ∧ t.bst.busy = false
      ∧ bitAt (t.causeOf .mgt) 1 = s.flash.logNew ∧ bitAt (t.causeOf .pwr) 3 = s.flash.tshut
      ∧ ((∀ k, 1 ≤ k → k ≤ 5 → s.boots k) →
        (pu.hang = none → (widthOf 7 (pu.p7Lanes.setWidth 16)).isSome = true → pu.trained = 0xFFFFFF → readyAfter t pu
            ∧ (pu.fails = [] → t.bst.log = [] ∧ t.bst.pu = 0)
            ∧ (∀ d, d < 24 → (bitAt t.bst.pu d = true ↔ s.flash.pumem ≠ 0
                ∧ ∃ e ∈ pu.fails, (e.area = 6 ∨ e.area = 7) ∧ e.dev.toNat = d)))
        ∧ (pu.hang = none → widthOf 7 (pu.p7Lanes.setWidth 16) = none → (t.port 7).state = 6
            ∧ bitAt (t.causeOf .lnk) 0 = true ∧ t.sys.ready = false ∧ t.sys.fail = true
            ∧ t.mgt.stop = 5 ∧ bitAt (t.causeOf .mgt) 0 = true)
        ∧ (pu.hang = none → (widthOf 7 (pu.p7Lanes.setWidth 16)).isSome = true → pu.trained ≠ 0xFFFFFF →
            t.sys.ready = false ∧ t.sys.fail = true ∧ t.mgt.stop = 6 ∧ t.fnState .mdv = .stopped
            ∧ bitAt (t.causeOf .mgt) 0 = true ∧ bitAt (t.causeOf .mdv) 4 = true)
        ∧ (∀ n, pu.hang = some n → 1 ≤ n.toNat → n.toNat ≤ 6 →
            (n = 6 → (widthOf 7 (pu.p7Lanes.setWidth 16)).isSome = true) → t.sys.ready = false ∧ t.sys.fail = false
            ∧ t.mgt.phase.toNat = n.toNat))
      ∧ (pu.hang = none → (¬ s.boots 1 ∨ ¬ s.boots 2 → t.mgt.stop = 1)
          ∧ (s.boots 1 → s.boots 2 → ¬ s.boots 4 → t.mgt.stop = 2)
          ∧ (s.boots 1 → s.boots 2 → s.boots 4 → ¬ s.boots 3 ∨ ¬ s.boots 5 → t.mgt.stop = 3)
          ∧ ((∃ k, 1 ≤ k ∧ k ≤ 5 ∧ ¬ s.boots k) → t.sys.ready = false ∧ t.sys.fail = true ∧ (t.port 7).state = 0
              ∧ bitAt (t.causeOf .mgt) 0 = true ∧ bitAt (t.causeOf .sec) 4 = true)))
  ∧ (∀ s : State,
    let hung := s.sys.ready = false ∧ s.sys.fail = false ∧ 1 ≤ s.mgt.phase.toNat ∧ s.mgt.phase.toNat ≤ 6
    (¬ hung → exec .powerUpPhaseTimeout s = .next s)
    ∧ (hung → ∃ t, exec .powerUpPhaseTimeout s = .next t ∧ t.sys = { s.sys with fail := true }
        ∧ t.mgt.stop.toNat = s.mgt.phase.toNat ∧ t.causeOf .mgt = s.causeOf .mgt ||| 1
        ∧ { t.quiet s with sys := s.sys, mgt := { t.mgt with stop := s.mgt.stop }, cause := s.cause } = s))
  ∧ (∀ (s : State) (pu : PowerUp),
    let may := s.mainOn = true ∧ (s.rst.last ≠ 1 ∨ s.sys.ready = true ∨ (s.sys.fail = true ∧ 4 ≤ s.mgt.phase.toNat))
    let trains := pu.hang = none ∧ (widthOf 7 (pu.p7Lanes.setWidth 16)).isSome = true ∧ pu.trained = 0xFFFFFF
    (¬ may ∨ s.sys.pwrLow = true → exec (.rstInN pu) s = .next s)
    ∧ (may → s.sys.pwrLow = false → s.mdv.busy = false → s.bst.busy = false → ∃ t, exec (.rstInN pu) s = .next t
        ∧ warmKept s t 2 ∧ t.sent = s.sent ∧ (trains → readyAfter t pu))
    ∧ (may → s.sys.pwrLow = false → s.bst.busy = true → ∃ t, exec (.rstInN pu) s = .next t ∧ t.bst.busy = false ∧ t.bst.result = 3
        ∧ t.rst.last = 2)
    ∧ (s.hostMay 3 0x000020 →
      (¬ may → ∃ t, exec (.sysResetWarm pu) s = .next t ∧ answered s t 2 0 ∧ t.quiet s = s)
      ∧ (may → s.mdv.busy = false → s.bst.busy = false → ∃ t l, exec (.sysResetWarm pu) s = .next t
          ∧ t.sent = s.sent ++ l ∧ warmKept s t 3 ∧ (trains → readyAfter t pu)
          ∧ (s.sec.answers = [] → (s.port 7).out = [] → (s.port 7).state = 4 → (s.port 7).credited hostChannel = true →
              ∃ h rest, l = .frame 7 12 h (hostPayload 2 0 0x20 [] []) :: rest)
          ∧ t.sec.answers = [])))

/-- R355, R388 to R391, R402, R406, R413, R414: power states, shutdown and supplies. -/
def Obligations.PowerStatesAndSupplies : Prop :=
  (∀ (s : State) (v : Word), s.hostMay 2 0x000018 → s.sys.entering = none → s.sys.exiting = false →
    let want := fldN v 0 3
    let from_ := s.sys.ps.toNat
    let met := (want = 1 ∧ s.stopped .ary = true) ∨ ((want = 2 ∨ want = 3) ∧ s.noCast = true ∧ s.loadMap = true) ∨ want = 4
    (4 < want → ∃ t, exec (.sysPstateWrite v) s = .next t ∧ answered s t 2 0 ∧ t.quiet s = s)
    ∧ (want ≤ 4 → want = from_ → ∃ t, exec (.sysPstateWrite v) s = .next t ∧ answered s t 2 0
        ∧ t.quiet s = { s with sys := { s.sys with target := BitVec.ofNat 3 want } })
    ∧ (want ≤ 4 → want ≠ from_ → s.bst.busy = true ∨ (want ≠ 0 ∧ (want < from_ ∨ ¬ met)) →
        ∃ t, exec (.sysPstateWrite v) s = .next t ∧ answered s t 2 0 ∧ t.causeOf .sys = s.causeOf .sys ||| 1
          ∧ { t.quiet s with cause := s.cause } = s)
    ∧ (want ≤ 4 → from_ < want → met → s.bst.busy = false → ∃ t, exec (.sysPstateWrite v) s = .next t ∧ answered s t 2 0
        ∧ t.quiet s = { s with sys := { s.sys with
            target := BitVec.ofNat 3 want, entering := some (if s.sys.pwrLow then 4 else BitVec.ofNat 3 want)
            exiting := false, wake := false } })
    ∧ (want = 0 → 0 < from_ → from_ ≠ 4 → s.bst.busy = false → ∃ t, exec (.sysPstateWrite v) s = .next t
        ∧ answered s t 2 0 ∧ t.quiet s = { s with sys := { s.sys with target := 0, exiting := true } }))
  ∧ (∀ s : State, (s.sys.entering = none → exec .pstateEntryComplete s = .next s)
    ∧ (∀ want : BitVec 3, s.sys.entering = some want →
      (want = 1 ∨ want = 2 → ∃ t, exec .pstateEntryComplete s = .next t
        ∧ t.sys = { s.sys with ps := want, entering := none, wake := false, exiting := s.sys.exiting || s.sys.wake }
        ∧ { t.quiet s with sys := s.sys } = s)
      ∧ (want = 3 → ∃ t, exec .pstateEntryComplete s = .next t ∧ t.sys.ps = 3 ∧ t.sys.entering = none
        ∧ (∀ p, p < 8 → (t.port p).state = 0 ∧ (t.port p).width = 0) ∧ t.sec.session = none
        ∧ (s.bea.srcAct ≠ 1 → t.bea.hold = true) ∧ (s.bea.srcAct = 1 → t.bea = s.bea) ∧ t.bea.count = s.bea.count ∧ t.lnk.take = false ∧ t.mem = s.mem
        ∧ t.headers = s.headers ∧ t.fn = s.fn ∧ (s.twn.pair = .soldered → t.twn.pair = .single))
      ∧ (want = 4 → ∃ t, exec .pstateEntryComplete s = .next t ∧ railsLost s t ∧ t.flash = s.flash)))
  ∧ (∀ (s : State) (trained : BitVec 24),
    (s.sys.exiting = false ∨ s.sys.ps = 0 ∨ s.sys.ps = 4 → exec (.pstateExitComplete trained) s = .next s)
    ∧ (s.sys.exiting = true → s.sys.ps ≠ 0 → s.sys.ps ≠ 4 → ∃ t, exec (.pstateExitComplete trained) s = .next t
      ∧ t.sys = { s.sys with ps := 0, exiting := false } ∧ t.rst.last = 6 ∧ t.rst.fromPs = s.sys.ps
      ∧ (s.sys.ps = 1 → { t.quiet s with sys := s.sys, rst := s.rst } = s)
      ∧ (s.sys.ps = 2 → (∀ p, p < t1Base → t.byte p = 0) ∧ (∀ p, t1Base ≤ p → t.byte p = s.byte p) ∧ t.headers = []
          ∧ { t.quiet s with sys := s.sys, rst := s.rst, mem := s.mem, headers := s.headers } = s)
      ∧ (s.sys.ps = 3 → (∀ p, p < t1End → t.byte p = 0) ∧ (∀ p, t1End ≤ p → t.byte p = s.byte p) ∧ t.headers = []
          ∧ t.rst.reverted = s.rst.reverted ||| 0x46 ∧ bitAt (t.causeOf .rst) 1 = true
          ∧ t.sheet.set = Epoched.at ⟨0x81, 1⟩ ∧ t.tmv.cfg = Epoched.at 0x20 ∧ t.twn.pair = .single
          ∧ t.twn.set = Twn.atReset.set ∧ t.twn.recov = 0 ∧ t.fn.ary = FnReg.atReset ∧ t.fn.tmv = FnReg.atReset
          ∧ t.fn.twn = FnReg.atReset ∧ t.fn.lnk = s.fn.lnk ∧ t.fn.mdv = s.fn.mdv
          ∧ (∀ b, b ≠ .rst → b ≠ .bst → b ≠ .mgt → b ≠ .pwr → b ≠ .mdv → t.causeOf b = 0) ∧ t.tim = Tim.atReset
          ∧ t.mdv.trained = trained ∧ t.causeOf .mdv = (if trained = 0xFFFFFF then 0 else 0x10)
          ∧ (s.bea.srcAct = 0 → t.bea.hold = false) ∧ t.bea.count = s.bea.count
          ∧ (t.port 6).state = 2 ∧ (t.port 7).state = 2 ∧ (∀ p, p < 6 → (t.port p).state = 1))))
  ∧ (∀ (s : State) (sensor : BitVec 8),
    (s.mainOn = false → exec (.thermalShutdown sensor) s = .next s ∧ exec .mainSupplyLoss s = .next s)
    ∧ (s.sys.pwrLow = true → exec .pwrEnLow s = .next s)
    ∧ (s.mainOn = false → s.sys.pwrLow = false → exec .pwrEnLow s = .next { s with sys := { s.sys with pwrLow := true } })
    ∧ (s.mainOn = true →
      (∃ t, exec (.thermalShutdown sensor) s = .next t ∧ railsLost s t ∧ t.sys.shutdown = true ∧ t.flash.tshut = true
        ∧ t.flash.log = logWord 1 sensor.toNat s.flash.hours ∧ t.flash.logNew = true)
      ∧ (∃ t, exec .mainSupplyLoss s = .next t ∧ railsLost s t ∧ t.sys.shutdown = true ∧ t.flash.tshut = s.flash.tshut
        ∧ t.flash.log = logWord 2 0 s.flash.hours ∧ t.flash.logNew = true)
      ∧ (s.sys.pwrLow = false → ∃ t, exec .pwrEnLow s = .next t ∧ t.lnk.take = false ∧ t.mem = s.mem ∧ t.cnd = s.cnd
        ∧ t.fn = s.fn ∧ t.sys = { s.sys with entering := some 4, exiting := false, wake := false, pwrLow := true }
        ∧ (s.sys.entering ≠ some 4 → t.flash = { s.flash with log := logWord 3 0 s.flash.hours, logNew := true })
        ∧ (s.sys.entering = some 4 → t.flash = s.flash)
        ∧ (s.lnk.take = true → t.causeOf .lnk = s.causeOf .lnk ||| 8)))
    ∧ (s.sys.standby = false → exec .standbySupplyLoss s = .next s)
    ∧ (s.sys.standby = true → ∃ t, exec .standbySupplyLoss s = .next t ∧ t.sys.standby = false ∧ t.flash = s.flash
        ∧ (s.mainOn = true → railsLost s t ∧ t.sys.shutdown = true)
        ∧ (s.mainOn = false → t = { s with sys := { s.sys with standby := false } })))
  ∧ (∀ s : State,
    let woken := if s.sys.shutdown then s.sys
      else if s.sys.entering.isSome then { s.sys with wake := true }
      else if s.sys.ps = 0 then s.sys else if s.sys.ps = 4 then { s.sys with wake := true }
      else { s.sys with exiting := true }
    (s.sec.session.isSome = true → s.hostMay 1 0x160010 → ∃ t, exec .mgtCtrlWake s = .next t ∧ answered s t 2 0
      ∧ t.quiet s = { s with sys := woken })
    ∧ (s.sec.session = none → s.sys.standby = true → ∃ t, exec .mgtCtrlWake s = .next t
      ∧ t.quiet s = { s with sys := woken } ∧ t.sent = s.sent))

/-- R386, R387, R395 to R399: array and port resets, the fence, the self-test on command. -/
def Obligations.ArrayPortFenceAndTest : Prop :=
  (∀ s : State, s.hostMay 2 0x140010 → ∃ t, exec .rstCtrlArray s = .next t ∧ answered s t 2 0
    ∧ (s.inSequence = true → t.quiet s = s)
    ∧ (s.inSequence = false → s.bst.busy = false → t.quiet s = { s with rst := { s.rst with arrayPend := true } })
    ∧ (s.inSequence = false → s.bst.busy = true → t.causeOf .rst = s.causeOf .rst ||| 4 ∧ { t.quiet s with cause := s.cause } = s))
  ∧ (∀ (s : State) (e : Option EdgeMeas) (l : List Corrected), s.mainOn = true → s.discards e = false →
    s.rst.arrayPend = true → s.sheet.switch = none →
    ∃ t, exec (.beatEdge e l) s = .next t ∧ t.rst = { s.rst with arrayPend := false, arrayBusy := true, last := 4 }
      ∧ (∀ b ∈ [FnBlock.cnd, .ary, .tmv, .fol], t.fnState b = .stopped)
      ∧ (s.castRuns = true → t.cnd.adm = .held ∧ t.cnd.why = 5 ∧ t.tmv.map = .held ∧ t.cast = s.cast)
      ∧ (∀ c, s.cnd.adm = .admitted → s.staged = some c → t.cast = some c ∧ t.staged = none ∧ t.cnd.adm = .held
          ∧ t.cnd.why = 5 ∧ t.tmv.map = .held)
      ∧ (s.cnd.adm = .admitting → t.staged = none ∧ t.cnd.adm = .idle ∧ t.tmv.map = .load))
  ∧ (∀ s : State, (s.rst.arrayBusy = false → exec .arrayResetComplete s = .next s)
    ∧ (s.rst.arrayBusy = true → ∃ t, exec .arrayResetComplete s = .next t ∧ t.rst = { s.rst with arrayBusy := false }
        ∧ (∀ b ∈ [FnBlock.cnd, .ary, .tmv, .fol], t.fnState b = .stopped)
        ∧ (∀ b ∈ [FnBlock.mdv, .lnk, .twn, .pwr], t.fn.get b = s.fn.get b)
        ∧ { t with rst := s.rst, fn := s.fn } = s))
  ∧ (∀ (s : State) (ports : BitVec 8), s.hostMay 2 0x140010 → ∃ t, exec (.rstCtrlPort ports) s = .next t
    ∧ answered s t 2 0
    ∧ (ports = 0 ∨ s.rst.arrayPend = true ∨ s.rst.arrayBusy = true ∨ s.inSequence = true → t.quiet s = s)
    ∧ (ports ≠ 0 → s.rst.arrayPend = false → s.rst.arrayBusy = false → s.inSequence = false →
      (∀ p, p < 8 → (t.port p).state
        = if bitAt ports p ∧ 2 ≤ (s.port p).state.toNat ∧ (6 ≤ p ∨ s.lnk.take = true) then 5 else (s.port p).state)
      ∧ t.rst = { s.rst with last := 5 }
      ∧ (t.quiet s).sec = { s.sec with session := if bitAt ports 7 then none else s.sec.session }
      ∧ { t.quiet s with rst := s.rst, sec := s.sec } = s))
  ∧ (∀ s : State, s.rst.arrayPend = false → s.rst.arrayBusy = false → s.inSequence = false →
    (s.sec.session = none → s.sys.standby = true → ∃ t, exec .mgtCtrlP7rst s = .next t
      ∧ (s.mainOn = false → t.quiet s = s)
      ∧ (s.mainOn = true → (t.port 7).state = (if 2 ≤ (s.port 7).state.toNat then 5 else (s.port 7).state)
          ∧ (∀ p, p < 7 → t.port p = s.port p) ∧ t.rst = { s.rst with last := 5 }
          ∧ { t.quiet s with rst := s.rst } = s))
    ∧ (s.hostMay 1 0x160010 → s.mainOn = true → ∃ t, exec .mgtCtrlP7rst s = .next t ∧ answered s t 2 0
      ∧ (t.port 7).state = 5 ∧ t.sec.session = none ∧ t.rst = { s.rst with last := 5 }))
  ∧ (∀ (s : State) (q : BitVec 2), s.hostMay 2 0x140018 →
    let held := s.rst.active ||| s.flash.fence
    let other := ∃ k, k < 4 ∧ k ≠ q.toNat ∧ bitAt held k = true
    (∃ t, exec (.rstFenceSet q) s = .next t ∧ answered s t 2 0 ∧ t.rst = { s.rst with quarter := q }
      ∧ (other → t.causeOf .rst = s.causeOf .rst ||| 1 ∧ t.flash = s.flash)
      ∧ (¬ other → bitAt held q.toNat = false → t.flash = { s.flash with fence := BitVec.ofNat 4 (2 ^ q.toNat) }
          ∧ t.cause = s.cause)
      ∧ (¬ other → bitAt held q.toNat = true → t.flash = s.flash ∧ t.cause = s.cause)
      ∧ { t.quiet s with rst := s.rst, flash := s.flash, cause := s.cause } = s)
    ∧ ∃ t, exec .rstFenceClear s = .next t ∧ answered s t 2 0
      ∧ t.quiet s = { s with flash := { s.flash with fence := 0 } })
  ∧ (∀ (s : State) (v : Word), s.hostMay 2 0x150008 →
    let w := bstFields s.bst.ctrl v
    let i := fldN w 0 5
    let idle := s.stopped .ary = true ∧ s.noCast = true ∧ s.loadMap = true
    let may := s.sys.ps = 0 ∧ s.bst.busy = false ∧ ((fldN w 8 4 = 1 ∧ i < 4 ∧ idle) ∨ (fldN w 8 4 = 2 ∧ i = 0 ∧ idle)
      ∨ (fldN w 8 4 = 3 ∧ i < 24 ∧ s.loadMap = true ∧ s.running .mdv = true ∧ ∀ l ∈ s.bnk.launches, l.done = true))
    (may → ∃ t, exec (.bstCtrlGo v) s = .next t ∧ answered s t 2 0 ∧ t.bst = { s.bst with
        ctrl := w, busy := true, result := 0, progress := 0, log := [], lost := 0 } ∧ { t.quiet s with bst := s.bst } = s)
    ∧ (¬ may → ∃ t, exec (.bstCtrlGo v) s = .next t ∧ answered s t 2 0 ∧ t.causeOf .bst = s.causeOf .bst ||| 2
        ∧ { t.quiet s with cause := s.cause } = s)
    ∧ fldN w 0 5 = fldN v 0 5 ∧ (1 ≤ fldN v 8 4 → fldN v 8 4 ≤ 3 → fldN w 8 4 = fldN v 8 4)
    ∧ (fldN v 16 2 < 2 → fldN w 16 2 = fldN v 16 2))
  ∧ (∀ (s : State) (l : List FailEntry), (s.bst.busy = false ∨ s.mainOn = false → exec (.bistComplete l) s = .next s)
    ∧ (s.bst.busy = true → s.mainOn = true → (fldN s.bst.ctrl 8 4 = 3 → fldN s.bst.ctrl 0 5 < 24) → let i := fldN s.bst.ctrl 0 5
      let tested (p : Nat) : Prop := (fldN s.bst.ctrl 8 4 = 1 ∧ p < t1Base ∧ p / 0x100000 < s.sizCores
          ∧ quarterOf (s.physCore (p / 0x100000)) = i) ∨ (fldN s.bst.ctrl 8 4 = 2 ∧ t1Base ≤ p ∧ p < t1End)
        ∨ (fldN s.bst.ctrl 8 4 = 3 ∧ isT2 p = true ∧ (p - t2Base) / devSize = i)
      ∃ t, exec (.bistComplete l) s = .next t ∧ t.bst.busy = false ∧ t.bst.progress = 100
        ∧ t.bst.result = (if l = [] then 1 else 2) ∧ t.bst.log.length = min l.length 64
        ∧ t.bst.lost.toNat = min (l.length - 64) 0xFFFF
        ∧ (∀ p, tested p → t.byte p = 0) ∧ (∀ p, ¬ tested p → t.byte p = s.byte p)
        ∧ (∀ k, k < 640 * 65536 → fldN s.bst.ctrl 8 4 = 3 → t.rowUnsealed (i * (640 * 65536) + k) = false)
        ∧ t.causeOf .bst = s.causeOf .bst ||| (if l = [] then 0 else 1) ||| (if 64 < l.length then 4 else 0)
        ∧ t.cnd = s.cnd ∧ t.fn = s.fn ∧ t.flash = s.flash))

/-! ## Reset, the queue and the whole machine -/

/-- A step runs the command at the front of the queue on the state with the queue's rest; on an empty queue the block
idles, which is the model's choice (log entry 5). -/
def Obligations.StepRunsFront : Prop :=
  (∀ (s : State) (c : Instr) (rest : List Instr),
    step { s with pending := c :: rest } = exec c { s with pending := rest })
  ∧ (∀ s : State, s.pending = [] → step s = .next s.tick)
  ∧ (∀ s : State, s.pending = [] → s.held = [] → s.bnk.work = none → step s = .next s)

/-- R409, R3, R8, R49, R390, R391: what the registers read right after a cold reset, from the register index. -/
def Obligations.ResetRegisters : Prop :=
  (∀ e ∈ resetColumn, ∀ k, e.first + e.step * k ≤ e.last →
    State.reset.readReg (BitVec.ofNat 24 (e.first + e.step * k)) = BitVec.ofNat 64 e.value)
  ∧ (∀ b : FnBlock, (State.reset.fn.get b).word = 2 ∧ State.reset.fnState b = .stopped)
  ∧ (∀ b : Blk, State.reset.causeOf b = (if b = .rst then 2 else 0) ∧ State.reset.maskOf b = 0)
  ∧ (∀ off : BitVec 24, 0x17 ≤ fldN off 16 8 → State.reset.readReg off = 0)
  ∧ (∀ p, State.reset.byte p = 0) ∧ State.reset.headers = [] ∧ State.reset.cast = none
  ∧ State.reset.pending = [] ∧ State.reset.sec.session = none ∧ (∀ p, (State.reset.port p).state = 0)

/-- The state at reset has the invariant of `InvariantKept`. -/
def Obligations.ResetHasInvariant : Prop := State.reset.Inv

/-- Reading and writing one byte and a run of bytes of memory (R5, R214), and the canonical form. -/
def Obligations.MemoryLaws : Prop :=
  (∀ (s : State) (p q : Nat) (b : Byte), (s.putByte p b).byte p = b ∧ (q ≠ p → (s.putByte p b).byte q = s.byte q)
    ∧ (Memory.wf s.mem = true → Memory.wf (s.putByte p b).mem = true)
    ∧ { s.putByte p b with mem := s.mem, mdv := s.mdv } = s)
  ∧ (∀ (s : State) (p : Nat) (bs : List Byte),
    (s.putRun p bs).bytes p bs.length = bs
    ∧ (∀ q, q < p ∨ p + bs.length ≤ q → (s.putRun p bs).byte q = s.byte q)
    ∧ (Memory.wf s.mem = true → Memory.wf (s.putRun p bs).mem = true))
  ∧ (∀ m n : List Host.Cell, Memory.wf m = true → Memory.wf n = true → (∀ a, smGet 0 m a = smGet 0 n a) → m = n)

/-- R70: the wait of WAITB. The count of beats does not reach the end of its 64 bits during the wait. -/
def Obligations.WaitBeats : Prop :=
  ∀ (s : State) (body : Body), s.atWord (cword 0x12 body) → s.bea.count.toNat + body.toNat < 2 ^ 64 →
    (body = 0 → ∃ t, exec (.waitb body) s = .next t ∧ passStep s t ∧ t.mayExecute = true)
    ∧ (body ≠ 0 → ∃ t, exec (.waitb body) s = .next t ∧ t.cnd.pc = s.cnd.pc ∧ t.mayExecute = false
      ∧ ∀ n : Word, let u := { t with bea := { t.bea with count := n } }
        (n.toNat < s.bea.count.toNat + body.toNat → exec .waitbExpire u = .next u ∧ u.mayExecute = false)
        ∧ (s.bea.count.toNat + body.toNat ≤ n.toNat →
          ∃ v, exec .waitbExpire u = .next v ∧ passStep u v ∧ v.mayExecute = true))

/-- R184: the pages of the U-range and the TMAP entries that map them, under the map of a cast. -/
def Obligations.TierMapPages : Prop :=
  (∀ u k : Nat, u ≤ 0x0FFFFFFFFFFF → (u / 0x10000 = k ↔ k * 0x10000 ≤ u ∧ u ≤ k * 0x10000 + 0xFFFF) ∧ u / 0x10000 < 2 ^ 28)
  ∧ (∀ (s : State) (c : CastImg) (u : Nat), s.cast = some c → s.tmv.map = .running ∨ s.tmv.map = .held →
    let k := u / 0x10000
    let entry := s.imageWord (c.tmap.addr + 8 * k)
    (u ≤ 0x0FFFFFFFFFFF → k < c.tmap.count → bitAt entry 0 = true →
      s.paddr u = some (fldN entry 6 29 * 0x10000 + u % 0x10000))
    ∧ (u ≤ 0x0FFFFFFFFFFF → c.tmap.count ≤ k ∨ bitAt entry 0 = false → s.paddr u = none)
    ∧ (0x0FFFFFFFFFFF < u → s.paddr u = none))

/-- R296: the hops of a forwarded frame. -/
def Obligations.HopLimit : Prop :=
  ∀ (s : State) (p : Nat) (h : FrameHdr) (addr len : Nat) (bs : List Byte), ∀ f ∈ dataFrames p h addr len bs,
    s.inOrder p f.1 h → s.consumes p f.1 h = false →
    let maxHops := fldN s.lnk.set.current.cfg 0 5
    (h.hops.toNat + 1 ≤ maxHops → ∀ o, s.wayTo h.dst = some o → (s.port o).joined = true →
      ∃ t g, exec f.2.2 s = .next t ∧ s.handed t o [⟨f.1, g, f.2.1⟩]
        ∧ g.hops.toNat = h.hops.toNat + 1 ∧ g.src = h.src ∧ g.dst = h.dst ∧ g.tag = h.tag ∧ g.off = h.off
        ∧ g.len = h.len ∧ g.last = h.last ∧ t.cause = s.cause)
    ∧ (maxHops < h.hops.toNat + 1 → ∃ t, exec f.2.2 s = .next t ∧ s.handed t p []
      ∧ fldN t.lnk.drop 48 16 = min (fldN s.lnk.drop 48 16 + 1) 0xFFFF ∧ bitAt (t.causeOf .lnk) 4 = true)

/-- Every step keeps the invariant: canonical memory and tile headers, at most four open loops (R65), queues within
their depths (R69), answers kept back only behind one still awaited (R368), at most one quarter fenced or to be fenced (R20, R399). -/
def Obligations.InvariantKept : Prop := ∀ s t : State, s.Inv → step s = .next t → t.Inv

/-- Commands run first in, first out: a step takes the front of the queue and leaves the rest as it is, whatever the
command does, resets included. -/
def Obligations.QueueFirstInFirstOut : Prop :=
  (∀ (s t : State) (c : Instr) (rest : List Instr), s.pending = c :: rest → step s = .next t → t.pending = rest)
  ∧ (∀ (s : State) (c : Instr) (rest : List Instr), s.pending = c :: rest → ∃ t, step s = .next t)
  ∧ (∀ s : State, s.pending = [] → ∃ t, step s = .next t ∧ t.pending = [])
end

