-- ==== Sys2Proof/Laws/Conductor.lean ====
section
/-! SUPPORT. What a conductor command does at its own instruction, and what the shared operations of the Conductor
change. -/

-- One proof after the other: side by side they want more threads than the memory of a check holds.
set_option Elab.async false

namespace Sys2Proof.Machine

/-- The opcode field of an instruction word. -/
theorem maj_of_word (m : BitVec 6) (b : Body) : fldN (m ++ b : BitVec 32) 26 6 = m.toNat := by
  have hb : b.toNat < 2 ^ 26 := b.isLt
  have hm : m.toNat < 2 ^ 6 := m.isLt
  unfold fldN
  rw [BitVec.extractLsb'_toNat]
  have : (m ++ b : BitVec 32).toNat = m.toNat * 2 ^ 26 + b.toNat := by
    show (m ++ b).toNat = _
    rw [BitVec.toNat_append, ← Nat.shiftLeft_add_eq_or_of_lt hb, Nat.shiftLeft_eq]
  rw [this, Nat.shiftRight_eq_div_pow]
  omega

/-- At its own instruction a conductor command has the effect given. -/
theorem conduct_at {s : State} {m : BitVec 6} {b : Body} (f : BitVec 32 → State → State)
    (h : s.atWord (cword m b)) (hm : knownMaj m.toNat = true) : conduct m b f s = .next (f (cword m b) s) := by
  obtain ⟨c, hc, he, hb, hp, hw⟩ := h
  unfold cword at hw ⊢
  have hp' : ¬ c.ccode.count ≤ s.cnd.pc.toNat := by omega
  have hk : knownMaj (fldN (s.ccodeAt c s.cnd.pc.toNat) 26 6) = true := by rw [hw, maj_of_word]; exact hm
  unfold conduct
  rw [hc]
  rw [hw] at hk
  simp only [he, hb, hp', hk, hw, if_true, if_false, Bool.not_true, Bool.false_eq_true, or_self]

/-- Going on changes the place in the program alone. -/
theorem goto_sameFlow (s : State) (pc : Nat) : (s.goto pc).sameFlow s = s := rfl

/-- What reaching an index leads to. -/
theorem reaches_landing (l : List LoopFrame) (pc : Nat) : reaches l pc (landing l pc).1 (landing l pc).2 := by
  induction l with
  | nil => exact ⟨rfl, rfl⟩
  | cons f t ih =>
    unfold landing reaches
    by_cases h : pc = f.stop
    · subst h
      by_cases k : 1 < f.left
      · exact .inr (.inl (by simp [k]))
      · exact .inr (.inr ⟨rfl, Nat.le_of_not_lt k, by simpa [k] using ih⟩)
    · exact .inl (by simp [h, Ne.symm h])

/-- Going on counts as going on. -/
theorem wentOn_advance (s : State) : wentOn s s.advance := ⟨rfl, _, reaches_landing _ _, rfl, rfl⟩

/-- An instruction that only goes on. -/
theorem passStep_advance (s : State) : passStep s s.advance := ⟨wentOn_advance s, rfl⟩

/-- g0 reads zero. -/
@[simp] theorem g_zero (s : State) : s.g 0 = 0 := rfl

/-- A register just written reads as written. -/
theorem g_putG_same (s : State) (r : BitVec 5) (v : Word) (h : r ≠ 0) : (s.putG r v).g r = v := by
  unfold State.putG State.g
  simp only [h, if_false]
  exact Vector.getElem_set_self (by omega)

/-- Another register is as before. -/
theorem g_putG_other (s : State) (r q : BitVec 5) (v : Word) (h : q ≠ r) : (s.putG r v).g q = s.g q := by
  unfold State.putG
  split
  · rfl
  · unfold State.g
    split
    · rfl
    · exact Vector.getElem_set_ne (by omega) (by omega) (fun e => h (BitVec.eq_of_toNat_eq e.symm))

/-- A register's write leaves the place in the program. -/
theorem putG_flow (s : State) (r : BitVec 5) (v : Word) :
    (s.putG r v).cnd.pc = s.cnd.pc ∧ (s.putG r v).cnd.loops = s.cnd.loops := by
  unfold State.putG; split <;> exact ⟨rfl, rfl⟩

/-- A register instruction: the register written, then the next instruction. -/
theorem regStep_advance (s : State) (rd : BitVec 5) (v : Word) : regStep s (s.putG rd v).advance rd v := by
  refine ⟨fun h => g_putG_same s rd v h, rfl, fun r h => g_putG_other s rd r v h, ?_, ?_⟩
  · have w := wentOn_advance (s.putG rd v)
    unfold wentOn at w ⊢
    rwa [(putG_flow s rd v).1, (putG_flow s rd v).2] at w
  · unfold State.putG; split <;> rfl

end Sys2Proof.Machine
end

