-- ==== Sys2Proof/Laws/Memory.lean ====
section
/-! SUPPORT. The laws of sparse maps and of memory: reading after writing, and the canonical form, which every operation
over memory keeps. -/

-- One proof after the other: side by side they want more threads than the memory of a check holds.
set_option Elab.async false

namespace Sys2Proof.Machine

variable {α : Type}

/-! ## Reading after writing -/

theorem smGet_erase_same (d : α) (m : SMap α) (a : Nat) : smGet d (smErase m a) a = d := by
  induction m with
  | nil => rfl
  | cons e t ih => obtain ⟨k, v⟩ := e; unfold smErase; split; exact ih; rename_i h; simp [smGet, h, ih]

theorem smGet_erase_other (d : α) (m : SMap α) {a b : Nat} (h : b ≠ a) : smGet d (smErase m a) b = smGet d m b := by
  induction m with
  | nil => rfl
  | cons e t ih =>
    obtain ⟨k, v⟩ := e; unfold smErase
    split
    · rename_i e; subst e; simp [smGet, h, ih]
    · simp [smGet, ih]

theorem smErase_keys (m : SMap α) (a : Nat) : ∀ e ∈ smErase m a, e.1 ≠ a := by
  induction m with
  | nil => simp [smErase]
  | cons e t ih =>
    obtain ⟨k, v⟩ := e; unfold smErase
    split
    · exact ih
    · rename_i h; intro e he
      rcases List.mem_cons.mp he with rfl | he
      · exact Ne.symm h
      · exact ih e he

theorem smGet_insert_same (d : α) (m : SMap α) (a : Nat) (v : α) (h : ∀ e ∈ m, e.1 ≠ a) :
    smGet d (smInsert m a v) a = v := by
  induction m with
  | nil => simp [smInsert, smGet]
  | cons e t ih =>
    obtain ⟨k, w⟩ := e
    have hk : a ≠ k := (h (k, w) (List.mem_cons_self ..)).symm
    unfold smInsert
    split
    · simp [smGet]
    · simp [smGet, hk, ih (fun e he => h e (List.mem_cons_of_mem _ he))]

theorem smGet_insert_other (d : α) (m : SMap α) {a b : Nat} (v : α) (h : b ≠ a) :
    smGet d (smInsert m a v) b = smGet d m b := by
  induction m with
  | nil => simp [smInsert, smGet, h]
  | cons e t ih =>
    obtain ⟨k, w⟩ := e
    unfold smInsert
    split
    · simp [smGet, h]
    · simp [smGet, ih]

variable [DecidableEq α]

theorem smGet_put_same (d : α) (m : SMap α) (a : Nat) (v : α) : smGet d (smPut d m a v) a = v := by
  unfold smPut
  split
  · rename_i h; rw [smGet_erase_same, h]
  · exact smGet_insert_same d _ a v (smErase_keys m a)

theorem smGet_put_other (d : α) (m : SMap α) {a b : Nat} (v : α) (h : b ≠ a) :
    smGet d (smPut d m a v) b = smGet d m b := by
  unfold smPut
  split
  · exact smGet_erase_other d m h
  · rw [smGet_insert_other d _ v h, smGet_erase_other d m h]

/-- What a sparse map reads after one value is put. -/
theorem smGet_put (d : α) (m : SMap α) (a b : Nat) (v : α) :
    smGet d (smPut d m a v) b = if b = a then v else smGet d m b := by
  split
  · rename_i h; subst h; exact smGet_put_same d m b v
  · rename_i h; exact smGet_put_other d m v h

/-! ## The canonical form -/

theorem smAbove_iff {β : Type} (b : Nat) (m : SMap β) : smAbove b m = true ↔ ∀ e ∈ m, b < e.1 := by
  induction m with
  | nil => simp [smAbove]
  | cons e t ih => obtain ⟨k, v⟩ := e; simp [smAbove, ih]

theorem smErase_subset {β : Type} (m : SMap β) (a : Nat) : ∀ e ∈ smErase m a, e ∈ m := by
  induction m with
  | nil => simp [smErase]
  | cons e t ih =>
    obtain ⟨k, v⟩ := e; unfold smErase
    split
    · exact fun e he => List.mem_cons_of_mem _ (ih e he)
    · intro e he
      rcases List.mem_cons.mp he with rfl | he
      · exact List.mem_cons_self ..
      · exact List.mem_cons_of_mem _ (ih e he)

theorem smInsert_mem {β : Type} (m : SMap β) (a : Nat) (v : β) : ∀ e ∈ smInsert m a v, e = (a, v) ∨ e ∈ m := by
  induction m with
  | nil => simp [smInsert]
  | cons e t ih =>
    obtain ⟨k, w⟩ := e; unfold smInsert
    split
    · intro e he; simpa using he
    · intro e he
      rcases List.mem_cons.mp he with rfl | he
      · exact Or.inr (List.mem_cons_self ..)
      · exact (ih e he).imp id (List.mem_cons_of_mem _)

theorem smWf_cons (d : α) (k : Nat) (v : α) (t : SMap α) :
    smWf d ((k, v) :: t) = true ↔ v ≠ d ∧ (∀ e ∈ t, k < e.1) ∧ smWf d t = true := by
  simp [smWf, smAbove_iff, and_assoc]

theorem smWf_erase (d : α) (m : SMap α) (a : Nat) (h : smWf d m = true) : smWf d (smErase m a) = true := by
  induction m with
  | nil => rfl
  | cons e t ih =>
    obtain ⟨k, v⟩ := e
    obtain ⟨hv, hk, ht⟩ := (smWf_cons d k v t).mp h
    unfold smErase
    split
    · exact ih ht
    · exact (smWf_cons d k v _).mpr ⟨hv, fun e he => hk e (smErase_subset t a e he), ih ht⟩

theorem smWf_insert (d : α) (m : SMap α) (a : Nat) (v : α) (hv : v ≠ d) (ha : ∀ e ∈ m, e.1 ≠ a)
    (h : smWf d m = true) : smWf d (smInsert m a v) = true := by
  induction m with
  | nil => simp [smInsert, smWf, smAbove, hv]
  | cons e t ih =>
    obtain ⟨k, w⟩ := e
    obtain ⟨hw, hk, ht⟩ := (smWf_cons d k w t).mp h
    have hne : k ≠ a := ha (k, w) (List.mem_cons_self ..)
    unfold smInsert
    split
    · rename_i hlt
      refine (smWf_cons d a v _).mpr ⟨hv, fun e he => ?_, h⟩
      rcases List.mem_cons.mp he with rfl | he
      · exact hlt
      · exact Nat.lt_trans hlt (hk e he)
    · rename_i hle
      refine (smWf_cons d k w _).mpr ⟨hw, fun e he => ?_, ih (fun e he => ha e (List.mem_cons_of_mem _ he)) ht⟩
      rcases smInsert_mem t a v e he with rfl | he
      · exact Nat.lt_of_le_of_ne (Nat.le_of_not_lt hle) hne
      · exact hk e he

/-- Putting a value keeps the canonical form. -/
theorem smWf_put (d : α) (m : SMap α) (a : Nat) (v : α) (h : smWf d m = true) : smWf d (smPut d m a v) = true := by
  unfold smPut
  split
  · exact smWf_erase d m a h
  · rename_i hv; exact smWf_insert d _ a v hv (smErase_keys m a) (smWf_erase d m a h)

/-- Dropping entries keeps the canonical form. -/
theorem smWf_filter (d : α) (f : Nat × α → Bool) (m : SMap α) (h : smWf d m = true) : smWf d (m.filter f) = true := by
  induction m with
  | nil => rfl
  | cons e t ih =>
    obtain ⟨k, v⟩ := e
    obtain ⟨hv, hk, ht⟩ := (smWf_cons d k v t).mp h
    rw [List.filter_cons]
    split
    · exact (smWf_cons d k v _).mpr ⟨hv, fun e he => hk e (List.mem_filter.mp he).1, ih ht⟩
    · exact ih ht

/-- Clearing a range keeps the canonical form. -/
theorem smWf_clear (d : α) (lo hi : Nat) (m : SMap α) (h : smWf d m = true) : smWf d (smClear lo hi m) = true :=
  smWf_filter d _ m h

theorem smWf_putRun (d : α) (l : List α) : ∀ (m : SMap α) (a : Nat), smWf d m = true → smWf d (smPutRun d m a l) = true := by
  induction l with
  | nil => exact fun _ _ h => h
  | cons v t ih => exact fun m a h => ih _ _ (smWf_put d m a v h)

/-! ## Memory -/

/-- Where an address is not that of the byte stored, the byte is as before; where it is, it is the byte stored. -/
theorem byte_putByte (s : State) (p q : Nat) (b : Byte) : (s.putByte p b).byte q = if q = p then b else s.byte q := by
  have hid : (s.putByte p b).hidden q = s.hidden q := by unfold State.putByte; split <;> rfl
  have hm : (s.putByte p b).mem = smPut 0 s.mem p (b ^^^ s.hidden p) := by unfold State.putByte; split <;> rfl
  unfold State.byte
  rw [hid, hm, smGet_put]
  split
  · rename_i h; subst h; rw [BitVec.xor_assoc, BitVec.xor_self, BitVec.xor_zero]
  · rfl

/-- Storing a byte keeps memory canonical. -/
theorem wf_putByte (s : State) (p : Nat) (b : Byte) (h : Memory.wf s.mem = true) :
    Memory.wf (s.putByte p b).mem = true := by
  have hm : (s.putByte p b).mem = smPut 0 s.mem p (b ^^^ s.hidden p) := by unfold State.putByte; split <;> rfl
  rw [hm]; exact smWf_put 0 _ _ _ h

/-- Memory at reset is canonical. -/
theorem wf_reset : Memory.wf State.reset.mem = true := rfl

end Sys2Proof.Machine
end

