-- ==== Sys2Proof/Laws/Kept.lean ====
section
/-! SUPPORT. The relation that every effect of a command bears: the queue of waiting commands stands, and the invariant
`State.Inv` is kept; and how it passes through updates, conditions, loops and the steps of a word. -/

-- One proof after the other: side by side they want more threads than the memory of a check holds.
set_option Elab.async false

namespace Sys2Proof.Machine

/-- From `s` to `t` the queue of waiting commands stands and the invariant is kept. -/
def Kept (s t : State) : Prop := t.pending = s.pending ∧ (s.Inv → t.Inv)

theorem Kept.refl (s : State) : Kept s s := ⟨rfl, id⟩

theorem Kept.trans {s t u : State} (h : Kept s t) (k : Kept t u) : Kept s u :=
  ⟨k.1.trans h.1, fun i => k.2 (h.2 i)⟩

/-- An update that leaves memory, the headers, the loops, the queues, the answers and the fence changes nothing here. -/
theorem kept_same {z s : State} {held fresh sent cause mask cleared fn sys flash bea cnd staged cast sheet crw fmt vec tmv tir mdv
    bnk upd lnk fol twn tim pwr sec atn rst bst mgt} (hl : cnd.loops = s.cnd.loops) (hF : sheet.qF = s.sheet.qF)
    (hB : sheet.qB = s.sheet.qB) (hH : sheet.qH = s.sheet.qH) (hw : sec.answers = s.sec.answers)
    (ha : rst.active = s.rst.active) (hf : flash.fence = s.flash.fence) :
    Kept z (State.mk s.pending held fresh sent cause mask cleared fn sys flash bea cnd staged cast sheet crw fmt vec s.mem
      s.headers tmv tir mdv bnk upd lnk fol twn tim pwr sec atn rst bst mgt) ↔ Kept z s := by
  constructor <;> rintro ⟨h1, h2⟩ <;> refine ⟨h1, fun i => ?_⟩ <;> obtain ⟨m, hd, l, qf, qb, qh, an, fe⟩ := h2 i
  · refine ⟨m, hd, ?_, ?_, ?_, ?_, ?_, ?_⟩
    · exact hl ▸ l
    · exact hF ▸ qf
    · exact hB ▸ qb
    · exact hH ▸ qh
    · unfold State.answersWait at an ⊢; rw [← hw]; exact an
    · rw [← ha, ← hf]; exact fe
  · refine ⟨m, hd, ?_, ?_, ?_, ?_, ?_, ?_⟩
    · exact hl.symm ▸ l
    · exact hF.symm ▸ qf
    · exact hB.symm ▸ qb
    · exact hH.symm ▸ qh
    · show ∀ a, sec.answers.head? = some a → a.awaits.isSome = true
      rw [hw]; exact an
    · show ∀ i j, i < 4 → j < 4 → bitAt (rst.active ||| flash.fence) i = true → bitAt (rst.active ||| flash.fence) j = true → i = j
      rw [ha, hf]; exact fe

/-- A change of a state, field by field of the invariant; a field not named is as before. -/
theorem kept_of {z s t : State} (h : Kept z s) (hp : t.pending = s.pending := by rfl)
    (hm : Memory.wf s.mem = true → Memory.wf t.mem = true := by exact id)
    (hh : smWf 0 s.headers = true → smWf 0 t.headers = true := by exact id)
    (hl : s.cnd.loops.length ≤ 4 → t.cnd.loops.length ≤ 4 := by exact id)
    (hF : s.sheet.qF.length ≤ 128 → t.sheet.qF.length ≤ 128 := by exact id)
    (hB : s.sheet.qB.length ≤ 128 → t.sheet.qB.length ≤ 128 := by exact id)
    (hH : s.sheet.qH.length ≤ 64 → t.sheet.qH.length ≤ 64 := by exact id)
    (hw : s.answersWait → t.answersWait := by exact id)
    (hf : (∀ i j, i < 4 → j < 4 → bitAt (s.rst.active ||| s.flash.fence) i = true →
        bitAt (s.rst.active ||| s.flash.fence) j = true → i = j) →
      ∀ i j, i < 4 → j < 4 → bitAt (t.rst.active ||| t.flash.fence) i = true →
        bitAt (t.rst.active ||| t.flash.fence) j = true → i = j := by exact id) : Kept z t :=
  ⟨hp.trans h.1, fun k => ⟨hm (h.2 k).mem, hh (h.2 k).headers, hl (h.2 k).loops, hF (h.2 k).queueF, hB (h.2 k).queueB,
    hH (h.2 k).queueH, hw (h.2 k).answers, hf (h.2 k).fence⟩⟩

/-- Fewer bits held are still at most one. -/
theorem fence_fewer {a b c d : BitVec 4} (sub : ∀ i, i < 4 → bitAt (c ||| d) i = true → bitAt (a ||| b) i = true)
    (h : ∀ i j, i < 4 → j < 4 → bitAt (a ||| b) i = true → bitAt (a ||| b) j = true → i = j) :
    ∀ i j, i < 4 → j < 4 → bitAt (c ||| d) i = true → bitAt (c ||| d) j = true → i = j :=
  fun i j hi hj x y => h i j hi hj (sub i hi x) (sub j hj y)

theorem bitAt_or {n : Nat} (a b : BitVec n) (i : Nat) : bitAt (a ||| b) i = (bitAt a i || bitAt b i) := by
  unfold bitAt; exact BitVec.getLsbD_or ..

/-- A change of the Sheet that leaves the queues. -/
theorem kept_sheet {z s : State} (h : Kept z s) (q : Sheet) (hF : q.qF = s.sheet.qF) (hB : q.qB = s.sheet.qB)
    (hH : q.qH = s.sheet.qH) : Kept z { s with sheet := q } :=
  kept_of h (hF := fun x => hF.symm ▸ x) (hB := fun x => hB.symm ▸ x) (hH := fun x => hH.symm ▸ x)

theorem kept_ite {z a b : State} {c : Prop} [Decidable c] (ha : Kept z a) (hb : Kept z b) :
    Kept z (if c then a else b) := by split <;> assumption

theorem kept_ite_fst {α : Type} {z : State} {a b : State × α} {c : Prop} [Decidable c] (ha : Kept z a.1) (hb : Kept z b.1) :
    Kept z (if c then a else b).1 := by split <;> assumption

theorem kept_foldl {α : Type} {z : State} (f : State → α → State) (hf : ∀ s x, Kept z s → Kept z (f s x)) (l : List α) :
    ∀ {s}, Kept z s → Kept z (l.foldl f s) := by
  induction l with
  | nil => exact fun h => h
  | cons x t ih => exact fun h => ih (hf _ x h)

/-- A fold over something that carries a state. -/
theorem kept_foldl_by {α σ : Type} {z : State} (v : σ → State) (f : σ → α → σ)
    (hf : ∀ s x, Kept z (v s) → Kept z (v (f s x))) (l : List α) : ∀ {s}, Kept z (v s) → Kept z (v (l.foldl f s)) := by
  induction l with
  | nil => exact fun h => h
  | cons x t ih => exact fun h => ih (hf _ x h)

/-- What a function keeps, a fold of it keeps. -/
theorem foldl_keeps {α σ : Type} {P : σ → Prop} (f : σ → α → σ) (hf : ∀ s x, P s → P (f s x)) (l : List α) :
    ∀ {s}, P s → P (l.foldl f s) := by
  induction l with
  | nil => exact fun h => h
  | cons x t ih => exact fun h => ih (hf _ x h)

/-- The steps of a word keep what each of them keeps. -/
theorem runSteps_keeps {σ : Type} {view : σ → State} {P : σ → Prop} (cores : List CoreAt) (l : List (WStep σ)) :
    ∀ {s}, (∀ w ∈ l, ∀ c s, P s → P (w.act c s)) → P s → P (runSteps view cores l s).st := by
  induction l with
  | nil => exact fun _ h => h
  | cons w t ih =>
    intro s hw h
    unfold runSteps
    split
    · exact h
    · refine ih (fun v hv => hw v (List.mem_cons_of_mem _ hv)) ?_
      exact foldl_keeps _ (fun s c => hw w (List.mem_cons_self ..) c s) cores h

theorem each_map {α β : Type} {P : β → Prop} {f : α → β} (l : List α) (h : ∀ t, P (f t)) : ∀ w ∈ l.map f, P w := by
  intro w hw
  obtain ⟨t, _, rfl⟩ := List.mem_map.mp hw
  exact h t

theorem each_flatMap {α β : Type} {P : β → Prop} {f : α → List β} (l : List α) (h : ∀ t, ∀ w ∈ f t, P w) :
    ∀ w ∈ l.flatMap f, P w := by
  intro w hw
  obtain ⟨t, _, hw⟩ := List.mem_flatMap.mp hw
  exact h t w hw

theorem each_append {β : Type} {P : β → Prop} {a b : List β} (ha : ∀ w ∈ a, P w) (hb : ∀ w ∈ b, P w) :
    ∀ w ∈ a ++ b, P w := fun w hw => (List.mem_append.mp hw).elim (ha w) (hb w)

theorem each_one {β : Type} {P : β → Prop} {a : β} (h : P a) : ∀ w ∈ [a], P w := by
  intro w hw
  rw [List.mem_singleton.mp hw]
  exact h

theorem each_nil {β : Type} {P : β → Prop} : ∀ w ∈ ([] : List β), P w := fun _ hw => nomatch hw

/-- A command under a condition. -/
theorem kept_whenB {b : Bool} {s a : State} (h : Kept s a) : ∃ t, whenB b s a = .next t ∧ Kept s t := by
  unfold whenB
  refine ⟨_, rfl, ?_⟩
  split
  · exact h
  · exact Kept.refl s

theorem kept_next {s a : State} (h : Kept s a) : ∃ t, (Host.Outcome.next a : Out) = .next t ∧ Kept s t := ⟨a, rfl, h⟩

end Sys2Proof.Machine
end

