-- ==== Sys2Proof/Laws/KeptOps.lean ====
section
/-! SUPPORT. What `Kept` says of the operations, stopping, power, beats, issue, faults and memory:
one lemma per function of the model that answers a state, named after it. A lemma whose conclusion is `∃ t, ... = .next t` is about
the meaning of a command. -/

-- One proof after the other: side by side they want more threads than the memory of a check holds.
set_option Elab.async false

namespace Sys2Proof.Machine

/-! ## Machine/Ops.lean -/

theorem State.putPort_kept {z : State} {a0 a1 a2} (h : Kept z a0) : Kept z (State.putPort a0 a1 a2) := by
  unfold State.putPort
  repeat' first
    | with_reducible assumption
    | simp only [kept_same]

theorem State.settleAttn_kept {z : State} {a0} (h : Kept z a0) : Kept z (State.settleAttn a0) := by
  unfold State.settleAttn
  repeat' first
    | with_reducible assumption
    | simp only [kept_same]

theorem State.putCause_kept {z : State} {a0 a1 a2} (h : Kept z a0) : Kept z (State.putCause a0 a1 a2) := by
  unfold State.putCause
  repeat' first
    | with_reducible assumption
    | with_reducible refine State.settleAttn_kept ?_
    | simp only [kept_same]

theorem State.raise_kept {z : State} {a0 a1 a2} (h : Kept z a0) : Kept z (State.raise a0 a1 a2) := by
  unfold State.raise
  repeat' first
    | with_reducible assumption
    | with_reducible refine State.putCause_kept ?_

theorem State.raiseIf_kept {z : State} {a0 a1 a2 a3} (h : Kept z a0) : Kept z (State.raiseIf a0 a1 a2 a3) := by
  unfold State.raiseIf
  repeat' first
    | with_reducible assumption
    | with_reducible refine State.raise_kept ?_
    | split

theorem State.emit_kept {z : State} {a0 a1} (h : Kept z a0) : Kept z (State.emit a0 a1) := by
  unfold State.emit
  repeat' first
    | with_reducible assumption
    | simp only [kept_same]

theorem State.sendCtrl_kept {z : State} {a0 a1 a2} (h : Kept z a0) : Kept z (State.sendCtrl a0 a1 a2) := by
  unfold State.sendCtrl
  repeat' first
    | with_reducible assumption
    | with_reducible refine State.emit_kept ?_
    | with_reducible refine State.putPort_kept ?_
    | simp only [kept_same]

theorem State.transmit_kept {z : State} {a0 a1 a2} (h : Kept z a0) : Kept z (State.transmit a0 a1 a2) := by
  unfold State.transmit
  repeat' first
    | with_reducible assumption
    | with_reducible refine State.emit_kept ?_
    | with_reducible refine State.putPort_kept ?_
    | with_reducible refine State.sendCtrl_kept ?_
    | simp only [kept_same]
    | split

theorem State.drainN_kept {z : State} {a0 a1 a2} (h : Kept z a0) : Kept z (State.drainN a0 a1 a2) := by
  induction a2 generalizing a0 with
  | zero => exact h
  | succ n ih =>
    unfold State.drainN
    split
    · exact ih (State.transmit_kept (State.putPort_kept h))
    · exact h

theorem State.drain_kept {z : State} {a0 a1} (h : Kept z a0) : Kept z (State.drain a0 a1) := by
  unfold State.drain
  repeat' first
    | with_reducible assumption
    | with_reducible refine State.drainN_kept ?_

theorem State.sendOn_kept {z : State} {a0 a1 a2 a3 a4} (h : Kept z a0) : Kept z (State.sendOn a0 a1 a2 a3 a4) := by
  unfold State.sendOn
  repeat' first
    | with_reducible assumption
    | with_reducible refine State.drain_kept ?_
    | with_reducible refine State.putPort_kept ?_

theorem State.putByte_kept {z : State} {a0 a1 a2} (h : Kept z a0) : Kept z (State.putByte a0 a1 a2) := by
  have hm := wf_putByte a0 a1 a2
  unfold State.putByte at hm ⊢
  split at hm <;> rename_i c <;> simp only [c, if_true, if_false, Bool.false_eq_true]
  · exact kept_of h (hm := hm)
  · exact kept_of h (hm := hm)

theorem State.putBytes_kept {z : State} {a0 a1} (h : Kept z a0) : Kept z (State.putBytes a0 a1) := by
  induction a1 generalizing a0 with
  | nil => exact h
  | cons e t ih => exact ih (State.putByte_kept h)

theorem State.countCe_kept {z : State} {a0 a1} (h : Kept z a0) : Kept z (State.countCe a0 a1) := by
  unfold State.countCe
  repeat' first
    | with_reducible assumption
    | simp only [kept_same]

theorem State.putRun_kept {z : State} {a0 a1 a2} (h : Kept z a0) : Kept z (State.putRun a0 a1 a2) := by
  induction a2 generalizing a0 a1 with
  | nil => exact h
  | cons b t ih => exact ih (State.putByte_kept h)

theorem State.correctColumn_kept {z : State} {a0 a1 a2} (h : Kept z a0) : Kept z (State.correctColumn a0 a1 a2) := by
  unfold State.correctColumn
  repeat' first
    | with_reducible assumption
    | with_reducible refine State.putRun_kept ?_

theorem State.errRecord_kept {z : State} {a0 a1} (h : Kept z a0) : Kept z (State.errRecord a0 a1) := by
  unfold State.errRecord
  repeat' first
    | with_reducible assumption
    | simp only [kept_same]
    | split

theorem State.recordUncorr_kept {z : State} {a0 a1} (h : Kept z a0) : Kept z (State.recordUncorr a0 a1) := by
  unfold State.recordUncorr
  repeat' first
    | with_reducible assumption
    | with_reducible refine State.errRecord_kept ?_
    | with_reducible refine State.raise_kept ?_
    | simp only [kept_same]

theorem State.phaseStop_kept {z : State} {a0} (h : Kept z a0) : Kept z (State.phaseStop a0) := by
  unfold State.phaseStop
  repeat' first
    | with_reducible assumption
    | simp only [kept_same]
    | split

theorem State.meetUncorr_kept {z : State} {a0 a1} (h : Kept z a0) : Kept z (State.meetUncorr a0 a1) := by
  unfold State.meetUncorr
  repeat' first
    | with_reducible assumption
    | with_reducible refine State.phaseStop_kept ?_
    | with_reducible refine State.recordUncorr_kept ?_
    | simp only [kept_same]
    | split

theorem State.mergeCol_kept {z : State} {a0 a1 a2 a3} (h : Kept z a2) : Kept z (State.mergeCol a0 a1 a2 a3) := by
  unfold State.mergeCol
  repeat' first
    | with_reducible assumption
    | with_reducible refine State.correctColumn_kept ?_
    | with_reducible refine State.countCe_kept ?_
    | with_reducible refine State.meetUncorr_kept ?_
    | split

theorem State.storeBytes_kept {z : State} {a0 a1 a2 a3} (h : Kept z a0) : Kept z (State.storeBytes a0 a1 a2 a3) := by
  unfold State.storeBytes
  repeat' first
    | with_reducible assumption
    | with_reducible refine State.mergeCol_kept ?_
    | with_reducible refine State.putBytes_kept ?_
    | with_reducible refine kept_foldl _ (fun _ _ _ => ?_) _ ?_
    | split

theorem State.storeRun_kept {z : State} {a0 a1 a2 a3} (h : Kept z a0) : Kept z (State.storeRun a0 a1 a2 a3) := by
  unfold State.storeRun
  repeat' first
    | with_reducible assumption
    | with_reducible refine State.storeBytes_kept ?_

theorem State.hostFrame_kept {z : State} {a0 a1 a2} (h : Kept z a0) : Kept z (State.hostFrame a0 a1 a2) := by
  unfold State.hostFrame
  repeat' first
    | with_reducible assumption
    | with_reducible refine State.sendOn_kept ?_

theorem State.flushAnswers_kept {z : State} {a0 a1} (h : Kept z a0) : Kept z (State.flushAnswers a0 a1) := by
  induction a1 generalizing a0 with
  | nil => exact kept_of h (hw := fun _ _ e => nomatch e)
  | cons a t ih =>
    unfold State.flushAnswers
    split
    · rename_i w
      exact kept_of h (hw := fun _ _ e => Option.some.inj e ▸ w)
    · exact ih (kept_foldl _ (fun _ _ k => State.hostFrame_kept k) _ h)

theorem State.pushAnswer_kept {z : State} {a0 a1 a2} (h : Kept z a0) : Kept z (State.pushAnswer a0 a1 a2) := by
  unfold State.pushAnswer
  repeat' first
    | with_reducible assumption
    | with_reducible refine State.flushAnswers_kept ?_

theorem State.respond_kept {z : State} {a0 a1 a2 a3 a4 a5} (h : Kept z a0) :
    Kept z (State.respond a0 a1 a2 a3 a4 a5) := by
  unfold State.respond
  repeat' first
    | with_reducible assumption
    | with_reducible refine State.pushAnswer_kept ?_

theorem State.dropRoute_kept {z : State} {a0} (h : Kept z a0) : Kept z (State.dropRoute a0) := by
  unfold State.dropRoute
  repeat' first
    | with_reducible assumption
    | with_reducible refine State.raise_kept ?_
    | simp only [kept_same]

theorem State.sendPort_kept {z : State} {a0 a1 a2 a3 a4} (h : Kept z a0) : Kept z (State.sendPort a0 a1 a2 a3 a4) := by
  unfold State.sendPort
  repeat' first
    | with_reducible assumption
    | with_reducible refine State.dropRoute_kept ?_
    | with_reducible refine State.sendOn_kept ?_
    | split

theorem State.sendTo_kept {z : State} {a0 a1 a2 a3} (h : Kept z a0) : Kept z (State.sendTo a0 a1 a2 a3) := by
  unfold State.sendTo
  try dsimp only
  repeat' first
    | with_reducible assumption
    | with_reducible refine State.dropRoute_kept ?_
    | with_reducible refine State.emit_kept ?_
    | with_reducible refine State.sendPort_kept ?_
    | split

theorem State.sendAp_kept {z : State} {a0 a1 a2 a3 a4 a5 a6} (h : Kept z a0) :
    Kept z (State.sendAp a0 a1 a2 a3 a4 a5 a6) := by
  unfold State.sendAp
  try dsimp only
  repeat' first
    | with_reducible assumption
    | with_reducible refine State.sendPort_kept ?_
    | with_reducible refine State.sendTo_kept ?_
    | split

theorem State.sendData_kept {z : State} {a0 a1 a2 a3 a4 a5 a6} (h : Kept z a0) :
    Kept z (State.sendData a0 a1 a2 a3 a4 a5 a6) := by
  induction a5 generalizing a0 a4 a6 with
  | zero => exact h
  | succ n ih => exact ih (State.sendAp_kept h)

theorem State.sendTrans_kept {z : State} {a0 a1 a2} (h : Kept z a0) : Kept z (State.sendTrans a0 a1 a2) := by
  unfold State.sendTrans
  repeat' first
    | with_reducible assumption
    | with_reducible refine State.sendAp_kept ?_
    | with_reducible refine State.sendData_kept ?_
    | simp only [kept_same]
    | split

theorem State.pumpList_kept {z : State} {a0 a1} (h : Kept z a0) : Kept z (State.pumpList a0 a1) := by
  induction a1 generalizing a0 with
  | nil => exact kept_of h
  | cons t l ih =>
    unfold State.pumpList
    generalize State.freeTag _ = o
    cases o with
    | some n =>
      dsimp only
      split
      · exact kept_of h
      · exact ih (State.sendTrans_kept h)
    | none => exact kept_of h

theorem State.pump_kept {z : State} {a0} (h : Kept z a0) : Kept z (State.pump a0) := by
  unfold State.pump
  repeat' first
    | with_reducible assumption
    | with_reducible refine State.pumpList_kept ?_

theorem State.startTrans_kept {z : State} {a0 a1 a2 a3 a4} (h : Kept z a0) :
    Kept z (State.startTrans a0 a1 a2 a3 a4) := by
  unfold State.startTrans
  repeat' first
    | with_reducible assumption
    | with_reducible refine State.pump_kept ?_
    | simp only [kept_same]

theorem State.fetch_kept {z : State} {a0 a1 a2} (h : Kept z a0) : Kept z (State.fetch a0 a1 a2) := by
  unfold State.fetch
  repeat' first
    | with_reducible assumption
    | with_reducible refine State.startTrans_kept ?_
    | with_reducible refine kept_foldl _ (fun _ _ _ => ?_) _ ?_

theorem State.putFn_kept {z : State} {a0 a1 a2} (h : Kept z a0) : Kept z (State.putFn a0 a1 a2) := by
  unfold State.putFn
  repeat' first
    | with_reducible assumption
    | simp only [kept_same]

theorem State.setFnState_kept {z : State} {a0 a1 a2} (h : Kept z a0) : Kept z (State.setFnState a0 a1 a2) := by
  unfold State.setFnState
  repeat' first
    | with_reducible assumption
    | with_reducible refine State.putFn_kept ?_

theorem State.filled_kept {z : State} {a0 a1} (h : Kept z a0) : Kept z (State.filled a0 a1) := by
  unfold State.filled
  repeat' first
    | with_reducible assumption
    | simp only [kept_same]

theorem State.refuseImage_kept {z : State} {a0 a1 a2 a3 a4} (h : Kept z a0) :
    Kept z (State.refuseImage a0 a1 a2 a3 a4) := by
  unfold State.refuseImage
  repeat' first
    | with_reducible assumption
    | with_reducible refine State.filled_kept ?_
    | with_reducible refine State.raise_kept ?_
    | simp only [kept_same]
    | split

theorem State.drawn_kept {z : State} {a0} (h : Kept z a0) : Kept z (State.drawn a0) := by
  unfold State.drawn
  repeat' first
    | with_reducible assumption
    | simp only [kept_same]

theorem State.touch_kept {z : State} {a0 a1} (h : Kept z a0) : Kept z (State.touch a0 a1) := by
  unfold State.touch
  repeat' first
    | with_reducible assumption
    | with_reducible refine State.drawn_kept ?_
    | simp only [kept_same]
    | split

theorem State.touchRun_kept {z : State} {a0 a1 a2} (h : Kept z a0) : Kept z (State.touchRun a0 a1 a2) := by
  unfold State.touchRun
  repeat' first
    | with_reducible assumption
    | with_reducible refine State.touch_kept ?_
    | with_reducible refine kept_foldl _ (fun _ _ _ => ?_) _ ?_

theorem State.mdvFault_kept {z : State} {a0 a1 a2 a3 a4 a5} (h : Kept z a0) :
    Kept z (State.mdvFault a0 a1 a2 a3 a4 a5) := by
  unfold State.mdvFault
  repeat' first
    | with_reducible assumption
    | with_reducible refine State.raise_kept ?_
    | simp only [kept_same]
    | split

theorem State.refuseWindow_kept {z : State} {a0 a1 a2} (h : Kept z a0) : Kept z (State.refuseWindow a0 a1 a2) := by
  unfold State.refuseWindow
  repeat' first
    | with_reducible assumption
    | with_reducible refine State.mdvFault_kept ?_

theorem State.sendStore_kept {z : State} {a0 a1 a2} (h : Kept z a0) : Kept z (State.sendStore a0 a1 a2) := by
  unfold State.sendStore
  repeat' first
    | with_reducible assumption
    | with_reducible refine State.startTrans_kept ?_
    | with_reducible refine kept_foldl _ (fun _ _ _ => ?_) _ ?_

theorem State.noteTrial_kept {z : State} {a0 a1 a2 a3} (h : Kept z a0) : Kept z (State.noteTrial a0 a1 a2 a3) := by
  unfold State.noteTrial
  repeat' first
    | with_reducible assumption
    | simp only [kept_same]
    | split

theorem State.writeU_kept {z : State} {a0 a1 a2 a3 a4 a5} (h : Kept z a0) :
    ∀ t, State.writeU a0 a1 a2 a3 a4 a5 = .ok t → Kept z t := by
  unfold State.writeU
  repeat' first
    | with_reducible assumption
    | with_reducible refine State.noteTrial_kept ?_
    | with_reducible refine State.refuseImage_kept ?_
    | with_reducible refine State.refuseWindow_kept ?_
    | with_reducible refine State.sendStore_kept ?_
    | with_reducible refine State.storeBytes_kept ?_
    | with_reducible refine State.touchRun_kept ?_
    | simp only [kept_same]
    | split
    | intro _
    | contradiction
    | (rename_i e; injection e with e; subst e)

theorem State.noteCol_kept {z : State} {a0 a1 a2 a3} (h : Kept z a2) : Kept z (State.noteCol a0 a1 a2 a3) := by
  unfold State.noteCol
  repeat' first
    | with_reducible assumption
    | with_reducible refine State.countCe_kept ?_
    | with_reducible refine State.meetUncorr_kept ?_
    | split

theorem State.noteCode_kept {z : State} {a0 a1 a2 a3} (h : Kept z a0) : Kept z (State.noteCode a0 a1 a2 a3) := by
  unfold State.noteCode
  repeat' first
    | with_reducible assumption
    | with_reducible refine State.noteCol_kept ?_
    | with_reducible refine kept_foldl _ (fun _ _ _ => ?_) _ ?_

theorem State.noteUnsealed_kept {z : State} {a0 a1 a2} (h : Kept z a0) : Kept z (State.noteUnsealed a0 a1 a2) := by
  unfold State.noteUnsealed
  repeat' first
    | with_reducible assumption
    | with_reducible refine State.mdvFault_kept ?_
    | simp only [kept_same]
    | split

theorem State.noteMem_kept {z : State} {a0 a1 a2 a3} (h : Kept z a0) : Kept z (State.noteMem a0 a1 a2 a3) := by
  unfold State.noteMem
  repeat' first
    | with_reducible assumption
    | with_reducible refine State.noteCode_kept ?_
    | with_reducible refine State.noteUnsealed_kept ?_

theorem State.noteRead_kept {z : State} {a0 a1 a2 a3} (h : Kept z a0) : Kept z (State.noteRead a0 a1 a2 a3) := by
  unfold State.noteRead
  repeat' first
    | with_reducible assumption
    | with_reducible refine State.noteMem_kept ?_
    | with_reducible refine State.noteTrial_kept ?_
    | with_reducible refine State.touchRun_kept ?_
    | split

theorem State.putMask_kept {z : State} {a0 a1 a2} (h : Kept z a0) : Kept z (State.putMask a0 a1 a2) := by
  unfold State.putMask
  repeat' first
    | with_reducible assumption
    | with_reducible refine State.settleAttn_kept ?_
    | simp only [kept_same]

theorem State.autoGo_kept {z : State} {a0 a1} (h : Kept z a0) : Kept z (State.autoGo a0 a1) := by
  unfold State.autoGo
  repeat' first
    | with_reducible assumption
    | with_reducible refine State.raise_kept ?_
    | with_reducible refine State.setFnState_kept ?_
    | split

theorem State.drainAll_kept {z : State} {a0} (h : Kept z a0) : Kept z (State.drainAll a0) := by
  unfold State.drainAll
  repeat' first
    | with_reducible assumption
    | with_reducible refine State.drain_kept ?_
    | with_reducible refine kept_foldl _ (fun _ _ _ => ?_) _ ?_

theorem State.lateAnswer_kept {z : State} {a0 a1 a2} (h : Kept z a0) : Kept z (State.lateAnswer a0 a1 a2) := by
  unfold State.lateAnswer
  repeat' first
    | with_reducible assumption
    | with_reducible refine State.flushAnswers_kept ?_

theorem State.trialRead_kept {z : State} {a0 a1 a2} (h : Kept z a0) : Kept z (State.trialRead a0 a1 a2) := by
  unfold State.trialRead
  repeat' first
    | with_reducible assumption
    | with_reducible refine State.noteTrial_kept ?_
    | split

theorem State.putUnsealed_kept {z : State} {a0 a1 a2} (h : Kept z a0) : Kept z (State.putUnsealed a0 a1 a2) := by
  unfold State.putUnsealed
  repeat' first
    | with_reducible assumption
    | simp only [kept_same]

theorem State.forget_kept {z : State} {a0 a1} (h : Kept z a0) : Kept z (State.forget a0 a1) := by
  unfold State.forget
  repeat' first
    | with_reducible assumption
    | simp only [kept_same]

/-! ## Machine/Load.lean -/

theorem State.loadCast_kept {z : State} {a0 a1} (h : Kept z a0) : Kept z (State.loadCast a0 a1) := by
  unfold State.loadCast
  exact State.putRun_kept (kept_of h (hl := fun _ => Nat.zero_le _) (hF := fun _ => Nat.zero_le _)
    (hB := fun _ => Nat.zero_le _) (hH := fun _ => Nat.zero_le _))

/-! ## Machine/Stop.lean -/

theorem State.folRest_kept {z : State} {a0} (h : Kept z a0) : Kept z (State.folRest a0) := by
  unfold State.folRest
  repeat' first
    | with_reducible assumption
    | with_reducible refine State.setFnState_kept ?_
    | split

theorem State.spoilAt_kept {z : State} {a0 a1} (h : Kept z a0) : Kept z (State.spoilAt a0 a1) := by
  unfold State.spoilAt
  split
  · exact State.putByte_kept h
  · exact kept_of h (hh := smWf_put 0 _ _ _)

theorem State.spoilRun_kept {z : State} {a0 a1 a2} (h : Kept z a0) : Kept z (State.spoilRun a0 a1 a2) := by
  induction a2 generalizing a0 a1 with
  | zero => exact h
  | succ n ih => exact ih (State.spoilAt_kept h)

theorem State.spoil_kept {z : State} {a0 a1} (h : Kept z a0) : Kept z (State.spoil a0 a1) := by
  induction a1 generalizing a0 with
  | nil => exact h
  | cons r t ih => exact ih (State.spoilRun_kept h)

theorem State.openRecord_kept {z : State} {a0} (h : Kept z a0) : Kept z (State.openRecord a0) := by
  unfold State.openRecord
  repeat' first
    | with_reducible assumption
    | simp only [kept_same]

theorem State.closeRecord_kept {z : State} {a0 a1} (h : Kept z a0) : Kept z (State.closeRecord a0 a1) := by
  unfold State.closeRecord
  repeat' first
    | with_reducible assumption
    | with_reducible refine State.openRecord_kept ?_
    | simp only [kept_same]
    | split

theorem State.endCast_kept {z : State} {a0 a1} (h : Kept z a0) : Kept z (State.endCast a0 a1) := by
  unfold State.endCast
  refine State.closeRecord_kept (kept_of (s := (a0.setFnState .cnd .stopped).setFnState .ary .stopped)
    (State.setFnState_kept (State.setFnState_kept h)) (hl := fun _ => Nat.zero_le _))

theorem State.cancelAdmission_kept {z : State} {a0} (h : Kept z a0) : Kept z (State.cancelAdmission a0) := by
  unfold State.cancelAdmission
  repeat' first
    | with_reducible assumption
    | simp only [kept_same]

theorem State.countSwarf_kept {z : State} {a0} (h : Kept z a0) : Kept z (State.countSwarf a0) := by
  unfold State.countSwarf
  repeat' first
    | with_reducible assumption
    | with_reducible refine State.drawn_kept ?_
    | simp only [kept_same]

theorem State.endSwarf_kept {z : State} {a0} (h : Kept z a0) : Kept z (State.endSwarf a0) := by
  unfold State.endSwarf
  repeat' first
    | with_reducible assumption
    | with_reducible refine State.countSwarf_kept ?_
    | simp only [kept_same]
    | split

theorem State.aryRest_kept {z : State} {a0} (h : Kept z a0) : Kept z (State.aryRest a0) := by
  unfold State.aryRest
  repeat' first
    | with_reducible assumption
    | with_reducible refine State.setFnState_kept ?_
    | split

theorem State.tmvRest_kept {z : State} {a0} (h : Kept z a0) : Kept z (State.tmvRest a0) := by
  unfold State.tmvRest
  repeat' first
    | with_reducible assumption
    | with_reducible refine State.setFnState_kept ?_
    | split

theorem State.unsettled_kept {z : State} {a0 a1} (h : Kept z a0) : Kept z (State.unsettled a0 a1) := by
  unfold State.unsettled
  repeat' first
    | with_reducible assumption
    | with_reducible refine State.drawn_kept ?_
    | with_reducible refine State.spoil_kept ?_
    | split

theorem State.countRecord_kept {z : State} {a0 a1 a2} (h : Kept z a0) : Kept z (State.countRecord a0 a1 a2) := by
  unfold State.countRecord
  repeat' first
    | with_reducible assumption
    | simp only [kept_same]
    | split

theorem State.cutPass_kept {z : State} {a0} (h : Kept z a0) : Kept z (State.cutPass a0) := by
  unfold State.cutPass
  repeat' first
    | with_reducible assumption
    | with_reducible refine State.drawn_kept ?_
    | with_reducible refine State.spoil_kept ?_
    | split

theorem State.dropHost_kept {z : State} {a0 a1} (h : Kept z a0) : Kept z (State.dropHost a0 a1) := by
  unfold State.dropHost
  repeat' first
    | with_reducible assumption
    | with_reducible refine State.lateAnswer_kept ?_
    | split

theorem State.cutTrans_kept {z : State} {a0} (h : Kept z a0) : Kept z (State.cutTrans a0) := by
  unfold State.cutTrans
  repeat' first
    | with_reducible assumption
    | with_reducible refine State.dropHost_kept ?_
    | simp only [kept_same]
    | with_reducible refine kept_foldl _ (fun _ _ _ => ?_) _ ?_

theorem State.cutWords_kept {z : State} {a0} (h : Kept z a0) : Kept z (State.cutWords a0) := by
  unfold State.cutWords
  refine State.folRest_kept (State.cutTrans_kept (State.endSwarf_kept ?_))
  generalize hs : State.cutPass _ = s
  have hk : Kept z s := hs ▸ State.cutPass_kept (State.drawn_kept (State.spoil_kept h))
  exact kept_of hk (hF := fun _ => Nat.zero_le _) (hB := fun _ => Nat.zero_le _) (hH := fun _ => Nat.zero_le _)

theorem State.uncorrNow_kept {z : State} {a0} (h : Kept z a0) : Kept z (State.uncorrNow a0) := by
  unfold State.uncorrNow
  repeat' first
    | with_reducible assumption
    | with_reducible refine State.cutWords_kept ?_
    | with_reducible refine State.endCast_kept ?_
    | with_reducible refine State.raise_kept ?_
    | split

theorem State.quenchNow_kept {z : State} {a0} (h : Kept z a0) : Kept z (State.quenchNow a0) := by
  unfold State.quenchNow
  repeat' first
    | with_reducible assumption
    | with_reducible refine State.cutWords_kept ?_
    | with_reducible refine State.endCast_kept ?_
    | with_reducible refine State.raise_kept ?_
    | simp only [kept_same]
    | split

/-! ## Machine/Power.lean -/

theorem State.capEdge_kept {z : State} {a0} (h : Kept z a0) : Kept z (State.capEdge a0) := by
  unfold State.capEdge
  repeat' first
    | with_reducible assumption
    | simp only [kept_same]
    | split

theorem State.swarfStart_kept {z : State} {a0 a1} (h : Kept z a0) : Kept z (State.swarfStart a0 a1) := by
  unfold State.swarfStart
  repeat' first
    | with_reducible assumption
    | simp only [kept_same]
    | split

theorem State.annealCore_kept {z : State} {a0 a1} (h : Kept z a0) : Kept z (State.annealCore a0 a1) := by
  unfold State.annealCore
  repeat' first
    | with_reducible assumption
    | with_reducible refine State.raiseIf_kept ?_
    | simp only [kept_same]
    | split

theorem execClockAnnealComplete_kept {a0 a1} : ∃ t, execClockAnnealComplete a0 a1 = .next t ∧ Kept a1 t := by
  unfold execClockAnnealComplete
  repeat' first
    | with_reducible exact Kept.refl _
    | with_reducible assumption
    | with_reducible refine State.annealCore_kept ?_
    | with_reducible refine kept_whenB ?_
    | simp only [kept_same]
    | with_reducible refine kept_foldl _ (fun _ _ _ => ?_) _ ?_

theorem State.putFreq_kept {z : State} {a0 a1} (h : Kept z a0) : Kept z (State.putFreq a0 a1) := by
  unfold State.putFreq
  repeat' first
    | with_reducible assumption
    | simp only [kept_same]
    | split

theorem State.clearAcc_kept {z : State} {a0} (h : Kept z a0) : Kept z (State.clearAcc a0) := by
  unfold State.clearAcc
  repeat' first
    | with_reducible assumption
    | simp only [kept_same]

theorem State.startAnneal_kept {z : State} {a0} (h : Kept z a0) : Kept z (State.startAnneal a0) := by
  unfold State.startAnneal
  repeat' first
    | with_reducible assumption
    | with_reducible refine State.raise_kept ?_
    | simp only [kept_same]
    | split

theorem State.noteReasons_kept {z : State} {a0} (h : Kept z a0) : Kept z (State.noteReasons a0) := by
  unfold State.noteReasons
  repeat' first
    | with_reducible assumption
    | simp only [kept_same]

theorem State.swarfRelease_kept {z : State} {a0 a1} (h : Kept z a0) : Kept z (State.swarfRelease a0 a1) := by
  unfold State.swarfRelease
  repeat' first
    | with_reducible assumption
    | with_reducible refine State.countSwarf_kept ?_
    | with_reducible refine State.noteReasons_kept ?_
    | simp only [kept_same]
    | split

theorem State.countReasons_kept {z : State} {a0} (h : Kept z a0) : Kept z (State.countReasons a0) := by
  unfold State.countReasons
  repeat' first
    | with_reducible assumption
    | simp only [kept_same]

theorem State.startReasons_kept {z : State} {a0} (h : Kept z a0) : Kept z (State.startReasons a0) := by
  unfold State.startReasons
  repeat' first
    | with_reducible assumption
    | simp only [kept_same]

theorem State.thermalEdge_kept {z : State} {a0} (h : Kept z a0) : Kept z (State.thermalEdge a0) := by
  unfold State.thermalEdge
  repeat' first
    | with_reducible assumption
    | with_reducible refine State.raiseIf_kept ?_
    | simp only [kept_same]
    | split

theorem State.sampled_kept {z : State} {a0 a1} (h : Kept z a0) : Kept z (State.sampled a0 a1) := by
  unfold State.sampled
  repeat' first
    | with_reducible assumption
    | simp only [kept_same]

theorem execTemperSample_kept {a0 a1} : ∃ t, execTemperSample a0 a1 = .next t ∧ Kept a1 t := by
  unfold execTemperSample
  repeat' first
    | with_reducible exact Kept.refl _
    | with_reducible refine State.raiseIf_kept ?_
    | with_reducible refine State.sampled_kept ?_
    | with_reducible refine kept_next ?_
    | simp only [kept_same]

theorem execDroopDetect_kept {a0 a1} : ∃ t, execDroopDetect a0 a1 = .next t ∧ Kept a1 t := by
  unfold execDroopDetect
  repeat' first
    | with_reducible exact Kept.refl _
    | with_reducible refine State.noteReasons_kept ?_
    | with_reducible refine State.raise_kept ?_
    | with_reducible refine kept_whenB ?_
    | simp only [kept_same]

theorem execDroopHoldExpire_kept {a0 a1} : ∃ t, execDroopHoldExpire a0 a1 = .next t ∧ Kept a1 t := by
  unfold execDroopHoldExpire
  repeat' first
    | with_reducible exact Kept.refl _
    | with_reducible refine kept_whenB ?_
    | simp only [kept_same]

theorem execDroopRateStep_kept {a0 a1} : ∃ t, execDroopRateStep a0 a1 = .next t ∧ Kept a1 t := by
  unfold execDroopRateStep
  repeat' first
    | with_reducible exact Kept.refl _
    | with_reducible refine kept_whenB ?_
    | simp only [kept_same]

theorem execSwarfHoldExpire_kept {a0 a1} : ∃ t, execSwarfHoldExpire a0 a1 = .next t ∧ Kept a1 t := by
  unfold execSwarfHoldExpire
  repeat' first
    | with_reducible exact Kept.refl _
    | with_reducible refine kept_whenB ?_
    | simp only [kept_same]

theorem execSwarfDecayStep_kept {a0 a1} : ∃ t, execSwarfDecayStep a0 a1 = .next t ∧ Kept a1 t := by
  unfold execSwarfDecayStep
  repeat' first
    | with_reducible exact Kept.refl _
    | with_reducible refine kept_whenB ?_
    | simp only [kept_same]

theorem execRampStep_kept {a0 a1} : ∃ t, execRampStep a0 a1 = .next t ∧ Kept a1 t := by
  unfold execRampStep
  repeat' first
    | with_reducible exact Kept.refl _
    | with_reducible refine kept_whenB ?_
    | simp only [kept_same]

theorem execFreqChange_kept {a0} : ∃ t, execFreqChange a0 = .next t ∧ Kept a0 t := by
  unfold execFreqChange
  repeat' first
    | with_reducible exact Kept.refl _
    | with_reducible refine State.raise_kept ?_
    | with_reducible refine kept_whenB ?_
    | simp only [kept_same]
    | split

/-! ## Machine/Beat.lean -/

theorem State.stopArray_kept {z : State} {a0} (h : Kept z a0) : Kept z (State.stopArray a0) := by
  unfold State.stopArray
  repeat' first
    | with_reducible assumption
    | with_reducible refine State.setFnState_kept ?_

theorem State.holdAdmitted_kept {z : State} {a0} (h : Kept z a0) : Kept z (State.holdAdmitted a0) := by
  unfold State.holdAdmitted
  repeat' first
    | with_reducible assumption
    | with_reducible refine State.cancelAdmission_kept ?_
    | with_reducible refine State.endCast_kept ?_
    | with_reducible refine State.loadCast_kept ?_
    | split

theorem State.countStall_kept {z : State} {a0 a1 a2} (h : Kept z a0) : Kept z (State.countStall a0 a1 a2) := by
  unfold State.countStall
  repeat' first
    | with_reducible assumption
    | simp only [kept_same]
    | split

theorem State.putBeaLoad_kept {z : State} {a0 a1} (h : Kept z a0) : Kept z (State.putBeaLoad a0 a1) := by
  unfold State.putBeaLoad
  repeat' first
    | with_reducible assumption
    | with_reducible refine State.raise_kept ?_
    | simp only [kept_same]
    | split

theorem State.putBeaAlarm_kept {z : State} {a0 a1} (h : Kept z a0) : Kept z (State.putBeaAlarm a0 a1) := by
  unfold State.putBeaAlarm
  repeat' first
    | with_reducible assumption
    | with_reducible refine State.raiseIf_kept ?_
    | simp only [kept_same]

theorem State.ctrlSlot_kept {z : State} {a0 a1} (h : Kept z a0) : Kept z (State.ctrlSlot a0 a1) := by
  unfold State.ctrlSlot
  try dsimp only
  repeat' first
    | with_reducible assumption
    | with_reducible refine State.putPort_kept ?_
    | with_reducible refine State.sendCtrl_kept ?_
    | split

theorem execBeatLoss_kept {a0} : ∃ t, execBeatLoss a0 = .next t ∧ Kept a0 t := by
  unfold execBeatLoss
  repeat' first
    | with_reducible exact Kept.refl _
    | with_reducible refine State.raise_kept ?_
    | with_reducible refine kept_whenB ?_
    | simp only [kept_same]

theorem State.ctrlSlots_kept {z : State} {a0} (h : Kept z a0) : Kept z (State.ctrlSlots a0) := by
  unfold State.ctrlSlots
  repeat' first
    | with_reducible assumption
    | with_reducible refine State.ctrlSlot_kept ?_
    | with_reducible refine State.drawn_kept ?_
    | with_reducible refine kept_foldl _ (fun _ _ _ => ?_) _ ?_

theorem State.countHour_kept {z : State} {a0} (h : Kept z a0) : Kept z (State.countHour a0) := by
  unfold State.countHour
  repeat' first
    | with_reducible assumption
    | simp only [kept_same]
    | split

theorem State.countPhases_kept {z : State} {a0} (h : Kept z a0) : Kept z (State.countPhases a0) := by
  unfold State.countPhases
  repeat' first
    | with_reducible assumption
    | with_reducible refine State.countRecord_kept ?_
    | with_reducible refine kept_foldl _ (fun _ _ _ => ?_) _ ?_
    | split

theorem State.endBeat_kept {z : State} {a0 a1 a2} (h : Kept z a0) : Kept z (State.endBeat a0 a1 a2) := by
  unfold State.endBeat
  repeat' first
    | with_reducible assumption
    | with_reducible refine State.countHour_kept ?_
    | with_reducible refine State.countPhases_kept ?_
    | with_reducible refine State.countReasons_kept ?_
    | with_reducible refine State.countStall_kept ?_
    | split

theorem State.receive_kept {z : State} {a0 a1} (h : Kept z a0) : Kept z (State.receive a0 a1) := by
  unfold State.receive
  repeat' first
    | with_reducible assumption
    | with_reducible refine State.raiseIf_kept ?_
    | simp only [kept_same]

theorem State.countCore_kept {z : State} {a0 a1 a2} (h : Kept z a0) : Kept z (State.countCore a0 a1 a2) := by
  unfold State.countCore
  repeat' first
    | with_reducible assumption
    | simp only [kept_same]
    | split

theorem State.correct_kept {z : State} {a0 a1} (h : Kept z a0) : Kept z (State.correct a0 a1) := by
  unfold State.correct
  repeat' first
    | with_reducible assumption
    | with_reducible refine State.countCore_kept ?_
    | simp only [kept_same]
    | split

theorem State.correctAll_kept {z : State} {a0 a1} (h : Kept z a0) : Kept z (State.correctAll a0 a1) := by
  unfold State.correctAll
  repeat' first
    | with_reducible assumption
    | with_reducible refine State.correct_kept ?_
    | with_reducible refine kept_foldl _ (fun _ _ _ => ?_) _ ?_

theorem State.endSwitch_kept {z : State} {a0 a1} (h : Kept z a0) : Kept z (State.endSwitch a0 a1) := by
  unfold State.endSwitch
  repeat' first
    | with_reducible assumption
    | simp only [kept_same]

theorem State.switchStep_kept {z : State} {a0 a1 a2} (h : Kept z a0) : Kept z (State.switchStep a0 a1 a2) := by
  unfold State.switchStep
  repeat' first
    | simp only [State.putFn, kept_same]
    | with_reducible assumption
    | with_reducible refine State.endSwitch_kept ?_
    | with_reducible refine State.setFnState_kept ?_
    | split

theorem State.switchEdge_kept {z : State} {a0} (h : Kept z a0) : Kept z (State.switchEdge a0) := by
  unfold State.switchEdge
  repeat' first
    | with_reducible assumption
    | with_reducible refine State.endSwitch_kept ?_
    | with_reducible refine State.switchStep_kept ?_
    | split

theorem State.arrayEdge_kept {z : State} {a0} (h : Kept z a0) : Kept z (State.arrayEdge a0) := by
  unfold State.arrayEdge
  repeat' first
    | with_reducible assumption
    | with_reducible refine State.holdAdmitted_kept ?_
    | with_reducible refine State.quenchNow_kept ?_
    | with_reducible refine State.stopArray_kept ?_
    | simp only [kept_same]
    | split

theorem State.quenchEdge_kept {z : State} {a0} (h : Kept z a0) : Kept z (State.quenchEdge a0) := by
  unfold State.quenchEdge
  repeat' first
    | with_reducible assumption
    | with_reducible refine State.quenchNow_kept ?_
    | split

theorem execBeatEdge_kept {a0 a1 a2} : ∃ t, execBeatEdge a0 a1 a2 = .next t ∧ Kept a2 t := by
  unfold execBeatEdge
  repeat' first
    | with_reducible exact Kept.refl _
    | with_reducible refine State.arrayEdge_kept ?_
    | with_reducible refine State.capEdge_kept ?_
    | with_reducible refine State.correctAll_kept ?_
    | with_reducible refine State.ctrlSlots_kept ?_
    | with_reducible refine State.endBeat_kept ?_
    | with_reducible refine State.quenchEdge_kept ?_
    | with_reducible refine State.receive_kept ?_
    | with_reducible refine State.startReasons_kept ?_
    | with_reducible refine State.switchEdge_kept ?_
    | with_reducible refine State.thermalEdge_kept ?_
    | with_reducible refine kept_whenB ?_

theorem execHoldoverExpiry_kept {a0} : ∃ t, execHoldoverExpiry a0 = .next t ∧ Kept a0 t := by
  unfold execHoldoverExpiry
  repeat' first
    | with_reducible exact Kept.refl _
    | with_reducible refine State.raise_kept ?_
    | with_reducible refine kept_whenB ?_
    | simp only [kept_same]

theorem execSourceRecovery_kept {a0 a1 a2} : ∃ t, execSourceRecovery a0 a1 a2 = .next t ∧ Kept a2 t := by
  unfold execSourceRecovery
  repeat' first
    | with_reducible exact Kept.refl _
    | with_reducible refine State.raiseIf_kept ?_
    | with_reducible refine kept_whenB ?_
    | simp only [kept_same]

theorem State.checkStamp_kept {z : State} {a0 a1 a2} (h : Kept z a0) : Kept z (State.checkStamp a0 a1 a2) := by
  unfold State.checkStamp
  repeat' first
    | with_reducible assumption
    | with_reducible refine State.raise_kept ?_
    | simp only [kept_same]
    | split

/-! ## Machine/Issue.lean -/

theorem State.taken_kept {z : State} {a0 a1 a2} (h : Kept z a0) : Kept z (State.taken a0 a1 a2) := by
  have tl : ∀ (b : Bool) (q : List QEnt) (n : Nat), q.length ≤ n → (if b then q.tail else q).length ≤ n := by
    intro b q n hq
    split
    · rw [List.length_tail]; omega
    · exact hq
  unfold State.taken
  exact kept_of h (hF := tl _ _ _) (hB := tl _ _ _) (hH := tl _ _ _)

theorem arrayCmd_kept {a0 a1 a2 a3 a4} (ha2 : ∀ x0 x1, Kept a4 x1 → Kept a4 (a2 x0 x1)) (ha3 : ∀ x0 x1, Kept a4 x1 → Kept a4 (a3 x0 x1)) :
    ∃ t, arrayCmd a0 a1 a2 a3 a4 = .next t ∧ Kept a4 t := by
  unfold arrayCmd
  repeat' first
    | with_reducible exact Kept.refl _
    | with_reducible refine State.fetch_kept ?_
    | with_reducible refine State.taken_kept ?_
    | with_reducible refine ha2 _ _ ?_
    | with_reducible refine ha3 _ _ ?_
    | with_reducible refine kept_next ?_
    | split

theorem State.formSummary_kept {z : State} {a0 a1 a2} (h : Kept z a0) : Kept z (State.formSummary a0 a1 a2) := by
  unfold State.formSummary
  repeat' first
    | with_reducible assumption
    | simp only [kept_same]

theorem State.onIssued_kept {z : State} {a0 a1 a2} (h : Kept z a0) : Kept z (State.onIssued a0 a1 a2) := by
  unfold State.onIssued
  repeat' first
    | with_reducible assumption
    | simp only [kept_same]

theorem State.holdFor_kept {z : State} {a0 a1 a2} (h : Kept z a0) : Kept z (State.holdFor a0 a1 a2) := by
  unfold State.holdFor
  repeat' first
    | with_reducible assumption
    | with_reducible refine State.onIssued_kept ?_

theorem State.numberInst_kept {z : State} {a0 a1 a2} (h : Kept z a0) : Kept z (State.numberInst a0 a1 a2) := by
  unfold State.numberInst
  repeat' first
    | with_reducible assumption
    | simp only [kept_same]
    | split

theorem State.pushWord_kept {z : State} {a0 a1} (h : Kept z a0) (hq : a0.queueFull (wordSecs a0.cnd.part a1) = false) :
    Kept z (State.pushWord a0 a1) := by
  have put : ∀ (b : Bool) (q : List QEnt) (e : QEnt) (n : Nat), (b && decide (n ≤ q.length)) = false → q.length ≤ n →
      (if b then q ++ [e] else q).length ≤ n := by
    intro b q e n hb hn
    cases b
    · exact hn
    · simp at hb; simp; omega
  unfold State.queueFull at hq
  simp only [Bool.or_eq_false_iff] at hq
  have n := State.numberInst_kept (a1 := a1) (a2 := a0.cnd.nextSeq) h
  have e : (a0.numberInst a1 a0.cnd.nextSeq).sheet = a0.sheet := by unfold State.numberInst; split <;> rfl
  unfold State.pushWord
  refine kept_of n (hF := ?_) (hB := ?_) (hH := ?_) <;> rw [e]
  · exact put _ _ _ _ hq.1.1
  · exact put _ _ _ _ hq.1.2
  · exact put _ _ _ _ hq.2

theorem State.enqueue_kept {z : State} {a0 a1} (h : Kept z a0) : ∀ t, State.enqueue a0 a1 = .ok t → Kept z t := by
  intro t ht
  unfold State.enqueue at ht
  split at ht
  · contradiction
  · split at ht
    · contradiction
    · split at ht
      · contradiction
      · rename_i hq _
        injection ht with ht
        exact ht ▸ State.pushWord_kept h (by simpa using hq)

theorem State.holdQueueH_kept {z : State} {a0 a1} (h : Kept z a0) : Kept z (State.holdQueueH a0 a1) := by
  unfold State.holdQueueH
  repeat' first
    | with_reducible assumption
    | simp only [kept_same]

theorem State.destsOf_kept {z : State} {a0 a1 a2} (h : Kept z a0) : Kept z (State.destsOf a0 a1 a2) := by
  unfold State.destsOf
  repeat' first
    | with_reducible assumption
    | with_reducible refine State.onIssued_kept ?_

theorem State.freeHold_kept {z : State} {a0 a1} (h : Kept z a0) : Kept z (State.freeHold a0 a1) := by
  unfold State.freeHold
  repeat' first
    | with_reducible assumption
    | with_reducible refine State.holdFor_kept ?_

theorem State.switchBegin_kept {z : State} {a0} (h : Kept z a0) : Kept z (State.switchBegin a0) := by
  unfold State.switchBegin
  repeat' first
    | with_reducible assumption
    | with_reducible refine State.setFnState_kept ?_
    | simp only [kept_same]
    | split

theorem State.spoil_sheet (s : State) (l : List (Nat × Nat)) : (s.spoil l).sheet = s.sheet := by
  have one : ∀ (s : State) (a : Nat), (s.spoilAt a).sheet = s.sheet := by
    intro s a
    unfold State.spoilAt
    split
    · unfold State.putByte; split <;> rfl
    · rfl
  have run : ∀ (n : Nat) (s : State) (a : Nat), (s.spoilRun a n).sheet = s.sheet := by
    intro n
    induction n with
    | zero => exact fun _ _ => rfl
    | succ n ih => exact fun s a => (ih (s.spoilAt a) (a + 1)).trans (one s a)
  induction l generalizing s with
  | nil => rfl
  | cons r t ih => exact (ih (s.spoilRun r.1 r.2)).trans (run r.2 s r.1)

theorem State.completeWord_kept {z : State} {a0 a1} (h : Kept z a0) : Kept z (State.completeWord a0 a1) := by
  have e : (if a0.mdv.uncorr.isSome then a0.spoil a1.dests else a0).sheet = a0.sheet := by
    split
    · exact State.spoil_sheet ..
    · rfl
  have k : Kept z (if a0.mdv.uncorr.isSome then a0.spoil a1.dests else a0) := by
    split
    · exact State.spoil_kept h
    · exact h
  unfold State.completeWord
  refine State.aryRest_kept (State.switchBegin_kept ?_)
  revert e k
  generalize (if a0.mdv.uncorr.isSome then a0.spoil a1.dests else a0) = s
  intro e k
  exact kept_of k (hF := fun x => by rw [e] at x; exact x) (hB := fun x => by rw [e] at x; exact x)
    (hH := fun x => by rw [e] at x; exact x)

theorem State.applyDelivery_kept {z : State} {a0 a1 a2} (h : Kept z a0) : Kept z (State.applyDelivery a0 a1 a2) := by
  have fl : ∀ (s : State) (n : BitVec 4) (q : List QEnt) (k : Nat), q.length ≤ k → (fillSrcs s n q).length ≤ k := by
    intro s n q k hq
    unfold fillSrcs
    rw [List.length_map]
    exact hq
  unfold State.applyDelivery
  exact kept_of h (hF := fl _ _ _ _) (hB := fl _ _ _ _) (hH := fl _ _ _ _)

theorem execSummaryDelivery_kept {a0 a1} : ∃ t, execSummaryDelivery a0 a1 = .next t ∧ Kept a1 t := by
  unfold execSummaryDelivery
  repeat' first
    | with_reducible exact Kept.refl _
    | with_reducible refine State.applyDelivery_kept ?_
    | with_reducible refine kept_next ?_
    | split

theorem execWordComplete_kept {a0 a1} : ∃ t, execWordComplete a0 a1 = .next t ∧ Kept a1 t := by
  unfold execWordComplete
  repeat' first
    | with_reducible exact Kept.refl _
    | with_reducible refine State.completeWord_kept ?_
    | with_reducible refine kept_whenB ?_
    | with_reducible refine kept_next ?_
    | split

/-! ## Machine/Faults.lean -/

theorem State.putFault_kept {z : State} {a0 a1 a2 a3} (h : Kept z a0) : Kept z (State.putFault a0 a1 a2 a3) := by
  unfold State.putFault
  repeat' first
    | with_reducible assumption
    | with_reducible refine State.filled_kept ?_
    | simp only [kept_same]
    | split

theorem State.flaw_kept {z : State} {a0 a1 a2 a3} (h : Kept z a0) : Kept z (State.flaw a0 a1 a2 a3) := by
  unfold State.flaw
  repeat' first
    | with_reducible assumption
    | with_reducible refine State.putFault_kept ?_
    | with_reducible refine State.raise_kept ?_
    | split

theorem State.refuse_kept {z : State} {a0 a1 a2 a3} (h : Kept z a0) : Kept z (State.refuse a0 a1 a2 a3) := by
  unfold State.refuse
  repeat' first
    | with_reducible assumption
    | with_reducible refine State.flaw_kept ?_
    | with_reducible refine State.formSummary_kept ?_

theorem refuseReserved_kept {z : State} {a0 a1 a2} (h : Kept z a2) : Kept z (refuseReserved a0 a1 a2) := by
  unfold refuseReserved
  repeat' first
    | with_reducible assumption
    | with_reducible refine State.refuse_kept ?_

/-! ## Machine/Accum.lean -/

theorem State.putAcc_kept {z : State} {a0 a1 a2 a3} (h : Kept z a0) : Kept z (State.putAcc a0 a1 a2 a3) :=
  kept_of (s := a0.putRun (gBase a1 a2) a3.bytes) (State.putRun_kept h) (hh := smWf_put 0 _ _ _)

/-! ## Machine/Memory.lean -/

theorem State.putCore_kept {z : State} {a0 a1 a2} (h : Kept z a0) : Kept z (State.putCore a0 a1 a2) := by
  unfold State.putCore
  repeat' first
    | with_reducible assumption
    | simp only [kept_same]

theorem State.trainDevices_kept {z : State} {a0 a1} (h : Kept z a0) : Kept z (State.trainDevices a0 a1) := by
  unfold State.trainDevices
  repeat' first
    | with_reducible assumption
    | with_reducible refine State.raiseIf_kept ?_
    | simp only [kept_same]

theorem State.correctRow_kept {z : State} {a0 a1} (h : Kept z a0) : Kept z (State.correctRow a0 a1) := by
  unfold State.correctRow
  repeat' first
    | with_reducible assumption
    | with_reducible refine State.correctColumn_kept ?_
    | with_reducible refine kept_foldl _ (fun _ _ _ => ?_) _ ?_
    | split

theorem State.repairDone_kept {z : State} {a0} (h : Kept z a0) : Kept z (State.repairDone a0) := by
  unfold State.repairDone
  repeat' first
    | with_reducible assumption
    | with_reducible refine State.correctRow_kept ?_
    | simp only [kept_same]
    | split

theorem State.repairFails_kept {z : State} {a0 a1 a2 a3} (h : Kept z a0) : Kept z (State.repairFails a0 a1 a2 a3) := by
  unfold State.repairFails
  repeat' first
    | with_reducible assumption
    | with_reducible refine State.mdvFault_kept ?_
    | simp only [kept_same]

theorem State.startRepair_kept {z : State} {a0 a1 a2} (h : Kept z a0) : Kept z (State.startRepair a0 a1 a2) := by
  unfold State.startRepair
  repeat' first
    | with_reducible assumption
    | with_reducible refine State.repairFails_kept ?_
    | simp only [kept_same]
    | split

theorem execInterfaceTracking_kept {a0 a1 a2} : ∃ t, execInterfaceTracking a0 a1 a2 = .next t ∧ Kept a2 t := by
  unfold execInterfaceTracking
  repeat' first
    | with_reducible exact Kept.refl _
    | with_reducible refine kept_next ?_

theorem State.putPostponed_kept {z : State} {a0 a1 a2} (h : Kept z a0) : Kept z (State.putPostponed a0 a1 a2) := by
  unfold State.putPostponed
  repeat' first
    | with_reducible assumption
    | simp only [kept_same]

theorem State.refreshRows_kept {z : State} {a0 a1 a2} (h : Kept z a0) : Kept z (State.refreshRows a0 a1 a2) := by
  unfold State.refreshRows
  repeat' first
    | with_reducible assumption
    | simp only [kept_same]

theorem State.abandonMove_kept {z : State} {a0 a1} (h : Kept z a0) : Kept z (State.abandonMove a0 a1) := by
  unfold State.abandonMove
  repeat' first
    | with_reducible assumption
    | simp only [kept_same]
    | split

theorem State.hostErrMet_kept {z : State} {a0 a1} (h : Kept z a0) : Kept z (State.hostErrMet a0 a1) := by
  unfold State.hostErrMet
  repeat' first
    | with_reducible assumption
    | simp only [kept_same]

theorem State.paused_kept {z : State} {a0 a1 a2} (h : Kept z a0) : Kept z (State.paused a0 a1 a2) := by
  unfold State.paused
  repeat' first
    | with_reducible assumption
    | with_reducible refine State.putCore_kept ?_

theorem execRefresh_kept {a0 a1 a2} : ∃ t, execRefresh a0 a1 a2 = .next t ∧ Kept a2 t := by
  unfold execRefresh
  repeat' first
    | with_reducible exact Kept.refl _
    | with_reducible refine State.paused_kept ?_
    | with_reducible refine State.putPostponed_kept ?_
    | with_reducible refine State.refreshRows_kept ?_
    | with_reducible refine kept_whenB ?_
    | split

theorem State.scrubColumn_kept {z : State} {a0 a1} (h : Kept z a0) : Kept z (State.scrubColumn a0 a1) := by
  unfold State.scrubColumn
  repeat' first
    | with_reducible assumption
    | with_reducible refine State.correctColumn_kept ?_
    | with_reducible refine State.countCe_kept ?_
    | with_reducible refine State.meetUncorr_kept ?_
    | split

theorem execScrubRead_kept {a0 a1} : ∃ t, execScrubRead a0 a1 = .next t ∧ Kept a1 t := by
  unfold execScrubRead
  repeat' first
    | with_reducible exact Kept.refl _
    | with_reducible assumption
    | with_reducible refine State.scrubColumn_kept ?_
    | with_reducible refine kept_whenB ?_
    | simp only [kept_same]
    | with_reducible refine kept_foldl _ (fun _ _ _ => ?_) _ ?_
    | split

theorem execBankBoundaryService_kept {a0 a1 a2} : ∃ t, execBankBoundaryService a0 a1 a2 = .next t ∧ Kept a2 t := by
  unfold execBankBoundaryService
  repeat' first
    | with_reducible exact Kept.refl _
    | with_reducible refine State.paused_kept ?_
    | with_reducible refine State.putPostponed_kept ?_
    | with_reducible refine State.refreshRows_kept ?_
    | with_reducible refine kept_whenB ?_
    | with_reducible refine kept_next ?_
    | split

theorem State.foilError_kept {z : State} {a0 a1} (h : Kept z a0) : Kept z (State.foilError a0 a1) := by
  unfold State.foilError
  repeat' first
    | with_reducible assumption
    | with_reducible refine State.phaseStop_kept ?_
    | with_reducible refine State.putFault_kept ?_
    | with_reducible refine State.raise_kept ?_
    | simp only [kept_same]
    | split

theorem State.storeError_kept {z : State} {a0 a1 a2 a3 a4} (h : Kept z a0) :
    Kept z (State.storeError a0 a1 a2 a3 a4) := by
  unfold State.storeError
  repeat' first
    | with_reducible assumption
    | with_reducible refine State.putFault_kept ?_
    | with_reducible refine State.raise_kept ?_
    | split

theorem State.uncorrConsumer_kept {z : State} {a0 a1} (h : Kept z a0) : Kept z (State.uncorrConsumer a0 a1) := by
  unfold State.uncorrConsumer
  repeat' first
    | with_reducible assumption
    | with_reducible refine State.abandonMove_kept ?_
    | with_reducible refine State.raise_kept ?_
    | simp only [kept_same]
    | split

theorem execUncorrectableError_kept {a0 a1} : ∃ t, execUncorrectableError a0 a1 = .next t ∧ Kept a1 t := by
  have k := Kept.refl a1
  have m : Kept a1 ((a1.meetUncorr a0).uncorrConsumer a0) := State.uncorrConsumer_kept (State.meetUncorr_kept k)
  obtain ⟨src, f, n, r, c, y, u⟩ := a0
  unfold execUncorrectableError
  with_reducible refine kept_whenB ?_
  cases src <;> dsimp only
  case foil => with_reducible exact State.foilError_kept k
  case tileStore => with_reducible exact State.phaseStop_kept (State.storeError_kept k)
  case gbuffer => with_reducible exact State.phaseStop_kept (State.storeError_kept k)
  case program => with_reducible exact State.phaseStop_kept (State.storeError_kept k)
  case bankStore => exact kept_of (State.phaseStop_kept k)
  all_goals with_reducible exact m

theorem execUncorrPhaseStop_kept {a0} : ∃ t, execUncorrPhaseStop a0 = .next t ∧ Kept a0 t := by
  unfold execUncorrPhaseStop
  repeat' first
    | with_reducible exact Kept.refl _
    | with_reducible refine State.uncorrNow_kept ?_
    | with_reducible refine kept_whenB ?_
    | with_reducible refine kept_next ?_
    | simp only [kept_same]
    | split

theorem execRepairComplete_kept {a0} : ∃ t, execRepairComplete a0 = .next t ∧ Kept a0 t := by
  unfold execRepairComplete
  repeat' first
    | with_reducible exact Kept.refl _
    | with_reducible refine State.repairDone_kept ?_
    | with_reducible refine kept_whenB ?_

theorem execMemoryDieTemperatureCrossing_kept {a0 a1 a2} :
    ∃ t, execMemoryDieTemperatureCrossing a0 a1 a2 = .next t ∧ Kept a2 t := by
  unfold execMemoryDieTemperatureCrossing
  repeat' first
    | with_reducible exact Kept.refl _
    | with_reducible refine State.raiseIf_kept ?_
    | with_reducible refine kept_whenB ?_
    | simp only [kept_same]

end Sys2Proof.Machine
end

