-- ==== Sys2Proof/Laws/KeptConductor.lean ====
section
/-! SUPPORT. What `Kept` says of bank programs, places, the Conductor, waits, casts, operands and the tier manager:
one lemma per function of the model that answers a state, named after it. A lemma whose conclusion is `∃ t, ... = .next t` is about
the meaning of a command. -/

-- One proof after the other: side by side they want more threads than the memory of a check holds.
set_option Elab.async false

namespace Sys2Proof.Machine

/-! ## Machine/Bank.lean -/

theorem State.putProg_kept {z : State} {a0 a1 a2 a3} (h : Kept z a0) : Kept z (State.putProg a0 a1 a2 a3) := by
  unfold State.putProg
  repeat' first
    | with_reducible assumption
    | simp only [kept_same]

theorem State.endProgram_kept {z : State} {a0 a1 a2 a3 a4} (h : Kept z a0) :
    Kept z (State.endProgram a0 a1 a2 a3 a4) := by
  unfold State.endProgram
  repeat' first
    | with_reducible assumption
    | with_reducible refine State.putCore_kept ?_
    | with_reducible refine State.putProg_kept ?_
    | simp only [kept_same]

theorem State.bankFault_kept {z : State} {a0 a1 a2 a3 a4} (h : Kept z a0) :
    Kept z (State.bankFault a0 a1 a2 a3 a4) := by
  unfold State.bankFault
  repeat' first
    | with_reducible assumption
    | with_reducible refine State.endProgram_kept ?_
    | with_reducible refine State.putFault_kept ?_
    | with_reducible refine State.raise_kept ?_
    | split

theorem bankCmd_kept {a0 a1 a2 a3 a4} (ha3 : ∀ c r s d t, Kept a4 s → a3 c r s = .go d t → Kept a4 t) :
    ∃ t, bankCmd a0 a1 a2 a3 a4 = .next t ∧ Kept a4 t := by
  unfold bankCmd
  try dsimp only
  repeat' first
    | with_reducible exact Kept.refl _
    | with_reducible refine State.bankFault_kept ?_
    | with_reducible refine State.endProgram_kept ?_
    | with_reducible refine State.putCore_kept ?_
    | (refine ha3 _ _ _ _ _ ?_ (by assumption))
    | with_reducible refine kept_next ?_
    | split

theorem bankBranch_kept {a0 a1 a2 a3 a4} : ∃ t, bankBranch a0 a1 a2 a3 a4 = .next t ∧ Kept a4 t := by
  unfold bankBranch
  repeat' first
    | with_reducible assumption
    | with_reducible refine bankCmd_kept ?_
    | intro _
    | (rename_i e; injection e with _ e; subst e)

theorem execBankBeq_kept {a0 a1 a2} : ∃ t, execBankBeq a0 a1 a2 = .next t ∧ Kept a2 t := by
  unfold execBankBeq
  repeat' first
    | with_reducible exact bankBranch_kept

theorem bankWide_kept {a0 a1 a2 a3 a4} : ∃ t, bankWide a0 a1 a2 a3 a4 = .next t ∧ Kept a4 t := by
  unfold bankWide
  repeat' first
    | with_reducible assumption
    | with_reducible refine bankCmd_kept ?_
    | intro _
    | (rename_i e; injection e with _ e; subst e)

theorem execBankFmin_kept {a0 a1 a2} : ∃ t, execBankFmin a0 a1 a2 = .next t ∧ Kept a2 t := by
  unfold execBankFmin
  repeat' first
    | with_reducible exact bankWide_kept

theorem execBankWcat_kept {a0 a1 a2} : ∃ t, execBankWcat a0 a1 a2 = .next t ∧ Kept a2 t := by
  unfold execBankWcat
  repeat' first
    | with_reducible exact bankWide_kept

theorem bankStore_kept {z : State} {a0 a1 a2 a3 a4} (h : Kept z a4) :
    ∀ d t, bankStore a0 a1 a2 a3 a4 = .go d t → Kept z t := by
  unfold bankStore
  try dsimp only
  repeat' first
    | with_reducible assumption
    | with_reducible refine State.storeRun_kept ?_
    | with_reducible refine State.unsettled_kept ?_
    | split
    | intro _
    | contradiction
    | (rename_i e; injection e with _ e; subst e)

theorem execBankStw_kept {a0 a1 a2} : ∃ t, execBankStw a0 a1 a2 = .next t ∧ Kept a2 t := by
  unfold execBankStw
  repeat' first
    | with_reducible assumption
    | with_reducible refine bankCmd_kept ?_
    | (refine bankStore_kept ?_ _ _ (by assumption))
    | intro _

theorem execBankWxor_kept {a0 a1 a2} : ∃ t, execBankWxor a0 a1 a2 = .next t ∧ Kept a2 t := by
  unfold execBankWxor
  repeat' first
    | with_reducible exact bankWide_kept

theorem bankScalar_kept {a0 a1 a2 a3 a4} : ∃ t, bankScalar a0 a1 a2 a3 a4 = .next t ∧ Kept a4 t := by
  unfold bankScalar
  repeat' first
    | with_reducible assumption
    | with_reducible refine bankCmd_kept ?_
    | intro _
    | (rename_i e; injection e with _ e; subst e)

theorem execBankOr_kept {a0 a1 a2} : ∃ t, execBankOr a0 a1 a2 = .next t ∧ Kept a2 t := by
  unfold execBankOr
  repeat' first
    | with_reducible exact bankScalar_kept

theorem execBankChput_kept {a0 a1 a2} : ∃ t, execBankChput a0 a1 a2 = .next t ∧ Kept a2 t := by
  unfold execBankChput
  repeat' first
    | with_reducible assumption
    | with_reducible refine State.putCore_kept ?_
    | with_reducible refine bankCmd_kept ?_
    | simp only [kept_same]
    | split
    | intro _
    | contradiction
    | (rename_i e; injection e with _ e; subst e)

theorem execBankFsqrt_kept {a0 a1 a2} : ∃ t, execBankFsqrt a0 a1 a2 = .next t ∧ Kept a2 t := by
  unfold execBankFsqrt
  repeat' first
    | with_reducible exact bankWide_kept

theorem execBankShri_kept {a0 a1 a2} : ∃ t, execBankShri a0 a1 a2 = .next t ∧ Kept a2 t := by
  unfold execBankShri
  repeat' first
    | with_reducible exact bankScalar_kept

theorem execBankAddi_kept {a0 a1 a2} : ∃ t, execBankAddi a0 a1 a2 = .next t ∧ Kept a2 t := by
  unfold execBankAddi
  repeat' first
    | with_reducible exact bankScalar_kept

theorem execBankSub_kept {a0 a1 a2} : ∃ t, execBankSub a0 a1 a2 = .next t ∧ Kept a2 t := by
  unfold execBankSub
  repeat' first
    | with_reducible exact bankScalar_kept

theorem execBankWext_kept {a0 a1 a2} : ∃ t, execBankWext a0 a1 a2 = .next t ∧ Kept a2 t := by
  unfold execBankWext
  repeat' first
    | with_reducible assumption
    | with_reducible refine bankCmd_kept ?_
    | intro _
    | (rename_i e; injection e with _ e; subst e)

theorem execBankFdiv_kept {a0 a1 a2} : ∃ t, execBankFdiv a0 a1 a2 = .next t ∧ Kept a2 t := by
  unfold execBankFdiv
  repeat' first
    | with_reducible exact bankWide_kept

theorem execBankFmax_kept {a0 a1 a2} : ∃ t, execBankFmax a0 a1 a2 = .next t ∧ Kept a2 t := by
  unfold execBankFmax
  repeat' first
    | with_reducible exact bankWide_kept

theorem bankHalf_kept {a0 a1 a2 a3 a4} : ∃ t, bankHalf a0 a1 a2 a3 a4 = .next t ∧ Kept a4 t := by
  unfold bankHalf
  repeat' first
    | with_reducible assumption
    | with_reducible refine bankCmd_kept ?_
    | intro _
    | (rename_i e; injection e with _ e; subst e)

theorem State.putRow_kept {z : State} {a0 a1 a2 a3} (h : Kept z a0) : Kept z (State.putRow a0 a1 a2 a3) := by
  unfold State.putRow
  repeat' first
    | with_reducible assumption
    | with_reducible refine State.putRun_kept ?_
    | with_reducible refine State.putUnsealed_kept ?_
    | simp only [kept_same]

theorem execBankAdd_kept {a0 a1 a2} : ∃ t, execBankAdd a0 a1 a2 = .next t ∧ Kept a2 t := by
  unfold execBankAdd
  repeat' first
    | with_reducible exact bankScalar_kept

theorem execBankAnd_kept {a0 a1 a2} : ∃ t, execBankAnd a0 a1 a2 = .next t ∧ Kept a2 t := by
  unfold execBankAnd
  repeat' first
    | with_reducible exact bankScalar_kept

theorem execBankXor_kept {a0 a1 a2} : ∃ t, execBankXor a0 a1 a2 = .next t ∧ Kept a2 t := by
  unfold execBankXor
  repeat' first
    | with_reducible exact bankScalar_kept

theorem execBankShli_kept {a0 a1 a2} : ∃ t, execBankShli a0 a1 a2 = .next t ∧ Kept a2 t := by
  unfold execBankShli
  repeat' first
    | with_reducible exact bankScalar_kept

theorem execBankBne_kept {a0 a1 a2} : ∃ t, execBankBne a0 a1 a2 = .next t ∧ Kept a2 t := by
  unfold execBankBne
  repeat' first
    | with_reducible exact bankBranch_kept

theorem execBankBltu_kept {a0 a1 a2} : ∃ t, execBankBltu a0 a1 a2 = .next t ∧ Kept a2 t := by
  unfold execBankBltu
  repeat' first
    | with_reducible exact bankBranch_kept

theorem execBankWbc_kept {a0 a1 a2} : ∃ t, execBankWbc a0 a1 a2 = .next t ∧ Kept a2 t := by
  unfold execBankWbc
  repeat' first
    | with_reducible assumption
    | with_reducible refine bankCmd_kept ?_
    | intro _
    | (rename_i e; injection e with _ e; subst e)

theorem execBankWins_kept {a0 a1 a2} : ∃ t, execBankWins a0 a1 a2 = .next t ∧ Kept a2 t := by
  unfold execBankWins
  repeat' first
    | with_reducible assumption
    | with_reducible refine bankCmd_kept ?_
    | intro _
    | (rename_i e; injection e with _ e; subst e)

theorem execBankWcrc_kept {a0 a1 a2} : ∃ t, execBankWcrc a0 a1 a2 = .next t ∧ Kept a2 t := by
  unfold execBankWcrc
  repeat' first
    | with_reducible assumption
    | with_reducible refine bankCmd_kept ?_
    | intro _
    | (rename_i e; injection e with _ e; subst e)

theorem execBankLdw_kept {a0 a1 a2} : ∃ t, execBankLdw a0 a1 a2 = .next t ∧ Kept a2 t := by
  unfold execBankLdw
  try dsimp only
  repeat' first
    | with_reducible assumption
    | with_reducible refine State.noteCode_kept ?_
    | with_reducible refine bankCmd_kept ?_
    | split
    | intro _
    | contradiction
    | (rename_i e; injection e with _ e; subst e)

theorem execBankStc_kept {a0 a1 a2} : ∃ t, execBankStc a0 a1 a2 = .next t ∧ Kept a2 t := by
  unfold execBankStc
  repeat' first
    | with_reducible assumption
    | with_reducible refine bankCmd_kept ?_
    | (refine bankStore_kept ?_ _ _ (by assumption))
    | split
    | intro _
    | contradiction
    | (rename_i e; injection e with _ e; subst e)

theorem execBankRowop_kept {a0 a1 a2} : ∃ t, execBankRowop a0 a1 a2 = .next t ∧ Kept a2 t := by
  unfold execBankRowop
  try dsimp only
  repeat' first
    | with_reducible assumption
    | with_reducible refine State.putRow_kept ?_
    | with_reducible refine State.unsettled_kept ?_
    | with_reducible refine bankCmd_kept ?_
    | split
    | intro _
    | contradiction
    | (rename_i e; injection e with _ e; subst e)

theorem execBankChget_kept {a0 a1 a2} : ∃ t, execBankChget a0 a1 a2 = .next t ∧ Kept a2 t := by
  unfold execBankChget
  repeat' first
    | with_reducible assumption
    | with_reducible refine bankCmd_kept ?_
    | split
    | intro _
    | contradiction
    | (rename_i e; injection e with _ e; subst e)

theorem execChainWordArrival_kept {a0 a1} : ∃ t, execChainWordArrival a0 a1 = .next t ∧ Kept a1 t := by
  unfold execChainWordArrival
  try dsimp only
  repeat' first
    | with_reducible exact Kept.refl _
    | with_reducible refine State.putCore_kept ?_
    | with_reducible refine kept_next ?_
    | split

theorem execBankFadd_kept {a0 a1 a2} : ∃ t, execBankFadd a0 a1 a2 = .next t ∧ Kept a2 t := by
  unfold execBankFadd
  repeat' first
    | with_reducible exact bankWide_kept

theorem execBankFsub_kept {a0 a1 a2} : ∃ t, execBankFsub a0 a1 a2 = .next t ∧ Kept a2 t := by
  unfold execBankFsub
  repeat' first
    | with_reducible exact bankWide_kept

theorem execBankFmul_kept {a0 a1 a2} : ∃ t, execBankFmul a0 a1 a2 = .next t ∧ Kept a2 t := by
  unfold execBankFmul
  repeat' first
    | with_reducible exact bankWide_kept

theorem execBankFfma_kept {a0 a1 a2} : ∃ t, execBankFfma a0 a1 a2 = .next t ∧ Kept a2 t := by
  unfold execBankFfma
  repeat' first
    | with_reducible exact bankWide_kept

theorem execBankIadd_kept {a0 a1 a2} : ∃ t, execBankIadd a0 a1 a2 = .next t ∧ Kept a2 t := by
  unfold execBankIadd
  repeat' first
    | with_reducible exact bankWide_kept

theorem execBankIsub_kept {a0 a1 a2} : ∃ t, execBankIsub a0 a1 a2 = .next t ∧ Kept a2 t := by
  unfold execBankIsub
  repeat' first
    | with_reducible exact bankWide_kept

theorem execBankWand_kept {a0 a1 a2} : ∃ t, execBankWand a0 a1 a2 = .next t ∧ Kept a2 t := by
  unfold execBankWand
  repeat' first
    | with_reducible exact bankWide_kept

theorem execBankWor_kept {a0 a1 a2} : ∃ t, execBankWor a0 a1 a2 = .next t ∧ Kept a2 t := by
  unfold execBankWor
  repeat' first
    | with_reducible exact bankWide_kept

theorem execBankWmov_kept {a0 a1 a2} : ∃ t, execBankWmov a0 a1 a2 = .next t ∧ Kept a2 t := by
  unfold execBankWmov
  repeat' first
    | with_reducible exact bankWide_kept

theorem execBankWhi_kept {a0 a1 a2} : ∃ t, execBankWhi a0 a1 a2 = .next t ∧ Kept a2 t := by
  unfold execBankWhi
  repeat' first
    | with_reducible exact bankHalf_kept

theorem execBankWlo_kept {a0 a1 a2} : ∃ t, execBankWlo a0 a1 a2 = .next t ∧ Kept a2 t := by
  unfold execBankWlo
  repeat' first
    | with_reducible exact bankHalf_kept

theorem execBankKadd_kept {a0 a1 a2} : ∃ t, execBankKadd a0 a1 a2 = .next t ∧ Kept a2 t := by
  unfold execBankKadd
  repeat' first
    | with_reducible assumption
    | with_reducible refine bankCmd_kept ?_
    | intro _
    | (rename_i e; injection e with _ e; subst e)

theorem execBankEnd_kept {a0 a1 a2} : ∃ t, execBankEnd a0 a1 a2 = .next t ∧ Kept a2 t := by
  unfold execBankEnd
  repeat' first
    | with_reducible refine bankCmd_kept ?_
    | intro _
    | contradiction

/-! ## Machine/Places.lean -/

theorem State.touchPlaces_kept {z : State} {a0 a1} (h : Kept z a0) : Kept z (State.touchPlaces a0 a1) := by
  unfold State.touchPlaces
  repeat' first
    | with_reducible assumption
    | simp only [kept_same]
    | split

theorem State.putImageWord_kept {z : State} {a0 a1 a2} (h : Kept z a0) : Kept z (State.putImageWord a0 a1 a2) := by
  unfold State.putImageWord
  repeat' first
    | with_reducible assumption
    | with_reducible refine State.storeBytes_kept ?_

theorem State.putLive_kept {z : State} {a0 a1 a2 a3} (h : Kept z a0) : Kept z (State.putLive a0 a1 a2 a3) := by
  unfold State.putLive
  repeat' first
    | with_reducible assumption
    | with_reducible refine State.putImageWord_kept ?_

theorem State.notePeaks_kept {z : State} {a0} (h : Kept z a0) : Kept z (State.notePeaks a0) := by
  unfold State.notePeaks
  repeat' first
    | with_reducible assumption
    | simp only [kept_same]

/-! ## Machine/Conductor.lean -/

theorem State.exception_kept {z : State} {a0 a1 a2 a3} (h : Kept z a0) : Kept z (State.exception a0 a1 a2 a3) := by
  unfold State.exception
  repeat' first
    | with_reducible assumption
    | with_reducible refine State.raise_kept ?_
    | with_reducible refine State.setFnState_kept ?_
    | simp only [kept_same]

theorem conduct_kept {a0 a1 a2 a3} (ha2 : ∀ x0 x1, Kept a3 x1 → Kept a3 (a2 x0 x1)) :
    ∃ t, conduct a0 a1 a2 a3 = .next t ∧ Kept a3 t := by
  unfold conduct
  try dsimp only
  repeat' first
    | with_reducible exact Kept.refl _
    | with_reducible refine State.exception_kept ?_
    | with_reducible refine ha2 _ _ ?_
    | with_reducible refine kept_next ?_
    | split

theorem State.await_kept {z : State} {a0 a1} (h : Kept z a0) : Kept z (State.await a0 a1) := by
  unfold State.await
  repeat' first
    | with_reducible assumption
    | simp only [kept_same]

theorem State.onceValid_kept {z : State} {a0 a1 a2} (h : Kept z a0) (h2 : Kept z a2) :
    Kept z (State.onceValid a0 a1 a2) := by
  unfold State.onceValid
  split
  · exact State.await_kept h
  · exact h2

theorem landing_short (l : List LoopFrame) (pc : Nat) : (landing l pc).2.length ≤ l.length := by
  induction l with
  | nil => exact Nat.le_refl _
  | cons f t ih =>
    unfold landing
    split
    · split
      · exact Nat.le_refl _
      · exact Nat.le_trans ih (Nat.le_succ _)
    · exact Nat.le_refl _

theorem State.goto_kept {z : State} {a0 a1} (h : Kept z a0) : Kept z (State.goto a0 a1) :=
  kept_of h (hl := fun k => Nat.le_trans (landing_short a0.cnd.loops a1) k)

theorem State.advance_kept {z : State} {a0} (h : Kept z a0) : Kept z (State.advance a0) := by
  unfold State.advance
  repeat' first
    | with_reducible assumption
    | with_reducible refine State.goto_kept ?_

theorem State.putG_kept {z : State} {a0 a1 a2} (h : Kept z a0) : Kept z (State.putG a0 a1 a2) := by
  unfold State.putG
  repeat' first
    | with_reducible assumption
    | simp only [kept_same]
    | split

theorem execRdsm_kept {a0 a1} : ∃ t, execRdsm a0 a1 = .next t ∧ Kept a1 t := by
  unfold execRdsm
  repeat' first
    | with_reducible assumption
    | with_reducible refine State.advance_kept ?_
    | with_reducible refine State.exception_kept ?_
    | with_reducible refine State.onceValid_kept ?_ ?_
    | with_reducible refine State.putG_kept ?_
    | with_reducible refine conduct_kept ?_
    | split
    | intro _

theorem State.beginEnd_kept {z : State} {a0 a1} (h : Kept z a0) : Kept z (State.beginEnd a0 a1) := by
  unfold State.beginEnd
  repeat' first
    | with_reducible assumption
    | with_reducible refine State.setFnState_kept ?_
    | simp only [kept_same]

theorem State.conductorStop_kept {z : State} {a0} (h : Kept z a0) : Kept z (State.conductorStop a0) := by
  unfold State.conductorStop
  repeat' first
    | with_reducible assumption
    | with_reducible refine State.beginEnd_kept ?_
    | with_reducible refine State.cancelAdmission_kept ?_
    | split

theorem State.conductorGo_kept {z : State} {a0} (h : Kept z a0) : Kept z (State.conductorGo a0) := by
  unfold State.conductorGo
  repeat' first
    | simp only [State.setFnState, State.putFn, kept_same]
    | with_reducible assumption
    | with_reducible refine State.autoGo_kept ?_
    | split

theorem State.askQuench_kept {z : State} {a0} (h : Kept z a0) : Kept z (State.askQuench a0) := by
  unfold State.askQuench
  repeat' first
    | with_reducible assumption
    | simp only [kept_same]
    | split

theorem execHalt_kept {a0 a1} : ∃ t, execHalt a0 a1 = .next t ∧ Kept a1 t := by
  unfold execHalt
  repeat' first
    | with_reducible assumption
    | with_reducible refine State.advance_kept ?_
    | with_reducible refine State.beginEnd_kept ?_
    | with_reducible refine State.exception_kept ?_
    | with_reducible refine State.raise_kept ?_
    | with_reducible refine conduct_kept ?_
    | simp only [kept_same]
    | split
    | intro _

theorem execMovz_kept {a0 a1} : ∃ t, execMovz a0 a1 = .next t ∧ Kept a1 t := by
  unfold execMovz
  repeat' first
    | with_reducible assumption
    | with_reducible refine State.advance_kept ?_
    | with_reducible refine State.exception_kept ?_
    | with_reducible refine State.putG_kept ?_
    | with_reducible refine conduct_kept ?_
    | split
    | intro _

theorem State.enqueueRun_kept {z : State} {a0 a1 a2 a3 a4} (h : Kept z a4) :
    Kept z (State.enqueueRun a0 a1 a2 a3 a4) := by
  induction a2 generalizing a3 a4 with
  | zero => exact State.advance_kept h
  | succ n ih =>
    unfold State.enqueueRun
    dsimp only
    split
    · exact State.exception_kept h
    · split
      · rename_i e; exact ih (State.enqueue_kept h _ e)
      · exact State.await_kept h
      · exact State.exception_kept h

theorem State.enterMould_kept {z : State} {a0 a1 a2 a3} (h : Kept z a0) : Kept z (State.enterMould a0 a1 a2 a3) := by
  unfold State.enterMould
  repeat' first
    | with_reducible assumption
    | simp only [kept_same]

theorem State.branchTo_kept {z : State} {a0 a1 a2 a3} (h : Kept z a0) : Kept z (State.branchTo a0 a1 a2 a3) := by
  unfold State.branchTo
  repeat' first
    | with_reducible assumption
    | with_reducible refine State.exception_kept ?_
    | with_reducible refine State.goto_kept ?_
    | split

theorem State.putSm_kept {z : State} {a0 a1 a2} (h : Kept z a0) : Kept z (State.putSm a0 a1 a2) := by
  unfold State.putSm
  repeat' first
    | with_reducible assumption
    | simp only [kept_same]

theorem execSmw_kept {a0 a1} : ∃ t, execSmw a0 a1 = .next t ∧ Kept a1 t := by
  unfold execSmw
  repeat' first
    | with_reducible assumption
    | with_reducible refine State.advance_kept ?_
    | with_reducible refine State.exception_kept ?_
    | with_reducible refine State.onceValid_kept ?_ ?_
    | with_reducible refine State.putSm_kept ?_
    | with_reducible refine conduct_kept ?_
    | split
    | intro _

theorem State.metLate_kept {z : State} {a0 a1} (h : Kept z a0) : Kept z (State.metLate a0 a1) := by
  unfold State.metLate
  repeat' first
    | with_reducible assumption
    | with_reducible refine State.advance_kept ?_
    | with_reducible refine State.raiseIf_kept ?_

theorem execWaitaExpire_kept {a0} : ∃ t, execWaitaExpire a0 = .next t ∧ Kept a0 t := by
  unfold execWaitaExpire
  repeat' first
    | with_reducible exact Kept.refl _
    | with_reducible refine State.metLate_kept ?_
    | with_reducible refine kept_whenB ?_
    | with_reducible refine kept_next ?_
    | split

theorem State.enqueueOne_kept {z : State} {a0 a1 a2} (h : Kept z a0) : Kept z (State.enqueueOne a0 a1 a2) := by
  unfold State.enqueueOne
  repeat' first
    | with_reducible assumption
    | with_reducible refine State.advance_kept ?_
    | with_reducible refine State.await_kept ?_
    | (refine State.enqueue_kept ?_ _ (by assumption))
    | with_reducible refine State.exception_kept ?_
    | split

theorem execEnqueueResume_kept {a0} : ∃ t, execEnqueueResume a0 = .next t ∧ Kept a0 t := by
  unfold execEnqueueResume
  repeat' first
    | with_reducible exact Kept.refl _
    | with_reducible refine State.enqueueOne_kept ?_
    | with_reducible refine State.enqueueRun_kept ?_
    | with_reducible refine kept_whenB ?_
    | with_reducible refine kept_next ?_
    | split

theorem execConductorStopped_kept {a0} : ∃ t, execConductorStopped a0 = .next t ∧ Kept a0 t := by
  unfold execConductorStopped
  repeat' first
    | with_reducible exact Kept.refl _
    | with_reducible refine State.closeRecord_kept ?_
    | with_reducible refine State.endCast_kept ?_
    | with_reducible refine State.setFnState_kept ?_
    | with_reducible refine kept_whenB ?_
    | simp only [kept_same]
    | split

theorem State.clearSm_kept {z : State} {a0 a1} (h : Kept z a0) : Kept z (State.clearSm a0 a1) := by
  unfold State.clearSm
  repeat' first
    | with_reducible assumption
    | simp only [kept_same]

theorem execWaitb_kept {a0 a1} : ∃ t, execWaitb a0 a1 = .next t ∧ Kept a1 t := by
  unfold execWaitb
  repeat' first
    | with_reducible assumption
    | with_reducible refine State.advance_kept ?_
    | with_reducible refine State.await_kept ?_
    | with_reducible refine conduct_kept ?_
    | split
    | intro _

theorem execLoop_kept {a0 a1} : ∃ t, execLoop a0 a1 = .next t ∧ Kept a1 t := by
  unfold execLoop
  try dsimp only
  repeat' first
    | (refine kept_of (by assumption) (hl := fun _ => ?_); simp only [List.length_cons]; omega)
    | with_reducible assumption
    | with_reducible refine State.advance_kept ?_
    | with_reducible refine State.exception_kept ?_
    | with_reducible refine State.goto_kept ?_
    | with_reducible refine conduct_kept ?_
    | split
    | intro _

theorem conductReg_kept {a0 a1 a2 a3} : ∃ t, conductReg a0 a1 a2 a3 = .next t ∧ Kept a3 t := by
  unfold conductReg
  repeat' first
    | with_reducible assumption
    | with_reducible refine State.advance_kept ?_
    | with_reducible refine State.putG_kept ?_
    | with_reducible refine conduct_kept ?_
    | intro _

theorem execAndi_kept {a0 a1} : ∃ t, execAndi a0 a1 = .next t ∧ Kept a1 t := by
  unfold execAndi
  repeat' first
    | with_reducible exact conductReg_kept

theorem execShi_kept {a0 a1} : ∃ t, execShi a0 a1 = .next t ∧ Kept a1 t := by
  unfold execShi
  repeat' first
    | with_reducible assumption
    | with_reducible refine State.advance_kept ?_
    | with_reducible refine State.exception_kept ?_
    | with_reducible refine State.putG_kept ?_
    | with_reducible refine conduct_kept ?_
    | split
    | intro _

theorem State.leaveMould_kept {z : State} {a0 a1} (h : Kept z a0) : Kept z (State.leaveMould a0 a1) := by
  unfold State.leaveMould
  repeat' first
    | with_reducible assumption
    | with_reducible refine State.closeRecord_kept ?_
    | simp only [kept_same]
    | split

theorem State.countOverrun_kept {z : State} {a0 a1} (h : Kept z a0) : Kept z (State.countOverrun a0 a1) := by
  unfold State.countOverrun
  repeat' first
    | with_reducible assumption
    | with_reducible refine State.countRecord_kept ?_
    | with_reducible refine State.raise_kept ?_
    | simp only [kept_same]
    | split

theorem execAlu_kept {a0 a1} : ∃ t, execAlu a0 a1 = .next t ∧ Kept a1 t := by
  unfold execAlu
  repeat' first
    | with_reducible assumption
    | with_reducible refine State.advance_kept ?_
    | with_reducible refine State.exception_kept ?_
    | with_reducible refine State.putG_kept ?_
    | with_reducible refine conduct_kept ?_
    | split
    | intro _

theorem execAddi_kept {a0 a1} : ∃ t, execAddi a0 a1 = .next t ∧ Kept a1 t := by
  unfold execAddi
  repeat' first
    | with_reducible exact conductReg_kept

theorem execOri_kept {a0 a1} : ∃ t, execOri a0 a1 = .next t ∧ Kept a1 t := by
  unfold execOri
  repeat' first
    | with_reducible exact conductReg_kept

theorem execXori_kept {a0 a1} : ∃ t, execXori a0 a1 = .next t ∧ Kept a1 t := by
  unfold execXori
  repeat' first
    | with_reducible exact conductReg_kept

theorem execSlti_kept {a0 a1} : ∃ t, execSlti a0 a1 = .next t ∧ Kept a1 t := by
  unfold execSlti
  repeat' first
    | with_reducible exact conductReg_kept

theorem execMovk_kept {a0 a1} : ∃ t, execMovk a0 a1 = .next t ∧ Kept a1 t := by
  unfold execMovk
  repeat' first
    | with_reducible assumption
    | with_reducible refine State.advance_kept ?_
    | with_reducible refine State.exception_kept ?_
    | with_reducible refine State.putG_kept ?_
    | with_reducible refine conduct_kept ?_
    | split
    | intro _

theorem State.startLoad_kept {z : State} {a0 a1} (h : Kept z a0) : Kept z (State.startLoad a0 a1) := by
  unfold State.startLoad
  repeat' first
    | with_reducible assumption
    | with_reducible refine State.startTrans_kept ?_
    | split

theorem execLd_kept {a0 a1} : ∃ t, execLd a0 a1 = .next t ∧ Kept a1 t := by
  unfold execLd
  try dsimp only
  repeat' first
    | with_reducible assumption
    | with_reducible refine State.await_kept ?_
    | with_reducible refine State.exception_kept ?_
    | with_reducible refine State.startLoad_kept ?_
    | with_reducible refine conduct_kept ?_
    | split
    | intro _

theorem execLdDataReturn_kept {a0} : ∃ t, execLdDataReturn a0 = .next t ∧ Kept a0 t := by
  unfold execLdDataReturn
  repeat' first
    | with_reducible exact Kept.refl _
    | with_reducible refine State.advance_kept ?_
    | with_reducible refine State.noteRead_kept ?_
    | with_reducible refine State.putG_kept ?_
    | with_reducible refine kept_whenB ?_
    | with_reducible refine kept_next ?_
    | split

theorem execSt_kept {a0 a1} : ∃ t, execSt a0 a1 = .next t ∧ Kept a1 t := by
  unfold execSt
  try dsimp only
  repeat' first
    | with_reducible assumption
    | with_reducible refine State.advance_kept ?_
    | with_reducible refine State.exception_kept ?_
    | with_reducible refine State.fetch_kept ?_
    | with_reducible refine State.forget_kept ?_
    | with_reducible refine State.unsettled_kept ?_
    | (refine State.writeU_kept ?_ _ (by assumption))
    | with_reducible refine conduct_kept ?_
    | split
    | intro _

theorem execRdsp_kept {a0 a1} : ∃ t, execRdsp a0 a1 = .next t ∧ Kept a1 t := by
  unfold execRdsp
  repeat' first
    | with_reducible assumption
    | with_reducible refine State.advance_kept ?_
    | with_reducible refine State.exception_kept ?_
    | with_reducible refine State.putG_kept ?_
    | with_reducible refine conduct_kept ?_
    | split
    | intro _

theorem execSmclr_kept {a0 a1} : ∃ t, execSmclr a0 a1 = .next t ∧ Kept a1 t := by
  unfold execSmclr
  repeat' first
    | with_reducible assumption
    | with_reducible refine State.advance_kept ?_
    | with_reducible refine State.clearSm_kept ?_
    | with_reducible refine State.exception_kept ?_
    | with_reducible refine State.onceValid_kept ?_ ?_
    | with_reducible refine conduct_kept ?_
    | split
    | intro _

theorem execBrf_kept {a0 a1} : ∃ t, execBrf a0 a1 = .next t ∧ Kept a1 t := by
  unfold execBrf
  repeat' first
    | with_reducible assumption
    | with_reducible refine State.advance_kept ?_
    | with_reducible refine State.branchTo_kept ?_
    | with_reducible refine State.exception_kept ?_
    | with_reducible refine conduct_kept ?_
    | split
    | intro _

theorem execWaitbExpire_kept {a0} : ∃ t, execWaitbExpire a0 = .next t ∧ Kept a0 t := by
  unfold execWaitbExpire
  repeat' first
    | with_reducible exact Kept.refl _
    | with_reducible refine State.advance_kept ?_
    | with_reducible refine kept_whenB ?_
    | with_reducible refine kept_next ?_
    | split

theorem execWaita_kept {a0 a1} : ∃ t, execWaita a0 a1 = .next t ∧ Kept a1 t := by
  unfold execWaita
  try dsimp only
  repeat' first
    | with_reducible assumption
    | with_reducible refine State.await_kept ?_
    | with_reducible refine State.metLate_kept ?_
    | with_reducible refine conduct_kept ?_
    | split
    | intro _

theorem execWaitq_kept {a0 a1} : ∃ t, execWaitq a0 a1 = .next t ∧ Kept a1 t := by
  unfold execWaitq
  try dsimp only
  repeat' first
    | with_reducible assumption
    | with_reducible refine State.advance_kept ?_
    | with_reducible refine State.await_kept ?_
    | with_reducible refine State.exception_kept ?_
    | with_reducible refine conduct_kept ?_
    | split
    | intro _

theorem execWaitqMet_kept {a0} : ∃ t, execWaitqMet a0 = .next t ∧ Kept a0 t := by
  unfold execWaitqMet
  repeat' first
    | with_reducible exact Kept.refl _
    | with_reducible refine State.advance_kept ?_
    | with_reducible refine kept_whenB ?_
    | with_reducible refine kept_next ?_
    | split

theorem State.enqueueEntry_kept {z : State} {a0 a1 a2 a3} (h : Kept z a0) :
    Kept z (State.enqueueEntry a0 a1 a2 a3) := by
  unfold State.enqueueEntry
  repeat' first
    | with_reducible assumption
    | with_reducible refine State.enqueueOne_kept ?_
    | with_reducible refine State.exception_kept ?_
    | split

theorem execAwi_kept {a0 a1} : ∃ t, execAwi a0 a1 = .next t ∧ Kept a1 t := by
  unfold execAwi
  repeat' first
    | with_reducible assumption
    | with_reducible refine State.enqueueEntry_kept ?_
    | with_reducible refine State.exception_kept ?_
    | with_reducible refine conduct_kept ?_
    | split
    | intro _

theorem execAwip_kept {a0 a1} : ∃ t, execAwip a0 a1 = .next t ∧ Kept a1 t := by
  unfold execAwip
  repeat' first
    | with_reducible assumption
    | with_reducible refine State.enqueueEntry_kept ?_
    | with_reducible refine conduct_kept ?_
    | intro _

theorem execAwn_kept {a0 a1} : ∃ t, execAwn a0 a1 = .next t ∧ Kept a1 t := by
  unfold execAwn
  repeat' first
    | with_reducible assumption
    | with_reducible refine State.enqueueRun_kept ?_
    | with_reducible refine State.exception_kept ?_
    | with_reducible refine conduct_kept ?_
    | split
    | intro _

theorem execAwr_kept {a0 a1} : ∃ t, execAwr a0 a1 = .next t ∧ Kept a1 t := by
  unfold execAwr
  repeat' first
    | with_reducible assumption
    | with_reducible refine State.enqueueOne_kept ?_
    | with_reducible refine State.exception_kept ?_
    | with_reducible refine conduct_kept ?_
    | split
    | intro _

theorem State.transfer_kept {z : State} {a0 a1 a2} (h : Kept z a0) : Kept z (State.transfer a0 a1 a2) := by
  unfold State.transfer
  repeat' first
    | with_reducible assumption
    | with_reducible refine State.closeRecord_kept ?_
    | with_reducible refine State.countOverrun_kept ?_
    | with_reducible refine State.cutPass_kept ?_
    | with_reducible refine State.enterMould_kept ?_
    | with_reducible refine State.exception_kept ?_
    | with_reducible refine State.leaveMould_kept ?_
    | with_reducible refine State.raise_kept ?_
    | split

theorem execMjmp_kept {a0 a1} : ∃ t, execMjmp a0 a1 = .next t ∧ Kept a1 t := by
  unfold execMjmp
  repeat' first
    | with_reducible assumption
    | with_reducible refine State.exception_kept ?_
    | with_reducible refine State.transfer_kept ?_
    | with_reducible refine conduct_kept ?_
    | split
    | intro _

theorem execMbr_kept {a0 a1} : ∃ t, execMbr a0 a1 = .next t ∧ Kept a1 t := by
  unfold execMbr
  try dsimp only
  repeat' first
    | with_reducible assumption
    | with_reducible refine State.advance_kept ?_
    | with_reducible refine State.exception_kept ?_
    | with_reducible refine State.onceValid_kept ?_ ?_
    | with_reducible refine State.transfer_kept ?_
    | with_reducible refine conduct_kept ?_
    | split
    | intro _

theorem execMsel_kept {a0 a1} : ∃ t, execMsel a0 a1 = .next t ∧ Kept a1 t := by
  unfold execMsel
  repeat' first
    | with_reducible assumption
    | with_reducible refine State.exception_kept ?_
    | with_reducible refine State.transfer_kept ?_
    | with_reducible refine conduct_kept ?_
    | split
    | intro _

theorem execMend_kept {a0 a1} : ∃ t, execMend a0 a1 = .next t ∧ Kept a1 t := by
  unfold execMend
  repeat' first
    | with_reducible assumption
    | with_reducible refine State.advance_kept ?_
    | with_reducible refine State.beginEnd_kept ?_
    | with_reducible refine State.exception_kept ?_
    | with_reducible refine State.raise_kept ?_
    | with_reducible refine conduct_kept ?_
    | split
    | intro _

/-! ## Machine/Sync.lean -/

theorem execPart_kept {a0 a1} : ∃ t, execPart a0 a1 = .next t ∧ Kept a1 t := by
  unfold execPart
  repeat' first
    | with_reducible assumption
    | with_reducible refine State.switchBegin_kept ?_
    | with_reducible refine arrayCmd_kept ?_ ?_
    | simp only [kept_same]
    | intro _

theorem State.reachSbar_kept {z : State} {a0 a1 a2 a3} (h : Kept z a0) : Kept z (State.reachSbar a0 a1 a2 a3) := by
  have t := State.taken_kept (a1 := a1) (a2 := a3) (Kept.refl a0)
  unfold State.reachSbar
  refine ⟨h.1, fun i => ?_⟩
  have j := h.2 i
  have q := t.2 j
  exact ⟨j.mem, j.headers, j.loops, q.queueF, q.queueB, q.queueH, j.answers, j.fence⟩

theorem State.release_kept {z : State} {a0 a1} (h : Kept z a0) : Kept z (State.release a0 a1) := by
  unfold State.release
  repeat' first
    | with_reducible assumption
    | with_reducible refine State.completeWord_kept ?_
    | split

theorem execWaitabs_kept {a0 a1} : ∃ t, execWaitabs a0 a1 = .next t ∧ Kept a1 t := by
  unfold execWaitabs
  try dsimp only
  repeat' first
    | with_reducible exact Kept.refl _
    | with_reducible assumption
    | with_reducible refine State.raiseIf_kept ?_
    | with_reducible refine arrayCmd_kept ?_ ?_
    | with_reducible refine kept_next ?_
    | split
    | intro _

theorem State.stickSwitch_kept {z : State} {a0 a1} (h : Kept z a0) : Kept z (State.stickSwitch a0 a1) := by
  unfold State.stickSwitch
  repeat' first
    | with_reducible assumption
    | with_reducible refine State.raise_kept ?_
    | simp only [kept_same]

theorem State.trySbar_kept {z : State} {a0 a1 a2} (h : Kept z a2) : Kept z (State.trySbar a0 a1 a2) := by
  unfold State.trySbar
  try dsimp only
  repeat' first
    | with_reducible assumption
    | with_reducible refine State.reachSbar_kept ?_
    | split

theorem execSbar_kept {a0 a1} : ∃ t, execSbar a0 a1 = .next t ∧ Kept a1 t := by
  unfold execSbar
  repeat' first
    | with_reducible exact Kept.refl _
    | with_reducible refine State.trySbar_kept ?_
    | with_reducible refine kept_next ?_
    | split

theorem execSbarRelease_kept {a0 a1} : ∃ t, execSbarRelease a0 a1 = .next t ∧ Kept a1 t := by
  unfold execSbarRelease
  repeat' first
    | with_reducible exact Kept.refl _
    | with_reducible refine State.release_kept ?_
    | with_reducible refine kept_whenB ?_
    | with_reducible refine kept_next ?_
    | simp only [kept_same]
    | split

theorem State.applySwitch_kept {z : State} {a0 a1} (h : Kept z a0) : Kept z (State.applySwitch a0 a1) := by
  unfold State.applySwitch
  repeat' first
    | with_reducible assumption
    | with_reducible refine State.putFn_kept ?_
    | simp only [kept_same]

theorem execPartApplyCheck_kept {a0} : ∃ t, execPartApplyCheck a0 = .next t ∧ Kept a0 t := by
  unfold execPartApplyCheck
  repeat' first
    | with_reducible exact Kept.refl _
    | with_reducible refine State.applySwitch_kept ?_
    | with_reducible refine State.drawn_kept ?_
    | with_reducible refine State.stickSwitch_kept ?_
    | with_reducible refine kept_whenB ?_
    | with_reducible refine kept_next ?_
    | split

theorem execNop_kept {a0 a1} : ∃ t, execNop a0 a1 = .next t ∧ Kept a1 t := by
  unfold execNop
  repeat' first
    | with_reducible assumption
    | with_reducible refine arrayCmd_kept ?_ ?_
    | intro _

/-! ## Machine/Cast.lean -/

theorem State.stageCast_kept {z : State} {a0 a1} (h : Kept z a0) : Kept z (State.stageCast a0 a1) := by
  unfold State.stageCast
  repeat' first
    | with_reducible assumption
    | simp only [kept_same]

theorem State.putCastBase_kept {z : State} {a0 a1} (h : Kept z a0) : Kept z (State.putCastBase a0 a1) := by
  unfold State.putCastBase
  repeat' first
    | with_reducible assumption
    | with_reducible refine State.raise_kept ?_
    | simp only [kept_same]
    | split

theorem State.putRunBeat_kept {z : State} {a0 a1} (h : Kept z a0) : Kept z (State.putRunBeat a0 a1) := by
  unfold State.putRunBeat
  repeat' first
    | with_reducible assumption
    | with_reducible refine State.raise_kept ?_
    | simp only [kept_same]
    | split

theorem State.noteImage_kept {z : State} {a0 a1 a2} (h : Kept z a0) : Kept z (State.noteImage a0 a1 a2) := by
  unfold State.noteImage
  repeat' first
    | with_reducible assumption
    | with_reducible refine State.noteMem_kept ?_
    | split

theorem State.noteSegs_kept {z : State} {a0 a1} (h : Kept z a0) : Kept z (State.noteSegs a0 a1) := by
  unfold State.noteSegs
  repeat' first
    | with_reducible assumption
    | with_reducible refine State.noteImage_kept ?_
    | with_reducible refine kept_foldl _ (fun _ _ _ => ?_) _ ?_

theorem State.refuseCast_kept {z : State} {a0 a1} (h : Kept z a0) : Kept z (State.refuseCast a0 a1) := by
  unfold State.refuseCast
  repeat' first
    | with_reducible assumption
    | with_reducible refine State.raise_kept ?_
    | simp only [kept_same]

theorem execCastAdmission_kept {a0} : ∃ t, execCastAdmission a0 = .next t ∧ Kept a0 t := by
  unfold execCastAdmission
  repeat' first
    | with_reducible exact Kept.refl _
    | with_reducible refine State.noteImage_kept ?_
    | with_reducible refine State.noteSegs_kept ?_
    | with_reducible refine State.refuseCast_kept ?_
    | with_reducible refine State.stageCast_kept ?_
    | with_reducible refine kept_whenB ?_
    | split

theorem execCastStart_kept {a0} : ∃ t, execCastStart a0 = .next t ∧ Kept a0 t := by
  unfold execCastStart
  repeat' first
    | with_reducible exact Kept.refl _
    | with_reducible refine State.autoGo_kept ?_
    | with_reducible refine State.loadCast_kept ?_
    | with_reducible refine State.notePeaks_kept ?_
    | with_reducible refine State.openRecord_kept ?_
    | with_reducible refine State.putFn_kept ?_
    | with_reducible refine kept_whenB ?_
    | with_reducible refine kept_next ?_
    | split

/-! ## Machine/Operands.lean -/

theorem State.noteMasks_kept {z : State} {a0 a1 a2} (h : Kept z a0) : Kept z (State.noteMasks a0 a1 a2) := by
  unfold State.noteMasks
  repeat' first
    | with_reducible assumption
    | with_reducible refine State.noteRead_kept ?_
    | with_reducible refine kept_foldl _ (fun _ _ _ => ?_) _ ?_

theorem State.idleCores_kept {z : State} {a0 a1 a2} (h : Kept z a0) : Kept z (State.idleCores a0 a1 a2) := by
  unfold State.idleCores
  repeat' first
    | with_reducible assumption
    | simp only [kept_same]

theorem State.foilCheck_kept {z : State} {a0 a1 a2 a3 a4 a5} (h : Kept z a0) :
    Kept z (State.foilCheck a0 a1 a2 a3 a4 a5) := by
  have f : ∀ (s : State) (q : Fol), Kept z s → Kept z { s with fol := q } := fun s q k => kept_of k
  unfold State.foilCheck
  refine kept_ite (f _ _ h) (State.phaseStop_kept (State.raise_kept ?_))
  exact kept_ite (State.putFault_kept (f _ _ (f _ _ h))) (f _ _ (f _ _ h))

theorem State.readSlot_kept {z : State} {a0 a1 a2 a3 a4} (h : Kept z a0) :
    Kept z (State.readSlot a0 a1 a2 a3 a4).2 := by
  unfold State.readSlot
  repeat' first
    | with_reducible assumption
    | with_reducible refine State.foilCheck_kept ?_
    | with_reducible refine State.noteRead_kept ?_
    | split

theorem State.noteConv_kept {z : State} {a0 a1 a2} (h : Kept z a0) : Kept z (State.noteConv a0 a1 a2) := by
  unfold State.noteConv
  repeat' first
    | with_reducible assumption
    | with_reducible refine State.raiseIf_kept ?_
    | simp only [kept_same]
    | split

theorem State.slagTiles_kept {z : State} {a0 a1} (h : Kept z a0) : Kept z (State.slagTiles a0 a1) := by
  unfold State.slagTiles
  repeat' first
    | with_reducible assumption
    | simp only [kept_same]

theorem State.writeSome_kept {z : State} {a0 a1 a2 a3 a4 a5 a6} (h : Kept z a0) :
    Kept z (State.writeSome a0 a1 a2 a3 a4 a5 a6) := by
  unfold State.writeSome
  repeat' first
    | with_reducible assumption
    | (refine State.writeU_kept ?_ _ (by assumption))
    | simp only [kept_same]
    | split

theorem State.readTile_kept {z : State} {a0 a1 a2 a3 a4} (h : Kept z a0) :
    Kept z (State.readTile a0 a1 a2 a3 a4).2 := by
  unfold State.readTile
  repeat' first
    | with_reducible assumption
    | with_reducible refine State.readSlot_kept ?_

theorem State.writeSlot_kept {z : State} {a0 a1 a2 a3 a4 a5} (h : Kept z a0) :
    Kept z (State.writeSlot a0 a1 a2 a3 a4 a5) := by
  unfold State.writeSlot
  repeat' first
    | with_reducible assumption
    | with_reducible refine State.writeSome_kept ?_

theorem State.slotImage_kept {z : State} {a0 a1 a2 a3 a4} (h : Kept z a0) :
    Kept z (State.slotImage a0 a1 a2 a3 a4).2 := by
  unfold State.slotImage
  repeat' first
    | with_reducible assumption
    | with_reducible refine State.noteConv_kept ?_

theorem State.writeTile_kept {z : State} {a0 a1 a2 a3 a4 a5 a6} (h : Kept z a0) :
    Kept z (State.writeTile a0 a1 a2 a3 a4 a5 a6) := by
  unfold State.writeTile
  repeat' first
    | with_reducible assumption
    | with_reducible refine State.slotImage_kept ?_
    | with_reducible refine State.writeSlot_kept ?_

/-! ## Machine/Tiers.lean -/

theorem State.startRelease_kept {z : State} {a0} (h : Kept z a0) : Kept z (State.startRelease a0) := by
  unfold State.startRelease
  repeat' first
    | with_reducible assumption
    | with_reducible refine State.startTrans_kept ?_
    | simp only [kept_same]
    | with_reducible refine kept_foldl _ (fun _ _ _ => ?_) _ ?_
    | split

theorem State.noteSource_kept {z : State} {a0 a1} (h : Kept z a0) : Kept z (State.noteSource a0 a1) := by
  unfold State.noteSource
  repeat' first
    | with_reducible assumption
    | with_reducible refine State.noteMem_kept ?_

theorem State.writePage_kept {z : State} {a0 a1 a2 a3} (h : Kept z a0) : Kept z (State.writePage a0 a1 a2 a3) := by
  unfold State.writePage
  try dsimp only
  repeat' first
    | with_reducible assumption
    | with_reducible refine State.refuseWindow_kept ?_
    | with_reducible refine State.startTrans_kept ?_
    | with_reducible refine State.storeBytes_kept ?_
    | split

theorem State.landPage_kept {z : State} {a0 a1} (h : Kept z a0) : Kept z (State.landPage a0 a1) := by
  unfold State.landPage
  repeat' first
    | with_reducible assumption
    | with_reducible refine State.noteMem_kept ?_
    | with_reducible refine State.notePeaks_kept ?_
    | with_reducible refine State.putLive_kept ?_
    | with_reducible refine State.writePage_kept ?_
    | simp only [kept_same]
    | split

theorem State.movesDone_kept {z : State} {a0 a1} (h : Kept z a0) : Kept z (State.movesDone a0 a1) := by
  unfold State.movesDone
  repeat' first
    | with_reducible assumption
    | with_reducible refine State.onIssued_kept ?_
    | split

theorem execPageMoveComplete_kept {a0 a1} : ∃ t, execPageMoveComplete a0 a1 = .next t ∧ Kept a1 t := by
  unfold execPageMoveComplete
  repeat' first
    | with_reducible exact Kept.refl _
    | with_reducible refine State.landPage_kept ?_
    | with_reducible refine State.movesDone_kept ?_
    | with_reducible refine State.noteSource_kept ?_
    | with_reducible refine State.tmvRest_kept ?_
    | with_reducible refine kept_whenB ?_
    | with_reducible refine kept_next ?_
    | simp only [kept_same]
    | split

theorem State.putAdmit_kept {z : State} {a0 a1 a2} (h : Kept z a0) : Kept z (State.putAdmit a0 a1 a2) := by
  unfold State.putAdmit
  repeat' first
    | with_reducible assumption
    | simp only [kept_same]

theorem State.rejectStep_kept {z : State} {a0 a1 a2 a3 a4} (h : Kept z a0) :
    Kept z (State.rejectStep a0 a1 a2 a3 a4) := by
  unfold State.rejectStep
  repeat' first
    | with_reducible assumption
    | with_reducible refine State.formSummary_kept ?_
    | with_reducible refine State.putAdmit_kept ?_
    | with_reducible refine State.raise_kept ?_
    | simp only [kept_same]

theorem State.beginMove_kept {z : State} {a0 a1} (h : Kept z a0) : Kept z (State.beginMove a0 a1) := by
  unfold State.beginMove
  repeat' first
    | with_reducible assumption
    | with_reducible refine State.startTrans_kept ?_
    | simp only [kept_same]
    | split

theorem State.moveBarred_kept {z : State} {a0 a1} (h : Kept z a0) : Kept z (State.moveBarred a0 a1) := by
  unfold State.moveBarred
  repeat' first
    | with_reducible assumption
    | with_reducible refine State.putFault_kept ?_
    | with_reducible refine State.raise_kept ?_
    | split

theorem placeIn_kept {z : State} {a0 a1 a2 a3 a4} (h : Kept z a4) : Kept z (placeIn a0 a1 a2 a3 a4).1 := by
  induction a0 generalizing a1 a2 a3 a4 with
  | zero => exact h
  | succ n ih =>
    unfold placeIn
    dsimp only
    split
    · exact h
    · split
      · exact h
      · split
        · exact h
        · split
          · exact h
          · rename_i v _
            have k := ih h (a1 := v.1) (a2 := eAcct v.2) (a3 := a3 + 1)
            split
            · rename_i e; rw [e] at k; exact k
            · rename_i e
              rw [e] at k
              replace k : Kept z _ := k
              have f : ∀ (s : State) (q : Tmv), Kept z s → Kept z { s with tmv := q } := fun s q k => kept_of k
              with_reducible refine kept_ite_fst (State.noteSource_kept k) (kept_ite_fst k (kept_ite_fst ?_ ?_))
              · exact f _ _ (State.landPage_kept k)
              · exact ih (f _ _ (State.landPage_kept k))

theorem State.moveFailed_kept {z : State} {a0 a1} (h : Kept z a0) : Kept z (State.moveFailed a0 a1) := by
  unfold State.moveFailed
  repeat' first
    | with_reducible assumption
    | with_reducible refine State.putFault_kept ?_
    | with_reducible refine State.raise_kept ?_
    | simp only [kept_same]
    | split

theorem State.startMove_kept {z : State} {a0 a1 a2} (h : Kept z a0) : Kept z (State.startMove a0 a1 a2) := by
  unfold State.startMove
  dsimp only
  have k := placeIn_kept h (a0 := 4 * (a0.pages.length + 1)) (a1 := a2.upage) (a2 := eAcct (a0.tmapAt a1 a2.upage)) (a3 := a2.tier)
  split
  · split
    · exact h
    · split
      · exact State.beginMove_kept h
      · exact State.moveBarred_kept h
  · split
    · rename_i e
      rw [e] at k
      split
      · exact State.beginMove_kept k
      · exact State.moveBarred_kept k
    · rename_i e
      rw [e] at k
      exact State.moveFailed_kept k

theorem State.passStep_kept {z : State} {a0 a1 a2 a3 a4} (h : Kept z a0) : Kept z (State.passStep a0 a1 a2 a3 a4) := by
  unfold State.passStep
  repeat' first
    | with_reducible assumption
    | with_reducible refine State.formSummary_kept ?_
    | with_reducible refine State.putAdmit_kept ?_
    | with_reducible refine State.raiseIf_kept ?_
    | simp only [kept_same]

theorem State.stepAdmission_kept {z : State} {a0 a1 a2 a3} (h : Kept z a0) :
    Kept z (State.stepAdmission a0 a1 a2 a3) := by
  unfold State.stepAdmission
  try dsimp only
  repeat' first
    | with_reducible assumption
    | with_reducible refine State.flaw_kept ?_
    | with_reducible refine State.formSummary_kept ?_
    | with_reducible refine State.noteRead_kept ?_
    | with_reducible refine State.passStep_kept ?_
    | with_reducible refine State.rejectStep_kept ?_
    | with_reducible refine kept_foldl _ (fun _ _ _ => ?_) _ ?_
    | split

theorem stepadmEffect_kept {z : State} {a0 a1 a2} (h : Kept z a2) : Kept z (stepadmEffect a0 a1 a2) := by
  unfold stepadmEffect
  repeat' first
    | with_reducible assumption
    | with_reducible refine State.formSummary_kept ?_
    | with_reducible refine State.refuse_kept ?_
    | with_reducible refine State.stepAdmission_kept ?_
    | split

theorem execStepadm_kept {a0 a1} : ∃ t, execStepadm a0 a1 = .next t ∧ Kept a1 t := by
  unfold execStepadm
  repeat' first
    | with_reducible assumption
    | with_reducible refine arrayCmd_kept ?_ ?_
    | with_reducible refine refuseReserved_kept ?_
    | with_reducible refine stepadmEffect_kept ?_
    | intro _

theorem State.migrate_kept {z : State} {a0 a1 a2 a3} (h : Kept z a0) : Kept z (State.migrate a0 a1 a2 a3) := by
  unfold State.migrate
  repeat' first
    | with_reducible assumption
    | with_reducible refine State.holdFor_kept ?_
    | with_reducible refine State.holdQueueH_kept ?_
    | simp only [kept_same]
    | split

theorem execMigrate_kept {a0 a1} : ∃ t, execMigrate a0 a1 = .next t ∧ Kept a1 t := by
  unfold execMigrate
  repeat' first
    | with_reducible assumption
    | with_reducible refine State.migrate_kept ?_
    | with_reducible refine State.refuse_kept ?_
    | with_reducible refine arrayCmd_kept ?_ ?_
    | with_reducible refine refuseReserved_kept ?_
    | split
    | intro _

theorem execPageMoveStart_kept {a0} : ∃ t, execPageMoveStart a0 = .next t ∧ Kept a0 t := by
  unfold execPageMoveStart
  repeat' first
    | with_reducible exact Kept.refl _
    | with_reducible refine State.movesDone_kept ?_
    | with_reducible refine State.startMove_kept ?_
    | with_reducible refine kept_whenB ?_
    | with_reducible refine kept_next ?_
    | simp only [kept_same]
    | split

theorem State.bringHome_kept {z : State} {a0 a1 a2} (h : Kept z a0) : Kept z (State.bringHome a0 a1 a2) := by
  unfold State.bringHome
  repeat' first
    | with_reducible assumption
    | with_reducible refine State.putLive_kept ?_
    | with_reducible refine State.writePage_kept ?_
    | simp only [kept_same]

theorem State.allHome_kept {z : State} {a0 a1} (h : Kept z a0) : Kept z (State.allHome a0 a1) := by
  unfold State.allHome
  repeat' first
    | with_reducible assumption
    | with_reducible refine State.bringHome_kept ?_
    | with_reducible refine State.noteMem_kept ?_
    | with_reducible refine kept_foldl _ (fun _ _ _ => ?_) _ ?_

theorem execReleaseComplete_kept {a0} : ∃ t, execReleaseComplete a0 = .next t ∧ Kept a0 t := by
  unfold execReleaseComplete
  repeat' first
    | with_reducible exact Kept.refl _
    | with_reducible refine State.allHome_kept ?_
    | with_reducible refine State.setFnState_kept ?_
    | with_reducible refine kept_whenB ?_
    | with_reducible refine kept_next ?_
    | simp only [kept_same]
    | split

end Sys2Proof.Machine
end

