-- ==== Sys2Proof/Laws/KeptLinks.lean ====
section
/-! SUPPORT. What `Kept` says of the links and the collectives:
one lemma per function of the model that answers a state, named after it. A lemma whose conclusion is `∃ t, ... = .next t` is about
the meaning of a command. -/

-- One proof after the other: side by side they want more threads than the memory of a check holds.
set_option Elab.async false

namespace Sys2Proof.Machine

/-! ## Machine/Links.lean -/

theorem State.takeFrames_kept {z : State} {a0 a1 a2 a3} (h : Kept z a0) : Kept z (State.takeFrames a0 a1 a2 a3) := by
  unfold State.takeFrames
  repeat' first
    | with_reducible assumption
    | with_reducible refine State.putPort_kept ?_

theorem State.arrive_kept {z : State} {a0 a1 a2 a3 a4 a5 a6} (h : Kept z a0) (ha6 : ∀ x0, Kept z x0 → Kept z (a6 x0)) :
    Kept z (State.arrive a0 a1 a2 a3 a4 a5 a6) := by
  unfold State.arrive
  repeat' first
    | with_reducible assumption
    | with_reducible refine State.takeFrames_kept ?_
    | with_reducible refine ha6 _ ?_
    | simp only [kept_same]
    | split

theorem State.closeSession_kept {z : State} {a0} (h : Kept z a0) : Kept z (State.closeSession a0) := by
  unfold State.closeSession
  dsimp only
  have k : Kept z (if (a0.port 7).isUp = true then a0.sendCtrl 7 none else a0) := kept_ite (State.sendCtrl_kept h) h
  generalize (if (a0.port 7).isUp = true then a0.sendCtrl 7 none else a0) = s at k ⊢
  have f : ∀ (s : State) (q : Sec), q.answers = s.sec.answers → Kept z s → Kept z { s with sec := q } :=
    fun s q e k => kept_of k (hw := fun x => by unfold State.answersWait at x ⊢; rw [e]; exact x)
  exact kept_ite h (f _ _ rfl (State.putPort_kept k))

theorem State.endTwinWord_kept {z : State} {a0 a1 a2} (h : Kept z a0) : Kept z (State.endTwinWord a0 a1 a2) := by
  unfold State.endTwinWord
  repeat' first
    | with_reducible assumption
    | with_reducible refine State.formSummary_kept ?_
    | with_reducible refine State.freeHold_kept ?_

theorem State.twinWorkLost_kept {z : State} {a0} (h : Kept z a0) : Kept z (State.twinWorkLost a0) := by
  unfold State.twinWorkLost
  repeat' first
    | with_reducible assumption
    | with_reducible refine State.endTwinWord_kept ?_
    | simp only [kept_same]
    | split

theorem State.twinWordsLost_kept {z : State} {a0} (h : Kept z a0) : Kept z (State.twinWordsLost a0) := by
  unfold State.twinWordsLost
  repeat' first
    | with_reducible assumption
    | with_reducible refine State.endTwinWord_kept ?_
    | with_reducible refine State.twinWorkLost_kept ?_
    | simp only [kept_same]
    | with_reducible refine kept_foldl _ (fun _ _ _ => ?_) _ ?_
    | split

theorem State.closeTwinAps_kept {z : State} {a0} (h : Kept z a0) : Kept z (State.closeTwinAps a0) := by
  unfold State.closeTwinAps
  repeat' first
    | with_reducible assumption
    | simp only [kept_same]

theorem State.loseTwin_kept {z : State} {a0} (h : Kept z a0) : Kept z (State.loseTwin a0) := by
  unfold State.loseTwin
  repeat' first
    | with_reducible assumption
    | with_reducible refine State.closeTwinAps_kept ?_
    | with_reducible refine State.raise_kept ?_
    | with_reducible refine State.twinWordsLost_kept ?_
    | simp only [kept_same]
    | split

theorem State.portGone_kept {z : State} {a0 a1} (h : Kept z a0) : Kept z (State.portGone a0 a1) := by
  unfold State.portGone
  repeat' first
    | with_reducible assumption
    | with_reducible refine State.closeSession_kept ?_
    | with_reducible refine State.loseTwin_kept ?_
    | split

theorem State.portDown_kept {z : State} {a0 a1} (h : Kept z a0) : Kept z (State.portDown a0 a1) := by
  unfold State.portDown
  repeat' first
    | with_reducible assumption
    | with_reducible refine State.portGone_kept ?_
    | with_reducible refine State.putPort_kept ?_
    | with_reducible refine State.raise_kept ?_

theorem State.portUp_kept {z : State} {a0 a1 a2} (h : Kept z a0) : Kept z (State.portUp a0 a1 a2) := by
  unfold State.portUp
  repeat' first
    | with_reducible assumption
    | with_reducible refine State.drain_kept ?_
    | with_reducible refine State.putPort_kept ?_
    | with_reducible refine State.raiseIf_kept ?_

theorem State.addDrop_kept {z : State} {a0 a1 a2} (h : Kept z a0) : Kept z (State.addDrop a0 a1 a2) := by
  unfold State.addDrop
  repeat' first
    | with_reducible assumption
    | simp only [kept_same]

theorem State.neighbourChange_kept {z : State} {a0 a1 a2 a3} (h : Kept z a0) :
    Kept z (State.neighbourChange a0 a1 a2 a3) := by
  unfold State.neighbourChange
  repeat' first
    | with_reducible assumption
    | with_reducible refine State.addDrop_kept ?_
    | with_reducible refine State.loseTwin_kept ?_
    | with_reducible refine State.putPort_kept ?_
    | with_reducible refine State.raise_kept ?_
    | simp only [kept_same]
    | split

theorem State.meetNeighbour_kept {z : State} {a0 a1 a2 a3} (h : Kept z a0) :
    Kept z (State.meetNeighbour a0 a1 a2 a3) := by
  unfold State.meetNeighbour
  try dsimp only
  repeat' first
    | with_reducible assumption
    | with_reducible refine State.neighbourChange_kept ?_
    | with_reducible refine State.putPort_kept ?_
    | split

theorem State.joinPort_kept {z : State} {a0 a1 a2 a3 a4 a5 a6} (h : Kept z a0) :
    Kept z (State.joinPort a0 a1 a2 a3 a4 a5 a6) := by
  unfold State.joinPort
  repeat' first
    | with_reducible assumption
    | with_reducible refine State.meetNeighbour_kept ?_
    | with_reducible refine State.putPort_kept ?_

theorem State.takeIn_kept {z : State} {a0} (h : Kept z a0) : Kept z (State.takeIn a0) := by
  unfold State.takeIn
  repeat' first
    | with_reducible assumption
    | with_reducible refine State.putPort_kept ?_
    | with_reducible refine State.raise_kept ?_
    | simp only [kept_same]
    | with_reducible refine kept_foldl _ (fun _ _ _ => ?_) _ ?_
    | split

theorem State.releaseRing_kept {z : State} {a0} (h : Kept z a0) : Kept z (State.releaseRing a0) := by
  unfold State.releaseRing
  repeat' first
    | with_reducible assumption
    | with_reducible refine State.putPort_kept ?_
    | simp only [kept_same]
    | with_reducible refine kept_foldl _ (fun _ _ _ => ?_) _ ?_
    | split

theorem State.retrain_kept {z : State} {a0 a1} (h : Kept z a0) : Kept z (State.retrain a0 a1) := by
  unfold State.retrain
  repeat' first
    | with_reducible assumption
    | with_reducible refine State.putPort_kept ?_

theorem State.retrainPorts_kept {z : State} {a0 a1} (h : Kept z a0) : Kept z (State.retrainPorts a0 a1) := by
  unfold State.retrainPorts
  repeat' first
    | with_reducible assumption
    | with_reducible refine State.retrain_kept ?_
    | with_reducible refine kept_foldl _ (fun _ _ _ => ?_) _ ?_
    | split

theorem State.linesCame_kept {z : State} {a0 a1 a2 a3} (h : Kept z a0) : Kept z (State.linesCame a0 a1 a2 a3) := by
  unfold State.linesCame
  repeat' first
    | with_reducible assumption
    | simp only [kept_same]

theorem State.discardFrame_kept {z : State} {a0 a1 a2} (h : Kept z a0) : Kept z (State.discardFrame a0 a1 a2) := by
  unfold State.discardFrame
  try dsimp only
  repeat' first
    | with_reducible assumption
    | with_reducible refine State.emit_kept ?_
    | with_reducible refine State.putPort_kept ?_
    | with_reducible refine State.retrain_kept ?_
    | split

theorem State.gtagFail_kept {z : State} {a0 a1} (h : Kept z a0) : Kept z (State.gtagFail a0 a1) := by
  unfold State.gtagFail
  repeat' first
    | with_reducible assumption
    | with_reducible refine State.discardFrame_kept ?_
    | with_reducible refine State.putPort_kept ?_
    | with_reducible refine State.raise_kept ?_
    | simp only [kept_same]

theorem State.loseRing_kept {z : State} {a0} (h : Kept z a0) : Kept z (State.loseRing a0) := by
  unfold State.loseRing
  repeat' first
    | with_reducible assumption
    | with_reducible refine State.raise_kept ?_
    | with_reducible refine State.releaseRing_kept ?_
    | split

theorem execPortLinkLoss_kept {a0 a1} : ∃ t, execPortLinkLoss a0 a1 = .next t ∧ Kept a1 t := by
  unfold execPortLinkLoss
  repeat' first
    | with_reducible exact Kept.refl _
    | with_reducible refine State.portGone_kept ?_
    | with_reducible refine State.retrain_kept ?_
    | with_reducible refine kept_whenB ?_

theorem State.answer_kept {z : State} {a0 a1 a2 a3 a4 a5 a6} (h : Kept z a0) :
    Kept z (State.answer a0 a1 a2 a3 a4 a5 a6) := by
  unfold State.answer
  repeat' first
    | with_reducible assumption
    | with_reducible refine State.sendPort_kept ?_
    | with_reducible refine State.sendTo_kept ?_
    | split

theorem State.answerData_kept {z : State} {a0 a1 a2 a3 a4 a5} (h : Kept z a0) :
    Kept z (State.answerData a0 a1 a2 a3 a4 a5) := by
  induction a3 generalizing a0 a4 a5 with
  | zero => exact h
  | succ n ih => exact ih (State.answer_kept h)

theorem State.dropTrans_kept {z : State} {a0 a1} (h : Kept z a0) : Kept z (State.dropTrans a0 a1) := by
  unfold State.dropTrans
  repeat' first
    | with_reducible assumption
    | with_reducible refine State.pump_kept ?_
    | simp only [kept_same]

theorem State.forward_kept {z : State} {a0 a1 a2 a3 a4} (h : Kept z a0) : Kept z (State.forward a0 a1 a2 a3 a4) := by
  unfold State.forward
  try dsimp only
  repeat' first
    | with_reducible assumption
    | with_reducible refine State.addDrop_kept ?_
    | with_reducible refine State.dropRoute_kept ?_
    | with_reducible refine State.raise_kept ?_
    | with_reducible refine State.sendPort_kept ?_
    | split

theorem State.receiveFrame_kept {z : State} {a0 a1 a2 a3 a4 a5 a6 a7} (h : Kept z a0) (ha7 : ∀ x0, Kept z x0 → Kept z (a7 x0)) :
    Kept z (State.receiveFrame a0 a1 a2 a3 a4 a5 a6 a7) := by
  unfold State.receiveFrame
  repeat' first
    | with_reducible assumption
    | with_reducible refine State.arrive_kept ?_ ?_
    | with_reducible refine State.discardFrame_kept ?_
    | with_reducible refine State.forward_kept ?_
    | with_reducible refine ha7 _ ?_
    | split
    | intro _

theorem execTransactionStall_kept {a0 a1} : ∃ t, execTransactionStall a0 a1 = .next t ∧ Kept a1 t := by
  unfold execTransactionStall
  repeat' first
    | with_reducible exact Kept.refl _
    | with_reducible refine State.raise_kept ?_
    | with_reducible refine kept_whenB ?_
    | with_reducible refine kept_next ?_
    | simp only [kept_same]
    | split

theorem State.storeRemote_kept {z : State} {a0 a1 a2} (h : Kept z a0) : Kept z (State.storeRemote a0 a1 a2) := by
  unfold State.storeRemote
  repeat' first
    | with_reducible assumption
    | with_reducible refine State.storeBytes_kept ?_
    | with_reducible refine State.touchPlaces_kept ?_

theorem State.lateResponse_kept {z : State} {a0 a1 a2} (h : Kept z a0) : Kept z (State.lateResponse a0 a1 a2) := by
  unfold State.lateResponse
  repeat' first
    | with_reducible assumption
    | with_reducible refine State.addDrop_kept ?_
    | simp only [kept_same]
    | split

theorem State.transferDone_kept {z : State} {a0 a1} (h : Kept z a0) : Kept z (State.transferDone a0 a1) := by
  unfold State.transferDone
  repeat' first
    | with_reducible assumption
    | simp only [kept_same]

theorem State.pullRow_kept {z : State} {a0 a1 a2 a3} (h : Kept z a0) : Kept z (State.pullRow a0 a1 a2 a3) := by
  unfold State.pullRow
  try dsimp only
  repeat' first
    | with_reducible assumption
    | with_reducible refine State.putRun_kept ?_
    | with_reducible refine State.refuseWindow_kept ?_
    | split

theorem State.completeTrans_kept {z : State} {a0 a1} (h : Kept z a0) : Kept z (State.completeTrans a0 a1) := by
  unfold State.completeTrans
  try dsimp only
  repeat' first
    | with_reducible assumption
    | with_reducible refine State.dropTrans_kept ?_
    | with_reducible refine State.hostErrMet_kept ?_
    | with_reducible refine State.lateAnswer_kept ?_
    | with_reducible refine State.linesCame_kept ?_
    | with_reducible refine State.pullRow_kept ?_
    | with_reducible refine State.transferDone_kept ?_
    | split

theorem execRdata_kept {a0 a1 a2 a3} : ∃ t, execRdata a0 a1 a2 a3 = .next t ∧ Kept a3 t := by
  unfold execRdata
  repeat' first
    | with_reducible exact Kept.refl _
    | with_reducible assumption
    | with_reducible refine State.completeTrans_kept ?_
    | with_reducible refine State.lateResponse_kept ?_
    | with_reducible refine State.putRun_kept ?_
    | with_reducible refine State.receiveFrame_kept ?_ ?_
    | with_reducible refine kept_next ?_
    | simp only [kept_same]
    | split
    | intro _

theorem execWdata_kept {a0 a1 a2 a3} : ∃ t, execWdata a0 a1 a2 a3 = .next t ∧ Kept a3 t := by
  unfold execWdata
  repeat' first
    | with_reducible exact Kept.refl _
    | with_reducible assumption
    | with_reducible refine State.answer_kept ?_
    | with_reducible refine State.receiveFrame_kept ?_ ?_
    | with_reducible refine State.storeRemote_kept ?_
    | with_reducible refine kept_next ?_
    | simp only [kept_same]
    | split
    | intro _

theorem State.replayPort_kept {z : State} {a0 a1 a2} (h : Kept z a0) : Kept z (State.replayPort a0 a1 a2) := by
  unfold State.replayPort
  repeat' first
    | with_reducible assumption
    | with_reducible refine State.emit_kept ?_
    | with_reducible refine State.putPort_kept ?_
    | simp only [kept_same]
    | with_reducible refine kept_foldl _ (fun _ _ _ => ?_) _ ?_

theorem State.tagGood_kept {z : State} {a0 a1} (h : Kept z a0) : Kept z (State.tagGood a0 a1) := by
  unfold State.tagGood
  repeat' first
    | with_reducible assumption
    | simp only [kept_same]

theorem execCtrlFrame_kept {a0 a1 a2} : ∃ t, execCtrlFrame a0 a1 a2 = .next t ∧ Kept a2 t := by
  unfold execCtrlFrame
  repeat' first
    | with_reducible exact Kept.refl _
    | with_reducible refine State.checkStamp_kept ?_
    | with_reducible refine State.drain_kept ?_
    | with_reducible refine State.gtagFail_kept ?_
    | with_reducible refine State.meetNeighbour_kept ?_
    | with_reducible refine State.putPort_kept ?_
    | with_reducible refine State.replayPort_kept ?_
    | with_reducible refine State.tagGood_kept ?_
    | with_reducible refine kept_whenB ?_
    | split

theorem execFrameCrcFail_kept {a0 a1 a2} : ∃ t, execFrameCrcFail a0 a1 a2 = .next t ∧ Kept a2 t := by
  unfold execFrameCrcFail
  repeat' first
    | with_reducible exact Kept.refl _
    | with_reducible refine State.discardFrame_kept ?_
    | with_reducible refine kept_whenB ?_

theorem execPortRetrainTimeout_kept {a0 a1} : ∃ t, execPortRetrainTimeout a0 a1 = .next t ∧ Kept a1 t := by
  unfold execPortRetrainTimeout
  repeat' first
    | with_reducible exact Kept.refl _
    | with_reducible refine State.portDown_kept ?_
    | with_reducible refine kept_whenB ?_

theorem State.refuseRemote_kept {z : State} {a0 a1 a2} (h : Kept z a0) : Kept z (State.refuseRemote a0 a1 a2) := by
  unfold State.refuseRemote
  repeat' first
    | with_reducible assumption
    | with_reducible refine State.answer_kept ?_
    | with_reducible refine State.raise_kept ?_
    | simp only [kept_same]

theorem execRreq_kept {a0 a1 a2 a3 a4} : ∃ t, execRreq a0 a1 a2 a3 a4 = .next t ∧ Kept a4 t := by
  unfold execRreq
  repeat' first
    | with_reducible exact Kept.refl _
    | with_reducible assumption
    | with_reducible refine State.answerData_kept ?_
    | with_reducible refine State.noteMem_kept ?_
    | with_reducible refine State.receiveFrame_kept ?_ ?_
    | with_reducible refine State.refuseRemote_kept ?_
    | with_reducible refine State.touchPlaces_kept ?_
    | with_reducible refine kept_next ?_
    | split
    | intro _

theorem execWreq_kept {a0 a1 a2 a3 a4} : ∃ t, execWreq a0 a1 a2 a3 a4 = .next t ∧ Kept a4 t := by
  unfold execWreq
  repeat' first
    | with_reducible exact Kept.refl _
    | with_reducible assumption
    | with_reducible refine State.receiveFrame_kept ?_ ?_
    | with_reducible refine State.refuseRemote_kept ?_
    | with_reducible refine State.refuseWindow_kept ?_
    | with_reducible refine kept_next ?_
    | simp only [kept_same]
    | split
    | intro _

theorem execWack_kept {a0 a1 a2} : ∃ t, execWack a0 a1 a2 = .next t ∧ Kept a2 t := by
  unfold execWack
  repeat' first
    | with_reducible exact Kept.refl _
    | with_reducible assumption
    | with_reducible refine State.completeTrans_kept ?_
    | with_reducible refine State.lateResponse_kept ?_
    | with_reducible refine State.receiveFrame_kept ?_ ?_
    | with_reducible refine kept_next ?_
    | split
    | intro _

theorem State.dropAccess_kept {z : State} {a0 a1} (h : Kept z a0) : Kept z (State.dropAccess a0 a1) := by
  unfold State.dropAccess
  repeat' first
    | with_reducible assumption
    | with_reducible refine State.pump_kept ?_
    | simp only [kept_same]

theorem State.refusedFlaw_kept {z : State} {a0 a1 a2 a3} (h : Kept z a0) : Kept z (State.refusedFlaw a0 a1 a2 a3) := by
  unfold State.refusedFlaw
  repeat' first
    | with_reducible assumption
    | with_reducible refine State.putFault_kept ?_
    | with_reducible refine State.raise_kept ?_
    | split

theorem State.moveRefused_kept {z : State} {a0 a1} (h : Kept z a0) : Kept z (State.moveRefused a0 a1) := by
  unfold State.moveRefused
  repeat' first
    | with_reducible assumption
    | with_reducible refine State.movesDone_kept ?_
    | with_reducible refine State.tmvRest_kept ?_
    | simp only [kept_same]
    | with_reducible refine kept_foldl _ (fun _ _ _ => ?_) _ ?_
    | split

theorem State.stopWork_kept {z : State} {a0} (h : Kept z a0) : Kept z (State.stopWork a0) := by
  unfold State.stopWork
  repeat' first
    | with_reducible assumption
    | simp only [kept_same]

theorem State.nacked_kept {z : State} {a0 a1} (h : Kept z a0) : Kept z (State.nacked a0 a1) := by
  unfold State.nacked
  repeat' first
    | with_reducible assumption
    | with_reducible refine State.dropAccess_kept ?_
    | with_reducible refine State.exception_kept ?_
    | with_reducible refine State.lateAnswer_kept ?_
    | with_reducible refine State.linesCame_kept ?_
    | with_reducible refine State.moveRefused_kept ?_
    | with_reducible refine State.raise_kept ?_
    | with_reducible refine State.refusedFlaw_kept ?_
    | with_reducible refine State.stopWork_kept ?_
    | split

theorem execNack_kept {a0 a1 a2} : ∃ t, execNack a0 a1 a2 = .next t ∧ Kept a2 t := by
  unfold execNack
  repeat' first
    | with_reducible exact Kept.refl _
    | with_reducible assumption
    | with_reducible refine State.dropTrans_kept ?_
    | with_reducible refine State.lateResponse_kept ?_
    | with_reducible refine State.nacked_kept ?_
    | with_reducible refine State.raise_kept ?_
    | with_reducible refine State.receiveFrame_kept ?_ ?_
    | with_reducible refine State.transferDone_kept ?_
    | with_reducible refine kept_next ?_
    | simp only [kept_same]
    | split
    | intro _

theorem execLoopTrainingDone_kept {a0 a1 a2} : ∃ t, execLoopTrainingDone a0 a1 a2 = .next t ∧ Kept a2 t := by
  unfold execLoopTrainingDone
  try dsimp only
  repeat' first
    | with_reducible exact Kept.refl _
    | with_reducible refine State.putPort_kept ?_
    | with_reducible refine State.raise_kept ?_
    | with_reducible refine kept_next ?_
    | split

theorem execNeighbourTrainingDone_kept {a0 a1 a2 a3 a4 a5} :
    ∃ t, execNeighbourTrainingDone a0 a1 a2 a3 a4 a5 = .next t ∧ Kept a5 t := by
  unfold execNeighbourTrainingDone
  repeat' first
    | with_reducible exact Kept.refl _
    | with_reducible refine State.drawn_kept ?_
    | with_reducible refine State.joinPort_kept ?_
    | with_reducible refine State.portDown_kept ?_
    | with_reducible refine State.raise_kept ?_
    | with_reducible refine kept_whenB ?_
    | split

theorem execDelayMeasured_kept {a0 a1 a2} : ∃ t, execDelayMeasured a0 a1 a2 = .next t ∧ Kept a2 t := by
  unfold execDelayMeasured
  repeat' first
    | with_reducible exact Kept.refl _
    | with_reducible refine State.portUp_kept ?_
    | with_reducible refine kept_whenB ?_
    | simp only [kept_same]

theorem execLinkAnneal_kept {a0 a1} : ∃ t, execLinkAnneal a0 a1 = .next t ∧ Kept a1 t := by
  unfold execLinkAnneal
  repeat' first
    | with_reducible exact Kept.refl _
    | with_reducible refine State.putPort_kept ?_
    | with_reducible refine kept_whenB ?_

theorem execLinkAnnealEnd_kept {a0 a1 a2} : ∃ t, execLinkAnnealEnd a0 a1 a2 = .next t ∧ Kept a2 t := by
  unfold execLinkAnnealEnd
  repeat' first
    | with_reducible exact Kept.refl _
    | with_reducible refine State.drain_kept ?_
    | with_reducible refine State.putPort_kept ?_
    | with_reducible refine kept_whenB ?_

/-! ## Machine/Collect.lean -/

theorem State.settleHolds_kept {z : State} {a0} (h : Kept z a0) : Kept z (State.settleHolds a0) := by
  unfold State.settleHolds
  repeat' first
    | with_reducible assumption
    | simp only [kept_same]

theorem State.dropInst_kept {z : State} {a0 a1} (h : Kept z a0) : Kept z (State.dropInst a0 a1) := by
  unfold State.dropInst
  repeat' first
    | with_reducible assumption
    | with_reducible refine State.folRest_kept ?_
    | with_reducible refine State.settleHolds_kept ?_
    | simp only [kept_same]

theorem State.refuseColl_kept {z : State} {a0 a1 a2} (h : Kept z a0) : Kept z (State.refuseColl a0 a1 a2) := by
  unfold State.refuseColl
  repeat' first
    | with_reducible assumption
    | with_reducible refine State.dropInst_kept ?_
    | with_reducible refine State.refuse_kept ?_

theorem State.discardColl_kept {z : State} {a0} (h : Kept z a0) : Kept z (State.discardColl a0) := by
  unfold State.discardColl
  repeat' first
    | with_reducible assumption
    | simp only [kept_same]

theorem State.barResult_kept {z : State} {a0 a1} (h : Kept z a0) : Kept z (State.barResult a0 a1) := by
  unfold State.barResult
  repeat' first
    | with_reducible assumption
    | simp only [kept_same]
    | split

theorem State.sendFrames_kept {z : State} {a0 a1 a2 a3 a4 a5 a6 a7} (h : Kept z a0) :
    Kept z (State.sendFrames a0 a1 a2 a3 a4 a5 a6 a7) := by
  induction a5 generalizing a0 a6 a7 with
  | zero => exact h
  | succ n ih => exact ih (State.sendTo_kept h)

theorem State.sendBlock_kept {z : State} {a0 a1 a2 a3 a4 a5} (h : Kept z a0) :
    Kept z (State.sendBlock a0 a1 a2 a3 a4 a5) := by
  unfold State.sendBlock
  repeat' first
    | with_reducible assumption
    | with_reducible refine State.sendFrames_kept ?_

theorem State.sendScalars_kept {z : State} {a0 a1 a2 a3} (h : Kept z a0) : Kept z (State.sendScalars a0 a1 a2 a3) := by
  unfold State.sendScalars
  repeat' first
    | with_reducible assumption
    | with_reducible refine State.sendBlock_kept ?_
    | with_reducible refine kept_foldl _ (fun _ _ _ => ?_) _ ?_

theorem State.putInst_kept {z : State} {a0 a1} (h : Kept z a0) : Kept z (State.putInst a0 a1) := by
  unfold State.putInst
  repeat' first
    | with_reducible assumption
    | simp only [kept_same]

theorem State.ringStep_kept {z : State} {a0 a1 a2 a3} (h : Kept z a0) : Kept z (State.ringStep a0 a1 a2 a3) := by
  unfold State.ringStep
  repeat' first
    | with_reducible assumption
    | with_reducible refine State.barResult_kept ?_
    | with_reducible refine State.putInst_kept ?_
    | with_reducible refine State.sendScalars_kept ?_

theorem State.scalarFrame_kept {z : State} {a0 a1 a2 a3 a4} (h : Kept z a0) :
    Kept z (State.scalarFrame a0 a1 a2 a3 a4) := by
  unfold State.scalarFrame
  try dsimp only
  repeat' first
    | with_reducible assumption
    | with_reducible refine State.raise_kept ?_
    | with_reducible refine State.ringStep_kept ?_
    | split

theorem State.pumpChan_kept {z : State} {a0 a1 a2 a3} (h : Kept z a0) : Kept z (State.pumpChan a0 a1 a2 a3) := by
  unfold State.pumpChan
  repeat' first
    | with_reducible assumption
    | with_reducible refine State.putInst_kept ?_
    | with_reducible refine State.sendBlock_kept ?_
    | with_reducible refine kept_foldl _ (fun _ _ _ => ?_) _ ?_
    | split

theorem State.abandonInsts_kept {z : State} {a0} (h : Kept z a0) : Kept z (State.abandonInsts a0) := by
  unfold State.abandonInsts
  repeat' first
    | with_reducible assumption
    | with_reducible refine State.drawn_kept ?_
    | with_reducible refine State.folRest_kept ?_
    | with_reducible refine State.settleHolds_kept ?_
    | with_reducible refine State.spoil_kept ?_
    | simp only [kept_same]

theorem State.instFault_kept {z : State} {a0 a1 a2 a3} (h : Kept z a0) : Kept z (State.instFault a0 a1 a2 a3) := by
  unfold State.instFault
  repeat' first
    | with_reducible assumption
    | with_reducible refine State.abandonInsts_kept ?_
    | with_reducible refine State.flaw_kept ?_

theorem State.pumpZ_kept {z : State} {a0 a1 a2 a3} (h : Kept z a0) : Kept z (State.pumpZ a0 a1 a2 a3) := by
  induction a3 generalizing a0 with
  | nil => exact h
  | cons p t ih =>
    unfold State.pumpZ
    split
    · exact h
    · split
      · exact h
      · split
        · exact ih h
        · split
          · exact ih h
          · split
            · exact ih h
            · split
              · rename_i e
                refine ih (State.putInst_kept ?_)
                have k := State.writeU_kept h _ e
                split
                · exact State.drawn_kept k
                · exact k
              · exact State.instFault_kept h

theorem State.pumpTiles_kept {z : State} {a0 a1 a2} (h : Kept z a0) : Kept z (State.pumpTiles a0 a1 a2) := by
  unfold State.pumpTiles
  try dsimp only
  repeat' first
    | with_reducible assumption
    | with_reducible refine State.pumpChan_kept ?_
    | with_reducible refine State.pumpZ_kept ?_
    | with_reducible refine kept_foldl _ (fun _ _ _ => ?_) _ ?_
    | split

theorem State.blockFrame_kept {z : State} {a0 a1 a2 a3 a4 a5} (h : Kept z a0) :
    Kept z (State.blockFrame a0 a1 a2 a3 a4 a5) := by
  unfold State.blockFrame
  try dsimp only
  repeat' first
    | with_reducible assumption
    | with_reducible refine State.pumpTiles_kept ?_
    | with_reducible refine State.putInst_kept ?_
    | split

theorem State.instFrame_kept {z : State} {a0 a1 a2 a3} (h : Kept z a0) : Kept z (State.instFrame a0 a1 a2 a3) := by
  unfold State.instFrame
  repeat' first
    | with_reducible assumption
    | with_reducible refine State.blockFrame_kept ?_
    | with_reducible refine State.scalarFrame_kept ?_
    | split

theorem State.collFrame_kept {z : State} {a0 a1} (h : Kept z a0) : Kept z (State.collFrame a0 a1) := by
  unfold State.collFrame
  repeat' first
    | with_reducible assumption
    | with_reducible refine State.discardColl_kept ?_
    | with_reducible refine State.instFrame_kept ?_
    | simp only [kept_same]
    | split

theorem State.replayHeld_kept {z : State} {a0 a1} (h : Kept z a0) : Kept z (State.replayHeld a0 a1) := by
  unfold State.replayHeld
  repeat' first
    | with_reducible assumption
    | with_reducible refine State.collFrame_kept ?_
    | simp only [kept_same]
    | with_reducible refine kept_foldl _ (fun _ _ _ => ?_) _ ?_

theorem State.startScalar_kept {z : State} {a0 a1 a2} (h : Kept z a0) : Kept z (State.startScalar a0 a1 a2) := by
  unfold State.startScalar
  repeat' first
    | with_reducible assumption
    | with_reducible refine State.replayHeld_kept ?_
    | with_reducible refine State.ringStep_kept ?_

theorem cscalEffect_kept {z : State} {a0 a1 a2} (h : Kept z a2) : Kept z (cscalEffect a0 a1 a2) := by
  unfold cscalEffect
  repeat' first
    | with_reducible assumption
    | with_reducible refine State.refuseColl_kept ?_
    | with_reducible refine State.startScalar_kept ?_
    | split

theorem State.holdSecs_kept {z : State} {a0 a1 a2} (h : Kept z a0) : Kept z (State.holdSecs a0 a1 a2) := by
  unfold State.holdSecs
  repeat' first
    | with_reducible assumption
    | simp only [kept_same]

theorem cwaitEffect_kept {z : State} {a0 a1 a2} (h : Kept z a2) : Kept z (cwaitEffect a0 a1 a2) := by
  unfold cwaitEffect
  repeat' first
    | with_reducible assumption
    | with_reducible refine State.holdFor_kept ?_
    | with_reducible refine State.holdSecs_kept ?_
    | with_reducible refine State.refuse_kept ?_
    | with_reducible refine State.settleHolds_kept ?_
    | split

theorem State.barUnusable_kept {z : State} {a0 a1 a2} (h : Kept z a0) : Kept z (State.barUnusable a0 a1 a2) := by
  unfold State.barUnusable
  repeat' first
    | with_reducible assumption
    | with_reducible refine State.flaw_kept ?_

theorem fbarEffect_kept {z : State} {a0 a1 a2} (h : Kept z a2) : Kept z (fbarEffect a0 a1 a2) := by
  unfold fbarEffect
  repeat' first
    | with_reducible assumption
    | with_reducible refine State.barUnusable_kept ?_
    | with_reducible refine State.startScalar_kept ?_
    | with_reducible refine State.swarfStart_kept ?_
    | simp only [kept_same]
    | split

theorem State.collFoil_kept {z : State} {a0 a1 a2 a3 a4} (h : Kept z a0) : Kept z (State.collFoil a0 a1 a2 a3 a4) := by
  unfold State.collFoil
  repeat' first
    | with_reducible assumption
    | with_reducible refine State.flaw_kept ?_
    | with_reducible refine State.phaseStop_kept ?_
    | simp only [kept_same]
    | split

theorem State.readOwn_kept {z : State} {j w} (l) :
    ∀ {s m t v}, Kept z s → State.readOwn s j w l m = .ok (t, v) → Kept z t := by
  induction l with
  | nil => intro s m t v h e; unfold State.readOwn at e; injection e with e; injection e with e _; exact e ▸ h
  | cons x r ih =>
    intro s m t v h e
    unfold State.readOwn at e
    dsimp only at e
    split at e
    · contradiction
    · exact ih (State.collFoil_kept (State.noteRead_kept h)) e

theorem State.startTiles_kept {z : State} {a0 a1 a2 a3 a4} (h : Kept z a0) :
    Kept z (State.startTiles a0 a1 a2 a3 a4) := by
  have k : Kept z (if bitAt a3.flg 4 then (a0.holdFor a2.seq (.inst a2.seq)).holdSecs (secsOf a3.sec) a2.seq else a0) := by
    split
    · exact State.holdSecs_kept (State.holdFor_kept h)
    · exact h
  unfold State.startTiles
  revert k
  generalize (if bitAt a3.flg 4 then (a0.holdFor a2.seq (.inst a2.seq)).holdSecs (secsOf a3.sec) a2.seq else a0) = s
  intro k
  dsimp only
  split
  · exact State.instFault_kept (State.putInst_kept k)
  · rename_i e
    exact State.replayHeld_kept (State.pumpTiles_kept (State.putInst_kept (State.readOwn_kept _ k e)))

theorem tilesEffect_kept {z : State} {a0 a1 a2} (h : Kept z a2) : Kept z (tilesEffect a0 a1 a2) := by
  unfold tilesEffect
  repeat' first
    | with_reducible assumption
    | with_reducible refine State.refuseColl_kept ?_
    | with_reducible refine State.startTiles_kept ?_
    | split

theorem collEffect_kept {z : State} {a0 a1 a2 a3} (h : Kept z a3) : Kept z (collEffect a0 a1 a2 a3) := by
  unfold collEffect
  repeat' first
    | with_reducible assumption
    | with_reducible refine cscalEffect_kept ?_
    | with_reducible refine cwaitEffect_kept ?_
    | with_reducible refine fbarEffect_kept ?_
    | with_reducible refine tilesEffect_kept ?_
    | split

theorem collCmd_kept {a0 a1 a2} : ∃ t, collCmd a0 a1 a2 = .next t ∧ Kept a2 t := by
  unfold collCmd
  try dsimp only
  repeat' first
    | with_reducible exact Kept.refl _
    | with_reducible assumption
    | with_reducible refine arrayCmd_kept ?_ ?_
    | with_reducible refine collEffect_kept ?_
    | with_reducible refine refuseReserved_kept ?_
    | with_reducible refine kept_next ?_
    | split
    | intro _

theorem execCagr_kept {a0 a1} : ∃ t, execCagr a0 a1 = .next t ∧ Kept a1 t := by
  unfold execCagr
  repeat' first
    | with_reducible exact collCmd_kept

theorem State.countLate_kept {z : State} {a0 a1} (h : Kept z a0) : Kept z (State.countLate a0 a1) := by
  unfold State.countLate
  repeat' first
    | with_reducible assumption
    | with_reducible refine State.raise_kept ?_
    | simp only [kept_same]
    | split

theorem State.completeInst_kept {z : State} {a0 a1} (h : Kept z a0) : Kept z (State.completeInst a0 a1) := by
  unfold State.completeInst
  repeat' first
    | with_reducible assumption
    | with_reducible refine State.dropInst_kept ?_
    | simp only [kept_same]

theorem execFbarRelease_kept {a0 a1} : ∃ t, execFbarRelease a0 a1 = .next t ∧ Kept a1 t := by
  unfold execFbarRelease
  repeat' first
    | with_reducible exact Kept.refl _
    | with_reducible refine State.completeInst_kept ?_
    | with_reducible refine State.countLate_kept ?_
    | with_reducible refine State.release_kept ?_
    | with_reducible refine State.swarfRelease_kept ?_
    | with_reducible refine kept_whenB ?_
    | with_reducible refine kept_next ?_
    | simp only [kept_same]
    | split

theorem execCar_kept {a0 a1} : ∃ t, execCar a0 a1 = .next t ∧ Kept a1 t := by
  unfold execCar
  repeat' first
    | with_reducible exact collCmd_kept

theorem execCrsc_kept {a0 a1} : ∃ t, execCrsc a0 a1 = .next t ∧ Kept a1 t := by
  unfold execCrsc
  repeat' first
    | with_reducible exact collCmd_kept

theorem execBarFrame_kept {a0 a1 a2 a3} : ∃ t, execBarFrame a0 a1 a2 a3 = .next t ∧ Kept a3 t := by
  unfold execBarFrame
  repeat' first
    | with_reducible exact Kept.refl _
    | with_reducible assumption
    | with_reducible refine State.collFrame_kept ?_
    | with_reducible refine State.receiveFrame_kept ?_ ?_
    | with_reducible refine kept_next ?_
    | intro _

theorem execFbarHeldWarning_kept {a0 a1} : ∃ t, execFbarHeldWarning a0 a1 = .next t ∧ Kept a1 t := by
  unfold execFbarHeldWarning
  repeat' first
    | with_reducible exact Kept.refl _
    | with_reducible refine State.raise_kept ?_
    | with_reducible refine kept_whenB ?_
    | with_reducible refine kept_next ?_
    | simp only [kept_same]
    | split

theorem execCscal_kept {a0 a1} : ∃ t, execCscal a0 a1 = .next t ∧ Kept a1 t := by
  unfold execCscal
  repeat' first
    | with_reducible exact collCmd_kept

theorem execFbar_kept {a0 a1} : ∃ t, execFbar a0 a1 = .next t ∧ Kept a1 t := by
  unfold execFbar
  repeat' first
    | with_reducible exact collCmd_kept

theorem execRedFrame_kept {a0 a1 a2 a3} : ∃ t, execRedFrame a0 a1 a2 a3 = .next t ∧ Kept a3 t := by
  unfold execRedFrame
  repeat' first
    | with_reducible exact Kept.refl _
    | with_reducible assumption
    | with_reducible refine State.collFrame_kept ?_
    | with_reducible refine State.receiveFrame_kept ?_ ?_
    | with_reducible refine kept_next ?_
    | intro _

theorem execGathFrame_kept {a0 a1 a2 a3} : ∃ t, execGathFrame a0 a1 a2 a3 = .next t ∧ Kept a3 t := by
  unfold execGathFrame
  repeat' first
    | with_reducible exact Kept.refl _
    | with_reducible assumption
    | with_reducible refine State.collFrame_kept ?_
    | with_reducible refine State.receiveFrame_kept ?_ ?_
    | with_reducible refine kept_next ?_
    | intro _

theorem execCbcast_kept {a0 a1} : ∃ t, execCbcast a0 a1 = .next t ∧ Kept a1 t := by
  unfold execCbcast
  repeat' first
    | with_reducible exact collCmd_kept

theorem execCwait_kept {a0 a1} : ∃ t, execCwait a0 a1 = .next t ∧ Kept a1 t := by
  unfold execCwait
  repeat' first
    | with_reducible exact collCmd_kept

theorem execCollectiveStart_kept {a0 a1} : ∃ t, execCollectiveStart a0 a1 = .next t ∧ Kept a1 t := by
  unfold execCollectiveStart
  try dsimp only
  repeat' first
    | with_reducible exact Kept.refl _
    | with_reducible exact collCmd_kept
    | with_reducible refine kept_next ?_
    | split

theorem execCollectiveComplete_kept {a0 a1} : ∃ t, execCollectiveComplete a0 a1 = .next t ∧ Kept a1 t := by
  unfold execCollectiveComplete
  repeat' first
    | with_reducible exact Kept.refl _
    | with_reducible refine State.completeInst_kept ?_
    | with_reducible refine State.formSummary_kept ?_
    | with_reducible refine State.pumpTiles_kept ?_
    | with_reducible refine kept_whenB ?_
    | with_reducible refine kept_next ?_
    | split

theorem execCollectiveStall_kept {a0 a1} : ∃ t, execCollectiveStall a0 a1 = .next t ∧ Kept a1 t := by
  unfold execCollectiveStall
  repeat' first
    | with_reducible exact Kept.refl _
    | with_reducible refine State.putInst_kept ?_
    | with_reducible refine State.raise_kept ?_
    | with_reducible refine kept_whenB ?_
    | with_reducible refine kept_next ?_
    | split

end Sys2Proof.Machine
end

