-- ==== Sys2Proof/Laws/KeptSheet.lean ====
section
/-! SUPPORT. What `Kept` says of the words of the Sheet:
one lemma per function of the model that answers a state, named after it. A lemma whose conclusion is `∃ t, ... = .next t` is about
the meaning of a command. -/

-- One proof after the other: side by side they want more threads than the memory of a check holds.
set_option Elab.async false

namespace Sys2Proof.Machine

/-! ## Machine/Matrix.lean -/

theorem State.stopFault_kept {z : State} {a0 a1 a2 a3} (h : Kept z a0) : Kept z (State.stopFault a0 a1 a2 a3) := by
  unfold State.stopFault
  repeat' first
    | with_reducible assumption
    | with_reducible refine State.flaw_kept ?_
    | split

theorem MatJob.load_kept {z : State} {a0 a1 a2 a3} (h : Kept z a3) : Kept z (MatJob.load a0 a1 a2 a3) := by
  unfold MatJob.load
  repeat' first
    | with_reducible assumption
    | with_reducible refine State.putAcc_kept ?_
    | with_reducible refine State.readSlot_kept ?_

theorem MatJob.operands_kept {z : State} {a0 a1 a2 a3 a4} (h : Kept z a4) :
    Kept z (MatJob.operands a0 a1 a2 a3 a4).2.2 := by
  unfold MatJob.operands
  repeat' first
    | with_reducible assumption
    | with_reducible refine State.readTile_kept ?_

theorem MatJob.factors_kept {z : State} {a0 a1 a2 a3} (h : Kept z a3) : Kept z (MatJob.factors a0 a1 a2 a3).2 := by
  unfold MatJob.factors
  repeat' first
    | with_reducible assumption
    | with_reducible refine State.readTile_kept ?_

theorem MatJob.agscale_kept {z : State} {a0 a1 a2 a3 a4} (h : Kept z a4) : Kept z (MatJob.agscale a0 a1 a2 a3 a4) := by
  unfold MatJob.agscale
  try dsimp only
  repeat' first
    | with_reducible assumption
    | with_reducible refine MatJob.factors_kept ?_
    | with_reducible refine State.flaw_kept ?_
    | with_reducible refine State.putAcc_kept ?_
    | split

theorem MatJob.begin_kept {z : State} {a0 a1 a2 a3} (h : Kept z a3) : Kept z (MatJob.begin a0 a1 a2 a3) := by
  unfold MatJob.begin
  repeat' first
    | with_reducible assumption
    | with_reducible refine MatJob.load_kept ?_
    | with_reducible refine State.putAcc_kept ?_
    | split

theorem MatJob.product_kept {z : State} {a0 a1 a2 a3 a4} (h : Kept z a4) : Kept z (MatJob.product a0 a1 a2 a3 a4) := by
  unfold MatJob.product
  repeat' first
    | with_reducible assumption
    | with_reducible refine MatJob.begin_kept ?_
    | with_reducible refine MatJob.operands_kept ?_
    | with_reducible refine State.putAcc_kept ?_
    | split

theorem MatJob.prodSteps_kept {z : State} {a0 a1} :
    ∀ w ∈ MatJob.prodSteps a0 a1, ∀ c s, Kept z s → Kept z (w.act c s) := by
  unfold MatJob.prodSteps
  exact each_map _ (fun _ _ _ h => MatJob.product_kept h)

theorem MatJob.steps_kept {z : State} {a0 a1 a2} :
    ∀ w ∈ MatJob.steps a0 a1 a2, ∀ c s, Kept z s → Kept z (w.act c s) := by
  unfold MatJob.steps
  split
  · exact each_one (fun _ _ h => MatJob.load_kept h)
  · exact each_one (fun _ _ h => State.putAcc_kept h)
  · exact each_one (fun _ _ h => MatJob.agscale_kept h)
  · exact each_nil
  · exact each_nil
  · exact MatJob.prodSteps_kept

theorem State.countProducts_kept {z : State} {a0 a1} (h : Kept z a0) : Kept z (State.countProducts a0 a1) := by
  unfold State.countProducts
  repeat' first
    | with_reducible assumption
    | simp only [kept_same]

theorem MatJob.clear_kept {z : State} {a0 a1 a2 a3} (h : Kept z a3) : Kept z (MatJob.clear a0 a1 a2 a3) := by
  unfold MatJob.clear
  repeat' first
    | with_reducible assumption
    | with_reducible refine State.putAcc_kept ?_
    | split

theorem MatJob.writeOut_kept {z : State} {a0 a1 a2 a3 a4 a5} (h : Kept z a5) :
    Kept z (MatJob.writeOut a0 a1 a2 a3 a4 a5) := by
  unfold MatJob.writeOut
  repeat' first
    | with_reducible assumption
    | with_reducible refine MatJob.clear_kept ?_
    | with_reducible refine MatJob.factors_kept ?_
    | with_reducible refine State.destsOf_kept ?_
    | with_reducible refine State.drawn_kept ?_
    | with_reducible refine State.slagTiles_kept ?_
    | with_reducible refine State.writeSlot_kept ?_
    | with_reducible refine State.writeTile_kept ?_
    | split

theorem MatJob.outStep_kept {z : State} {a0 a1 a2 a3}  :
    ∀ c s, Kept z s → Kept z ((MatJob.outStep a0 a1 a2 a3).act c s) := by
  unfold MatJob.outStep
  repeat' first
    | with_reducible assumption
    | with_reducible refine MatJob.writeOut_kept ?_
    | intro _

theorem MatJob.run_kept {z : State} {a0 a1 a2} (h : Kept z a2) : Kept z (MatJob.run a0 a1 a2) := by
  have one : ∀ cores tiles s, Kept z s → Kept z (runSteps id cores (List.flatMap (a0.steps a1) tiles) s).st := fun _ _ _ k =>
    runSteps_keeps (P := Kept z) _ _ (each_flatMap _ (fun _ => MatJob.steps_kept)) k
  have two : ∀ cores tiles s, Kept z s → Kept z (runSteps id cores (List.map (a0.outStep a1 a2) tiles) s).st :=
    fun _ _ _ k => runSteps_keeps (P := Kept z) _ _ (each_map _ (fun _ => MatJob.outStep_kept)) k
  unfold MatJob.run
  dsimp only
  generalize hs : State.destsOf _ _ _ = s
  have ks : Kept z s := hs ▸ State.destsOf_kept (State.idleCores_kept (kept_ite (State.noteMasks_kept h) h))
  have k1 := one (a2.coresOf a0.sect a0.z.tq) (resTiles a0.gb a0.m a0.n a0.p) s ks
  generalize runSteps id _ (List.flatMap _ _) s = r at k1 ⊢
  have k2 : Kept z (if a0.op.kind.prod = true then r.st.countProducts (r.did.length * (a2.coresOf a0.sect a0.z.tq).length) else r.st) := by
    split
    · exact State.countProducts_kept k1
    · exact k1
  generalize (if a0.op.kind.prod = true then r.st.countProducts (r.did.length * (a2.coresOf a0.sect a0.z.tq).length) else r.st) = t at k2 ⊢
  split
  · exact State.formSummary_kept (State.stopFault_kept k2)
  · split
    · exact State.formSummary_kept (State.stopFault_kept (two _ _ _ k2))
    · exact State.formSummary_kept k2

theorem matEffect_kept {z : State} {a0 a1 a2 a3} (h : Kept z a3) : Kept z (matEffect a0 a1 a2 a3) := by
  unfold matEffect
  try dsimp only
  repeat' first
    | with_reducible assumption
    | with_reducible refine MatJob.run_kept ?_
    | with_reducible refine State.formSummary_kept ?_
    | with_reducible refine State.refuse_kept ?_
    | split

theorem matCmd_kept {a0 a1 a2 a3} : ∃ t, matCmd a0 a1 a2 a3 = .next t ∧ Kept a3 t := by
  unfold matCmd
  repeat' first
    | with_reducible assumption
    | with_reducible refine arrayCmd_kept ?_ ?_
    | with_reducible refine matEffect_kept ?_
    | with_reducible refine refuseReserved_kept ?_
    | intro _

theorem execMtaccTxy_kept {a0 a1} : ∃ t, execMtaccTxy a0 a1 = .next t ∧ Kept a1 t := by
  unfold execMtaccTxy
  repeat' first
    | with_reducible exact matCmd_kept

theorem execArows_kept {a0 a1} : ∃ t, execArows a0 a1 = .next t ∧ Kept a1 t := by
  unfold execArows
  repeat' first
    | with_reducible exact matCmd_kept

theorem execMtaccTx_kept {a0 a1} : ∃ t, execMtaccTx a0 a1 = .next t ∧ Kept a1 t := by
  unfold execMtaccTx
  repeat' first
    | with_reducible exact matCmd_kept

theorem execMmulTy_kept {a0 a1} : ∃ t, execMmulTy a0 a1 = .next t ∧ Kept a1 t := by
  unfold execMmulTy
  repeat' first
    | with_reducible exact matCmd_kept

theorem execMmul_kept {a0 a1} : ∃ t, execMmul a0 a1 = .next t ∧ Kept a1 t := by
  unfold execMmul
  repeat' first
    | with_reducible exact matCmd_kept

theorem execMmulTx_kept {a0 a1} : ∃ t, execMmulTx a0 a1 = .next t ∧ Kept a1 t := by
  unfold execMmulTx
  repeat' first
    | with_reducible exact matCmd_kept

theorem execMmulTxy_kept {a0 a1} : ∃ t, execMmulTxy a0 a1 = .next t ∧ Kept a1 t := by
  unfold execMmulTxy
  repeat' first
    | with_reducible exact matCmd_kept

theorem execMmac_kept {a0 a1} : ∃ t, execMmac a0 a1 = .next t ∧ Kept a1 t := by
  unfold execMmac
  repeat' first
    | with_reducible exact matCmd_kept

theorem execMmacTx_kept {a0 a1} : ∃ t, execMmacTx a0 a1 = .next t ∧ Kept a1 t := by
  unfold execMmacTx
  repeat' first
    | with_reducible exact matCmd_kept

theorem execMmacTy_kept {a0 a1} : ∃ t, execMmacTy a0 a1 = .next t ∧ Kept a1 t := by
  unfold execMmacTy
  repeat' first
    | with_reducible exact matCmd_kept

theorem execMmacTxy_kept {a0 a1} : ∃ t, execMmacTxy a0 a1 = .next t ∧ Kept a1 t := by
  unfold execMmacTxy
  repeat' first
    | with_reducible exact matCmd_kept

theorem execMtacc_kept {a0 a1} : ∃ t, execMtacc a0 a1 = .next t ∧ Kept a1 t := by
  unfold execMtacc
  repeat' first
    | with_reducible exact matCmd_kept

theorem execMtaccTy_kept {a0 a1} : ∃ t, execMtaccTy a0 a1 = .next t ∧ Kept a1 t := by
  unfold execMtaccTy
  repeat' first
    | with_reducible exact matCmd_kept

theorem execGload_kept {a0 a1} : ∃ t, execGload a0 a1 = .next t ∧ Kept a1 t := by
  unfold execGload
  repeat' first
    | with_reducible exact matCmd_kept

theorem execGstore_kept {a0 a1} : ∃ t, execGstore a0 a1 = .next t ∧ Kept a1 t := by
  unfold execGstore
  repeat' first
    | with_reducible exact matCmd_kept

theorem execGclr_kept {a0 a1} : ∃ t, execGclr a0 a1 = .next t ∧ Kept a1 t := by
  unfold execGclr
  repeat' first
    | with_reducible exact matCmd_kept

theorem execAscore_kept {a0 a1} : ∃ t, execAscore a0 a1 = .next t ∧ Kept a1 t := by
  unfold execAscore
  repeat' first
    | with_reducible exact matCmd_kept

theorem execAgscale_kept {a0 a1} : ∃ t, execAgscale a0 a1 = .next t ∧ Kept a1 t := by
  unfold execAgscale
  repeat' first
    | with_reducible exact matCmd_kept

/-! ## Machine/Geometry.lean -/

theorem State.readTiles_kept {z : State} {a0 a1 a2 a3 a4} (h : Kept z a4) :
    Kept z (State.readTiles a0 a1 a2 a3 a4).2 := by
  induction a3 generalizing a4 with
  | nil => exact h
  | cons u l ih => exact ih (State.readTile_kept h)

/-! ## Machine/Conv.lean -/

theorem State.idleWindows_kept {z : State} {a0 a1 a2 a3} (h : Kept z a0) : Kept z (State.idleWindows a0 a1 a2 a3) := by
  unfold State.idleWindows
  repeat' first
    | with_reducible assumption
    | simp only [kept_same]

theorem ConvJob.products_kept {z : State} {a0 a1 a2 a3 a4} (h : Kept z a4) :
    Kept z (ConvJob.products a0 a1 a2 a3 a4).2 := by
  unfold ConvJob.products
  repeat' first
    | with_reducible assumption
    | with_reducible refine State.readTile_kept ?_
    | with_reducible refine State.readTiles_kept ?_
    | split

theorem ConvJob.addBias_kept {z : State} {a0 a1 a2 a3} (h : Kept z a3) : Kept z (ConvJob.addBias a0 a1 a2 a3) := by
  unfold ConvJob.addBias
  repeat' first
    | with_reducible assumption
    | with_reducible refine State.putAcc_kept ?_
    | with_reducible refine State.readTile_kept ?_
    | split

theorem ConvJob.begin_kept {z : State} {a0 a1 a2 a3} (h : Kept z a3) : Kept z (ConvJob.begin a0 a1 a2 a3) := by
  unfold ConvJob.begin
  repeat' first
    | with_reducible assumption
    | with_reducible refine ConvJob.addBias_kept ?_
    | with_reducible refine State.putAcc_kept ?_
    | split

theorem ConvJob.product_kept {z : State} {a0 a1 a2 a3 a4} (h : Kept z a4) :
    Kept z (ConvJob.product a0 a1 a2 a3 a4) := by
  unfold ConvJob.product
  repeat' first
    | with_reducible assumption
    | with_reducible refine ConvJob.begin_kept ?_
    | with_reducible refine ConvJob.products_kept ?_
    | with_reducible refine State.countProducts_kept ?_
    | with_reducible refine State.putAcc_kept ?_
    | split

theorem ConvJob.steps_kept {z : State} {a0 a1} : ∀ w ∈ ConvJob.steps a0 a1, ∀ c s, Kept z s → Kept z (w.act c s) := by
  unfold ConvJob.steps
  exact each_map _ (fun _ _ _ h => ConvJob.product_kept h)

theorem ConvJob.mergeSlot_kept {z : State} {a0 a1 a2 a3 a4 a5 a6} (h : Kept z a6) :
    Kept z (ConvJob.mergeSlot a0 a1 a2 a3 a4 a5 a6) := by
  unfold ConvJob.mergeSlot
  repeat' first
    | with_reducible assumption
    | with_reducible refine State.noteConv_kept ?_
    | with_reducible refine State.writeSome_kept ?_
    | split

theorem ConvJob.writeZ_kept {z : State} {a0 a1 a2 a3 a4 a5} (h : Kept z a4) :
    Kept z (ConvJob.writeZ a0 a1 a2 a3 a4 a5) := by
  unfold ConvJob.writeZ
  repeat' first
    | with_reducible assumption
    | with_reducible refine ConvJob.mergeSlot_kept ?_
    | with_reducible refine State.destsOf_kept ?_
    | with_reducible refine State.writeSlot_kept ?_
    | with_reducible refine State.writeTile_kept ?_
    | split

theorem ConvJob.writeOut_kept {z : State} {a0 a1 a2 a3 a4 a5} (h : Kept z a5) :
    Kept z (ConvJob.writeOut a0 a1 a2 a3 a4 a5) := by
  unfold ConvJob.writeOut
  try dsimp only
  repeat' first
    | with_reducible assumption
    | with_reducible refine ConvJob.writeZ_kept ?_
    | with_reducible refine State.putAcc_kept ?_
    | with_reducible refine State.slagTiles_kept ?_
    | with_reducible refine kept_foldl _ (fun _ _ _ => ?_) _ ?_
    | split

theorem ConvJob.outStep_kept {z : State} {a0 a1 a2 a3}  :
    ∀ c s, Kept z s → Kept z ((ConvJob.outStep a0 a1 a2 a3).act c s) := by
  unfold ConvJob.outStep
  repeat' first
    | with_reducible assumption
    | with_reducible refine ConvJob.writeOut_kept ?_
    | intro _

theorem ConvJob.run_kept {z : State} {a0 a1 a2} (h : Kept z a2) : Kept z (ConvJob.run a0 a1 a2) := by
  have one : ∀ cores tiles s, Kept z s → Kept z (runSteps id cores (List.flatMap a0.steps tiles) s).st := fun _ _ _ k =>
    runSteps_keeps (P := Kept z) _ _ (each_flatMap _ (fun _ => ConvJob.steps_kept)) k
  have two : ∀ cores tiles s, Kept z s → Kept z (runSteps id cores (List.map (a0.outStep a1 a2) tiles) s).st :=
    fun _ _ _ k => runSteps_keeps (P := Kept z) _ _ (each_map _ (fun _ => ConvJob.outStep_kept)) k
  unfold ConvJob.run
  dsimp only
  generalize hs : State.destsOf _ _ _ = s
  have ks : Kept z s := hs ▸ State.destsOf_kept (State.idleWindows_kept (State.idleCores_kept (kept_ite (State.noteMasks_kept h) h)))
  have k1 := one (a0.cores a2) (resTiles a0.gb a0.g.m a0.g.n a0.p) s ks
  generalize runSteps id _ (List.flatMap _ _) s = r at k1 ⊢
  split
  · exact State.formSummary_kept (State.stopFault_kept k1)
  · split
    · exact State.formSummary_kept (State.stopFault_kept (two _ _ _ k1))
    · exact State.formSummary_kept k1

theorem convEffect_kept {z : State} {a0 a1 a2 a3 a4} (h : Kept z a4) : Kept z (convEffect a0 a1 a2 a3 a4) := by
  unfold convEffect
  try dsimp only
  repeat' first
    | with_reducible assumption
    | with_reducible refine ConvJob.run_kept ?_
    | with_reducible refine State.formSummary_kept ?_
    | with_reducible refine State.refuse_kept ?_
    | split

theorem execConva_kept {a0 a1} : ∃ t, execConva a0 a1 = .next t ∧ Kept a1 t := by
  unfold execConva
  repeat' first
    | with_reducible assumption
    | with_reducible refine arrayCmd_kept ?_ ?_
    | with_reducible refine convEffect_kept ?_
    | with_reducible refine refuseReserved_kept ?_
    | intro _

theorem execConv_kept {a0 a1} : ∃ t, execConv a0 a1 = .next t ∧ Kept a1 t := by
  unfold execConv
  repeat' first
    | with_reducible assumption
    | with_reducible refine arrayCmd_kept ?_ ?_
    | with_reducible refine convEffect_kept ?_
    | with_reducible refine refuseReserved_kept ?_
    | intro _

theorem execConvwg_kept {a0 a1} : ∃ t, execConvwg a0 a1 = .next t ∧ Kept a1 t := by
  unfold execConvwg
  repeat' first
    | with_reducible assumption
    | with_reducible refine arrayCmd_kept ?_ ?_
    | with_reducible refine convEffect_kept ?_
    | with_reducible refine refuseReserved_kept ?_
    | intro _

theorem execConvwga_kept {a0 a1} : ∃ t, execConvwga a0 a1 = .next t ∧ Kept a1 t := by
  unfold execConvwga
  repeat' first
    | with_reducible assumption
    | with_reducible refine arrayCmd_kept ?_ ?_
    | with_reducible refine convEffect_kept ?_
    | with_reducible refine refuseReserved_kept ?_
    | intro _

/-! ## Machine/Vector.lean -/

theorem VecJob.accSteps_kept {z : State} {a0} :
    ∀ w ∈ VecJob.accSteps a0, ∀ c s, Kept z s.st → Kept z (w.act c s).st := by
  unfold VecJob.accSteps
  split
  · exact each_one (fun _ _ h => kept_foldl_by VRun.st _ (fun _ _ k => kept_foldl_by VRun.st _
      (fun _ _ k => State.readSlot_kept k) _ k) _ h)
  · exact each_nil

theorem VecJob.loadAll_kept {z : State} {a0 a1 a2 a3 a4} (h : Kept z a4) :
    Kept z (VecJob.loadAll a0 a1 a2 a3 a4).2 := by
  induction a3 generalizing a4 with
  | nil => exact h
  | cons p l ih =>
    unfold VecJob.loadAll
    split
    · exact ih h
    · exact ih (State.readSlot_kept h)

theorem VecJob.contribute_kept {z : State} {a0 a1 a2 a3 a4 a5} (h : Kept z a5.st) :
    Kept z (VecJob.contribute a0 a1 a2 a3 a4 a5).st := by
  unfold VecJob.contribute
  repeat' first
    | with_reducible assumption
    | split

theorem VecJob.writeOut_kept {z : State} {a0 a1 a2 a3 a4 a5 a6 a7} (h : Kept z a7.st) :
    Kept z (VecJob.writeOut a0 a1 a2 a3 a4 a5 a6 a7).st := by
  unfold VecJob.writeOut
  try dsimp only
  repeat' first
    | with_reducible assumption
    | with_reducible refine State.destsOf_kept ?_
    | with_reducible refine State.noteConv_kept ?_
    | with_reducible refine State.slagTiles_kept ?_
    | with_reducible refine State.writeSome_kept ?_
    | split

theorem VecJob.tile_kept {z : State} {a0 a1 a2 a3 a4 a5} (h : Kept z a5.st) :
    Kept z (VecJob.tile a0 a1 a2 a3 a4 a5).st := by
  unfold VecJob.tile
  generalize List.range 1024 = one
  extract_lets l envs lanes conv r two r2
  have k1 : Kept z r.st := State.noteConv_kept (VecJob.loadAll_kept h)
  have k2 : Kept z r2.st := by
    refine kept_foldl_by VRun.st _ (fun s x k => ?_) _ k1
    dsimp only
    split
    · exact VecJob.contribute_kept (VecJob.contribute_kept k)
    · exact VecJob.contribute_kept k
  exact kept_foldl_by VRun.st _ (fun _ _ k => VecJob.writeOut_kept k) _ k2

theorem VecJob.tileSteps_kept {z : State} {a0 a1 a2} :
    ∀ w ∈ VecJob.tileSteps a0 a1 a2, ∀ c s, Kept z s.st → Kept z (w.act c s).st := by
  unfold VecJob.tileSteps
  exact each_map _ (fun _ _ _ h => VecJob.tile_kept h)

theorem VecJob.writeResult_kept {z : State} {a0 a1 a2 a3 a4 a5 a6} (h : Kept z a6.st) :
    Kept z (VecJob.writeResult a0 a1 a2 a3 a4 a5 a6).st := by
  unfold VecJob.writeResult
  repeat' first
    | with_reducible assumption
    | with_reducible refine State.destsOf_kept ?_
    | with_reducible refine State.drawn_kept ?_
    | with_reducible refine State.noteConv_kept ?_
    | with_reducible refine State.slagTiles_kept ?_
    | with_reducible refine State.writeSome_kept ?_
    | simp only [kept_same]
    | split

theorem VecJob.resultStep_kept {z : State} {a0 a1 a2 a3} :
    ∀ c s, Kept z s.st → Kept z ((VecJob.resultStep a0 a1 a2 a3).act c s).st := by
  intro c s h
  exact kept_foldl_by VRun.st _ (fun _ _ k => VecJob.writeResult_kept k) _ h

theorem State.vecDone_kept {z : State} {a0 a1 a2} (h : Kept z a0) : Kept z (State.vecDone a0 a1 a2) := by
  unfold State.vecDone
  repeat' first
    | with_reducible assumption
    | simp only [kept_same]

theorem VecJob.run_kept {z : State} {a0 a1 a2} (h : Kept z a2) : Kept z (VecJob.run a0 a1 a2) := by
  unfold VecJob.run
  dsimp only
  generalize hr : runSteps VRun.st _ _ _ = r
  have k : Kept z r.st.st := hr ▸ runSteps_keeps (P := fun r : VRun => Kept z r.st) _ _
    (each_append (each_append VecJob.accSteps_kept VecJob.tileSteps_kept) (each_map _ (fun _ => VecJob.resultStep_kept)))
    (State.idleCores_kept (kept_foldl _ (fun _ _ k => kept_foldl _ (fun _ _ k => State.noteMasks_kept k) _ k) _ h))
  refine State.formSummary_kept ?_
  split
  · exact State.flaw_kept (State.drawn_kept (State.vecDone_kept k))
  · exact State.drawn_kept (State.vecDone_kept k)

theorem vecEffect_kept {z : State} {a0 a1 a2 a3} (h : Kept z a3) : Kept z (vecEffect a0 a1 a2 a3) := by
  unfold vecEffect
  try dsimp only
  repeat' first
    | with_reducible assumption
    | with_reducible refine State.formSummary_kept ?_
    | with_reducible refine State.refuse_kept ?_
    | with_reducible refine VecJob.run_kept ?_
    | split

theorem execEmap_kept {a0 a1} : ∃ t, execEmap a0 a1 = .next t ∧ Kept a1 t := by
  unfold execEmap
  repeat' first
    | with_reducible assumption
    | with_reducible refine arrayCmd_kept ?_ ?_
    | with_reducible refine refuseReserved_kept ?_
    | with_reducible refine vecEffect_kept ?_
    | intro _

theorem execEred_kept {a0 a1} : ∃ t, execEred a0 a1 = .next t ∧ Kept a1 t := by
  unfold execEred
  repeat' first
    | with_reducible assumption
    | with_reducible refine arrayCmd_kept ?_ ?_
    | with_reducible refine refuseReserved_kept ?_
    | with_reducible refine vecEffect_kept ?_
    | intro _

/-! ## Machine/ConvLanes.lean -/

theorem LaneJob.writeZ_kept {z : State} {a0 a1 a2 a3 a4 a5 a6 a7} (h : Kept z a6.st) :
    Kept z (LaneJob.writeZ a0 a1 a2 a3 a4 a5 a6 a7).st := by
  unfold LaneJob.writeZ
  repeat' first
    | with_reducible assumption
    | with_reducible refine State.destsOf_kept ?_
    | with_reducible refine State.noteConv_kept ?_
    | with_reducible refine State.writeSome_kept ?_
    | split

theorem LaneJob.tile_kept {z : State} {a0 a1 a2 a3 a4 a5} (h : Kept z a5.st) :
    Kept z (LaneJob.tile a0 a1 a2 a3 a4 a5).st := by
  unfold LaneJob.tile
  split
  · dsimp only
    have f : ∀ (s : State) (q : Vec), Kept z s → Kept z { s with vec := q } := fun s q k => kept_of k
    generalize hb : List.foldl (fun (b : Option (List Num) × State) p => _) _ _ = rb
    have kb : Kept z rb.2 := hb ▸ kept_foldl_by (fun b : Option (List Num) × State => b.2) _
      (fun _ _ k => State.readTile_kept k) _ (State.readTiles_kept (State.readTiles_kept h))
    have kw : ∀ (r : LRun) outs us, Kept z r.st → Kept z (List.foldl (LaneJob.writeZ a0 a1 a2 a3 a4 outs) r us).st :=
      fun _ _ us k => kept_foldl_by LRun.st _ (fun _ _ k => LaneJob.writeZ_kept k) us k
    split
    · exact State.slagTiles_kept (kw _ _ _ (f _ _ kb))
    · exact kw _ _ _ (f _ _ kb)
  · exact h

theorem LaneJob.step_kept {z : State} {a0 a1 a2 a3}  :
    ∀ c s, Kept z s.st → Kept z ((LaneJob.step a0 a1 a2 a3).act c s).st := by
  unfold LaneJob.step
  repeat' first
    | with_reducible assumption
    | with_reducible refine LaneJob.tile_kept ?_
    | intro _

theorem LaneJob.run_kept {z : State} {a0 a1 a2} (h : Kept z a2) : Kept z (LaneJob.run a0 a1 a2) := by
  unfold LaneJob.run
  dsimp only
  generalize hr : runSteps LRun.st _ _ _ = r
  have k : Kept z r.st.st := hr ▸ runSteps_keeps (P := fun r : LRun => Kept z r.st) _ _
    (each_map _ (fun _ => LaneJob.step_kept)) (State.idleWindows_kept (State.idleCores_kept (State.noteMasks_kept h)))
  refine State.formSummary_kept (State.stopFault_kept ?_)
  split
  · exact State.vecDone_kept k
  · exact kept_same rfl rfl rfl rfl rfl rfl rfl |>.mpr k

theorem laneConvEffect_kept {z : State} {a0 a1 a2 a3 a4} (h : Kept z a4) : Kept z (laneConvEffect a0 a1 a2 a3 a4) := by
  unfold laneConvEffect
  repeat' first
    | with_reducible assumption
    | with_reducible refine LaneJob.run_kept ?_
    | with_reducible refine State.formSummary_kept ?_
    | with_reducible refine State.refuse_kept ?_
    | split

theorem execResample_kept {a0 a1} : ∃ t, execResample a0 a1 = .next t ∧ Kept a1 t := by
  unfold execResample
  repeat' first
    | with_reducible assumption
    | with_reducible refine arrayCmd_kept ?_ ?_
    | with_reducible refine laneConvEffect_kept ?_
    | with_reducible refine refuseReserved_kept ?_
    | intro _

theorem execPool_kept {a0 a1} : ∃ t, execPool a0 a1 = .next t ∧ Kept a1 t := by
  unfold execPool
  repeat' first
    | with_reducible assumption
    | with_reducible refine arrayCmd_kept ?_ ?_
    | with_reducible refine laneConvEffect_kept ?_
    | with_reducible refine refuseReserved_kept ?_
    | intro _

theorem execVdw_kept {a0 a1} : ∃ t, execVdw a0 a1 = .next t ∧ Kept a1 t := by
  unfold execVdw
  repeat' first
    | with_reducible assumption
    | with_reducible refine arrayCmd_kept ?_ ?_
    | with_reducible refine laneConvEffect_kept ?_
    | with_reducible refine refuseReserved_kept ?_
    | intro _

/-! ## Machine/Copy.lean -/

theorem CopyJob.tile_kept {z : State} {a0 a1 a2 a3 a4 a5} (h : Kept z a5) :
    Kept z (CopyJob.tile a0 a1 a2 a3 a4 a5) := by
  unfold CopyJob.tile
  try dsimp only
  repeat' first
    | with_reducible assumption
    | with_reducible refine State.destsOf_kept ?_
    | with_reducible refine State.noteRead_kept ?_
    | with_reducible refine State.readTile_kept ?_
    | with_reducible refine State.slagTiles_kept ?_
    | with_reducible refine State.writeSlot_kept ?_
    | with_reducible refine State.writeTile_kept ?_
    | split

theorem CopyJob.step_kept {z : State} {a0 a1 a2 a3}  :
    ∀ c s, Kept z s → Kept z ((CopyJob.step a0 a1 a2 a3).act c s) := by
  unfold CopyJob.step
  repeat' first
    | with_reducible assumption
    | with_reducible refine CopyJob.tile_kept ?_
    | intro _

theorem CopyJob.run_kept {z : State} {a0 a1 a2} (h : Kept z a2) : Kept z (CopyJob.run a0 a1 a2) := by
  unfold CopyJob.run
  dsimp only
  generalize hr : runSteps id _ _ _ = r
  have k : Kept z r.st := by
    refine hr ▸ runSteps_keeps (P := Kept z) _ _ (each_map _ (fun _ => CopyJob.step_kept)) ?_
    split
    · exact State.noteMasks_kept h
    · exact State.idleCores_kept (State.noteMasks_kept h)
  split
  · exact State.flaw_kept k
  · exact k

theorem copyEffect_kept {z : State} {a0 a1 a2} (h : Kept z a2) : Kept z (copyEffect a0 a1 a2) := by
  unfold copyEffect
  try dsimp only
  repeat' first
    | with_reducible assumption
    | with_reducible refine CopyJob.run_kept ?_
    | with_reducible refine State.refuse_kept ?_
    | split

theorem execTcopy_kept {a0 a1} : ∃ t, execTcopy a0 a1 = .next t ∧ Kept a1 t := by
  unfold execTcopy
  repeat' first
    | with_reducible assumption
    | with_reducible refine arrayCmd_kept ?_ ?_
    | with_reducible refine copyEffect_kept ?_
    | with_reducible refine refuseReserved_kept ?_
    | intro _

end Sys2Proof.Machine
end

