-- ==== Sys2Proof/Laws/KeptUnits.lean ====
section
/-! SUPPORT. What `Kept` says of launches, the update unit and twins:
one lemma per function of the model that answers a state, named after it. A lemma whose conclusion is `∃ t, ... = .next t` is about
the meaning of a command. -/

-- One proof after the other: side by side they want more threads than the memory of a check holds.
set_option Elab.async false

namespace Sys2Proof.Machine

/-! ## Machine/Launch.lean -/

theorem State.loadRange_kept {z : State} {a0 a1 a2} (h : Kept z a0) : Kept z (State.loadRange a0 a1 a2) := by
  unfold State.loadRange
  repeat' first
    | with_reducible assumption
    | with_reducible refine State.putCore_kept ?_
    | with_reducible refine kept_foldl _ (fun _ _ _ => ?_) _ ?_
    | split

theorem State.startWorkOn_kept {z : State} {a0 a1} (h : Kept z a0) : Kept z (State.startWorkOn a0 a1) := by
  unfold State.startWorkOn
  repeat' first
    | with_reducible assumption
    | simp only [kept_same]

theorem State.startOn_kept {z : State} {a0 a1} (h : Kept z a0) : Kept z (State.startOn a0 a1) := by
  unfold State.startOn
  repeat' first
    | with_reducible assumption
    | with_reducible refine State.loadRange_kept ?_
    | with_reducible refine State.putCore_kept ?_
    | with_reducible refine State.putProg_kept ?_
    | with_reducible refine State.startWorkOn_kept ?_
    | split

theorem execBankProgramStart_kept {a0 a1} : ∃ t, execBankProgramStart a0 a1 = .next t ∧ Kept a1 t := by
  unfold execBankProgramStart
  repeat' first
    | with_reducible exact Kept.refl _
    | with_reducible refine State.startOn_kept ?_
    | with_reducible refine kept_whenB ?_

theorem bwaitEffect_kept {z : State} {a0 a1 a2} (h : Kept z a2) : Kept z (bwaitEffect a0 a1 a2) := by
  unfold bwaitEffect
  repeat' first
    | with_reducible assumption
    | with_reducible refine State.formSummary_kept ?_
    | with_reducible refine State.holdFor_kept ?_
    | with_reducible refine State.refuse_kept ?_
    | split

theorem refuseBank_kept {z : State} {a0 a1} (h : Kept z a1) : Kept z (refuseBank a0 a1) := by
  unfold refuseBank
  repeat' first
    | with_reducible assumption
    | with_reducible refine refuseReserved_kept ?_
    | split

theorem State.noteLaunch_kept {z : State} {a0 a1 a2 a3} (h : Kept z a0) : Kept z (State.noteLaunch a0 a1 a2 a3) := by
  unfold State.noteLaunch
  repeat' first
    | with_reducible assumption
    | with_reducible refine State.noteRead_kept ?_
    | split

theorem blaunchEffect_kept {z : State} {a0 a1 a2} (h : Kept z a2) : Kept z (blaunchEffect a0 a1 a2) := by
  unfold blaunchEffect
  repeat' first
    | with_reducible assumption
    | with_reducible refine State.formSummary_kept ?_
    | with_reducible refine State.holdFor_kept ?_
    | with_reducible refine State.holdQueueH_kept ?_
    | with_reducible refine State.noteLaunch_kept ?_
    | with_reducible refine State.refuse_kept ?_
    | simp only [kept_same]
    | split

theorem execBlaunch_kept {a0 a1} : ∃ t, execBlaunch a0 a1 = .next t ∧ Kept a1 t := by
  unfold execBlaunch
  repeat' first
    | with_reducible assumption
    | with_reducible refine arrayCmd_kept ?_ ?_
    | with_reducible refine blaunchEffect_kept ?_
    | with_reducible refine refuseBank_kept ?_
    | intro _

theorem State.freeLaunch_kept {z : State} {a0 a1} (h : Kept z a0) : Kept z (State.freeLaunch a0 a1) := by
  unfold State.freeLaunch
  repeat' first
    | with_reducible assumption
    | with_reducible refine State.formSummary_kept ?_
    | with_reducible refine State.freeHold_kept ?_
    | with_reducible refine kept_foldl _ (fun _ _ _ => ?_) _ ?_
    | split

theorem execBwait_kept {a0 a1} : ∃ t, execBwait a0 a1 = .next t ∧ Kept a1 t := by
  unfold execBwait
  repeat' first
    | with_reducible assumption
    | with_reducible refine arrayCmd_kept ?_ ?_
    | with_reducible refine bwaitEffect_kept ?_
    | with_reducible refine refuseBank_kept ?_
    | intro _

theorem State.dropWords_kept {z : State} {a0 a1} (h : Kept z a0) : Kept z (State.dropWords a0 a1) := by
  unfold State.dropWords
  repeat' first
    | with_reducible assumption
    | simp only [kept_same]

theorem execLaunchComplete_kept {a0 a1} : ∃ t, execLaunchComplete a0 a1 = .next t ∧ Kept a1 t := by
  unfold execLaunchComplete
  repeat' first
    | with_reducible exact Kept.refl _
    | with_reducible refine State.dropWords_kept ?_
    | with_reducible refine State.freeLaunch_kept ?_
    | with_reducible refine kept_whenB ?_
    | with_reducible refine kept_next ?_
    | simp only [kept_same]
    | split

/-! ## Machine/Update.lean -/

theorem HubJob.noteList_kept {z : State} {a0 a1} (h : Kept z a1) : Kept z (HubJob.noteList a0 a1) := by
  unfold HubJob.noteList
  repeat' first
    | with_reducible assumption
    | with_reducible refine State.noteRead_kept ?_
    | split

theorem HubJob.refused_kept {z : State} {a0 a1 a2 a3 a4} (h : Kept z a4) : Kept z (HubJob.refused a0 a1 a2 a3 a4) := by
  unfold HubJob.refused
  repeat' first
    | with_reducible assumption
    | with_reducible refine HubJob.noteList_kept ?_
    | with_reducible refine State.refuse_kept ?_
    | split

theorem State.startWork_kept {z : State} {a0 a1 a2 a3} (h : Kept z a0) : Kept z (State.startWork a0 a1 a2 a3) := by
  unfold State.startWork
  repeat' first
    | with_reducible assumption
    | with_reducible refine State.holdFor_kept ?_
    | simp only [kept_same]

theorem moveIngots_kept {z : State} {a0 a1 a2 a3 a4 a5} (h : Kept z a5)
    (ha0 : ∀ i a b s t, Kept z s → a0 i a b s = .ok t → Kept z t) : Kept z (moveIngots a0 a1 a2 a3 a4 a5) := by
  induction a4 generalizing a3 a5 with
  | nil => exact h
  | cons q t ih =>
    unfold moveIngots
    split
    · rename_i e; exact ih (ha0 _ _ _ _ _ h e)
    · exact State.flaw_kept h

theorem moveEffect_kept {z : State} {a0 a1 a2 a3 a4} (h : Kept z a4)
    (ha0 : ∀ e j i a b s t, Kept z s → a0 e j i a b s = .ok t → Kept z t) : Kept z (moveEffect a0 a1 a2 a3 a4) := by
  unfold moveEffect
  split
  · exact HubJob.refused_kept h
  · exact moveIngots_kept (State.destsOf_kept (State.holdQueueH_kept (HubJob.noteList_kept h)))
      (fun i a b s t k e => ha0 _ _ i a b s t k e)

theorem State.writeRow_kept {z : State} {a0 a1 a2 a3} (h : Kept z a0) : Kept z (State.writeRow a0 a1 a2 a3) := by
  unfold State.writeRow
  try dsimp only
  repeat' first
    | with_reducible assumption
    | with_reducible refine State.refuseWindow_kept ?_
    | with_reducible refine State.storeRun_kept ?_
    | split

theorem depositFrom_kept {z : State} {a0 a1 a2 a3 a4 a5 a6} (h : Kept z a4) :
    ∀ t, depositFrom a0 a1 a2 a3 a4 a5 a6 = .ok t → Kept z t := by
  have f : ∀ (s : State) (q : Upd), Kept z s → Kept z { s with upd := q } := fun s q k => kept_of k
  intro t e
  unfold depositFrom at e
  split at e
  · injection e with e
    subst e
    refine kept_ite (f _ _ (State.writeRow_kept ?_)) (State.writeRow_kept ?_)
    all_goals exact kept_ite (State.noteRead_kept (State.noteRead_kept h)) h
  · contradiction
  · contradiction

theorem depositIngot_kept {z : State} {a0 a1 a2 a3 a4} (h : Kept z a4) :
    ∀ t, depositIngot a0 a1 a2 a3 a4 = .ok t → Kept z t :=
  depositFrom_kept h

theorem gdepositEffect_kept {z : State} {a0 a1 a2} (h : Kept z a2) : Kept z (gdepositEffect a0 a1 a2) := by
  unfold gdepositEffect
  repeat' first
    | with_reducible assumption
    | (refine depositIngot_kept ?_ _ (by assumption))
    | with_reducible refine moveEffect_kept ?_ ?_
    | intro _

theorem FlushJob.store_kept {z : State} {a0 a1 a2 a3 a4 a5 a6 a7 a8} (h : Kept z a8) :
    Kept z (FlushJob.store a0 a1 a2 a3 a4 a5 a6 a7 a8) := by
  unfold FlushJob.store
  repeat' first
    | with_reducible assumption
    | with_reducible refine State.slagTiles_kept ?_
    | with_reducible refine State.writeSlot_kept ?_
    | split

theorem State.clearTile_kept {z : State} {a0 a1 a2} (h : Kept z a0) : Kept z (State.clearTile a0 a1 a2) := by
  unfold State.clearTile
  repeat' first
    | with_reducible assumption
    | with_reducible refine State.putAcc_kept ?_

theorem State.countNonFinite_kept {z : State} {a0} (h : Kept z a0) : Kept z (State.countNonFinite a0) := by
  unfold State.countNonFinite
  repeat' first
    | with_reducible assumption
    | with_reducible refine State.raise_kept ?_
    | simp only [kept_same]

theorem State.countFlush_kept {z : State} {a0 a1 a2} (h : Kept z a0) : Kept z (State.countFlush a0 a1 a2) := by
  unfold State.countFlush
  repeat' first
    | with_reducible assumption
    | with_reducible refine State.raiseIf_kept ?_
    | simp only [kept_same]

theorem FlushJob.tile_kept {z : State} {a0 a1 a2 a3 a4 a5} (h : Kept z a5.1) :
    Kept z (FlushJob.tile a0 a1 a2 a3 a4 a5).1 := by
  unfold FlushJob.tile
  try dsimp only
  repeat' first
    | with_reducible assumption
    | with_reducible refine FlushJob.store_kept ?_
    | with_reducible refine State.clearTile_kept ?_
    | with_reducible refine State.countFlush_kept ?_
    | with_reducible refine State.countNonFinite_kept ?_
    | with_reducible refine State.noteRead_kept ?_
    | with_reducible refine State.readSlot_kept ?_
    | split

theorem State.ringToRow0_kept {z : State} {a0 a1 a2 a3 a4} (h : Kept z a0) :
    Kept z (State.ringToRow0 a0 a1 a2 a3 a4) := by
  unfold State.ringToRow0
  repeat' first
    | with_reducible assumption
    | with_reducible refine State.storeRun_kept ?_

theorem State.putRowWord_kept {z : State} {a0 a1 a2 a3 a4} (h : Kept z a0) :
    Kept z (State.putRowWord a0 a1 a2 a3 a4) := by
  unfold State.putRowWord
  repeat' first
    | with_reducible assumption
    | with_reducible refine State.storeRun_kept ?_

theorem restoreFrom_kept {z : State} {a0 a1 a2 a3 a4 a5 a6 a7} (h : Kept z a6) :
    Kept z (restoreFrom a0 a1 a2 a3 a4 a5 a6 a7).2 := by
  cases a7 with
  | none => exact h
  | some n =>
    have g : Kept z (a6.ringToRow0 a0 a1 a4 n) := State.ringToRow0_kept h
    unfold restoreFrom
    dsimp only
    generalize a6.ringToRow0 a0 a1 a4 n = s at g ⊢
    generalize stepBefore a3 a2 = w
    generalize 1536 = o
    split
    · exact State.putRowWord_kept g
    · exact g

theorem restoreIngot_kept {z : State} {a0 a1 a2 a3} (h : Kept z a3) : Kept z (restoreIngot a0 a1 a2 a3).2 := by
  unfold restoreIngot
  generalize List.find? _ _ = o
  with_reducible exact restoreFrom_kept h

theorem execGdeposit_kept {a0 a1} : ∃ t, execGdeposit a0 a1 = .next t ∧ Kept a1 t := by
  unfold execGdeposit
  repeat' first
    | with_reducible assumption
    | with_reducible refine arrayCmd_kept ?_ ?_
    | with_reducible refine gdepositEffect_kept ?_
    | with_reducible refine refuseBank_kept ?_
    | intro _

theorem harvestPut_kept {z : State} {a0 a1 a2 a3 a4} (h : Kept z a4) :
    ∀ t, harvestPut a0 a1 a2 a3 a4 = .ok t → Kept z t := by
  unfold harvestPut
  repeat' first
    | with_reducible assumption
    | (refine State.writeU_kept ?_ _ (by assumption))
    | simp only [kept_same]
    | split
    | intro _
    | contradiction
    | (rename_i e; injection e with e; subst e)

theorem FlushJob.trialScales_kept {z : State} {a0 a1} (h : Kept z a1) : Kept z (FlushJob.trialScales a0 a1) := by
  unfold FlushJob.trialScales
  repeat' first
    | with_reducible assumption
    | with_reducible refine State.trialRead_kept ?_
    | with_reducible refine kept_foldl _ (fun _ _ _ => ?_) _ ?_
    | split

theorem FlushJob.run_kept {z : State} {a0 a1 a2} (h : Kept z a2) : Kept z (FlushJob.run a0 a1 a2) := by
  unfold FlushJob.run
  dsimp only
  generalize hr : runSteps Prod.fst _ _ _ = r
  have k : Kept z r.st.1 := hr ▸ runSteps_keeps (P := fun p : State × Word => Kept z p.1) _ _
    (each_map _ (fun _ _ _ k => FlushJob.tile_kept k)) (State.destsOf_kept (State.idleCores_kept (State.noteMasks_kept (FlushJob.trialScales_kept h))))
  refine State.formSummary_kept ?_
  split
  · exact State.flaw_kept k
  · exact k

theorem gflushEffect_kept {z : State} {a0 a1 a2} (h : Kept z a2) : Kept z (gflushEffect a0 a1 a2) := by
  unfold gflushEffect
  try dsimp only
  repeat' first
    | with_reducible assumption
    | with_reducible refine FlushJob.run_kept ?_
    | with_reducible refine State.formSummary_kept ?_
    | with_reducible refine State.refuse_kept ?_
    | split

theorem execGflush_kept {a0 a1} : ∃ t, execGflush a0 a1 = .next t ∧ Kept a1 t := by
  unfold execGflush
  repeat' first
    | with_reducible assumption
    | with_reducible refine arrayCmd_kept ?_ ?_
    | with_reducible refine gflushEffect_kept ?_
    | with_reducible refine refuseBank_kept ?_
    | intro _

theorem harvestIngot_kept {z : State} {a0 a1 a2 a3 a4 a5} (h : Kept z a5) :
    ∀ t, harvestIngot a0 a1 a2 a3 a4 a5 = .ok t → Kept z t := by
  unfold harvestIngot
  repeat' first
    | with_reducible assumption
    | with_reducible refine State.noteMem_kept ?_
    | (refine harvestPut_kept ?_ _ (by assumption))
    | intro _

theorem gharvEffect_kept {z : State} {a0 a1 a2} (h : Kept z a2) : Kept z (gharvEffect a0 a1 a2) := by
  unfold gharvEffect
  repeat' first
    | with_reducible assumption
    | (refine harvestIngot_kept ?_ _ (by assumption))
    | with_reducible refine moveEffect_kept ?_ ?_
    | intro _

theorem execGharv_kept {a0 a1} : ∃ t, execGharv a0 a1 = .next t ∧ Kept a1 t := by
  unfold execGharv
  repeat' first
    | with_reducible assumption
    | with_reducible refine arrayCmd_kept ?_ ?_
    | with_reducible refine gharvEffect_kept ?_
    | with_reducible refine refuseBank_kept ?_
    | intro _

theorem abortEffect_kept {z : State} {a0 a1 a2} (h : Kept z a2) : Kept z (abortEffect a0 a1 a2) := by
  unfold abortEffect
  repeat' first
    | with_reducible assumption
    | with_reducible refine HubJob.noteList_kept ?_
    | with_reducible refine HubJob.refused_kept ?_
    | with_reducible refine State.formSummary_kept ?_
    | with_reducible refine State.holdQueueH_kept ?_
    | with_reducible refine State.raise_kept ?_
    | with_reducible refine State.startWork_kept ?_
    | simp only [kept_same]
    | split

theorem execStepabort_kept {a0 a1} : ∃ t, execStepabort a0 a1 = .next t ∧ Kept a1 t := by
  unfold execStepabort
  repeat' first
    | with_reducible assumption
    | with_reducible refine abortEffect_kept ?_
    | with_reducible refine arrayCmd_kept ?_ ?_
    | with_reducible refine refuseBank_kept ?_
    | intro _

theorem abortIngot_kept {z : State} {a0 a1 a2 a3 a4} (h : Kept z a4) : Kept z (abortIngot a0 a1 a2 a3 a4).1 := by
  unfold abortIngot
  repeat' first
    | with_reducible assumption
    | with_reducible refine State.flaw_kept ?_
    | with_reducible refine State.noteCode_kept ?_
    | with_reducible refine restoreIngot_kept ?_
    | simp only [kept_same]
    | split

/-! ## Machine/Twins.lean -/

theorem State.mirrIn_kept {z : State} {a0 a1 a2 a3 a4} (h : Kept z a0) (ha4 : ∀ x0, Kept z x0 → Kept z (a4 x0)) :
    Kept z (State.mirrIn a0 a1 a2 a3 a4) := by
  unfold State.mirrIn
  repeat' first
    | with_reducible assumption
    | with_reducible refine State.arrive_kept ?_ ?_

theorem State.sendMirr_kept {z : State} {a0 a1 a2 a3 a4} (h : Kept z a0) : Kept z (State.sendMirr a0 a1 a2 a3 a4) := by
  unfold State.sendMirr
  repeat' first
    | with_reducible assumption
    | with_reducible refine State.sendOn_kept ?_

theorem State.ackImage_kept {z : State} {a0 a1 a2} (h : Kept z a0) : Kept z (State.ackImage a0 a1 a2) := by
  unfold State.ackImage
  repeat' first
    | with_reducible assumption
    | with_reducible refine State.sendMirr_kept ?_

theorem State.applyImage_kept {z : State} {a0 a1} (h : Kept z a0) : Kept z (State.applyImage a0 a1) := by
  unfold State.applyImage
  repeat' first
    | with_reducible assumption
    | with_reducible refine State.storeRun_kept ?_
    | with_reducible refine State.touchPlaces_kept ?_
    | simp only [kept_same]
    | with_reducible refine kept_foldl _ (fun _ _ _ => ?_) _ ?_

theorem State.takeImage_kept {z : State} {a0 a1 a2} (h : Kept z a0) : Kept z (State.takeImage a0 a1 a2) := by
  unfold State.takeImage
  repeat' first
    | with_reducible assumption
    | with_reducible refine State.ackImage_kept ?_
    | with_reducible refine State.applyImage_kept ?_
    | with_reducible refine State.raise_kept ?_
    | simp only [kept_same]
    | split

theorem execMirrorImage_kept {a0 a1 a2} : ∃ t, execMirrorImage a0 a1 a2 = .next t ∧ Kept a2 t := by
  unfold execMirrorImage
  repeat' first
    | with_reducible exact Kept.refl _
    | with_reducible assumption
    | with_reducible refine State.mirrIn_kept ?_ ?_
    | with_reducible refine State.takeImage_kept ?_
    | with_reducible refine kept_next ?_
    | intro _

theorem twinListEffect_kept {z : State} {a0 a1 a2 a3 a4} (h : Kept z a4) (ha2 : ∀ x0 x1 x2, Kept z x2 → Kept z (a2 x0 x1 x2)) :
    Kept z (twinListEffect a0 a1 a2 a3 a4) := by
  unfold twinListEffect
  try dsimp only
  repeat' first
    | with_reducible assumption
    | with_reducible refine HubJob.noteList_kept ?_
    | with_reducible refine HubJob.refused_kept ?_
    | with_reducible refine State.formSummary_kept ?_
    | with_reducible refine State.holdQueueH_kept ?_
    | with_reducible refine ha2 _ _ _ ?_
    | split

theorem twinListCmd_kept {a0 a1 a2 a3} (ha2 : ∀ x0 x1 x2, Kept a3 x2 → Kept a3 (a2 x0 x1 x2)) :
    ∃ t, twinListCmd a0 a1 a2 a3 = .next t ∧ Kept a3 t := by
  unfold twinListCmd
  repeat' first
    | with_reducible assumption
    | with_reducible refine arrayCmd_kept ?_ ?_
    | with_reducible refine refuseReserved_kept ?_
    | with_reducible refine twinListEffect_kept ?_ ?_
    | intro _

theorem snapRun_kept {z : State} {a0 a1 a2 a3} (h : Kept z a3) : Kept z (snapRun a0 a1 a2 a3) := by
  unfold snapRun
  repeat' first
    | with_reducible assumption
    | with_reducible refine State.destsOf_kept ?_
    | with_reducible refine State.startWork_kept ?_

theorem execTsnap_kept {a0 a1} : ∃ t, execTsnap a0 a1 = .next t ∧ Kept a1 t := by
  unfold execTsnap
  repeat' first
    | with_reducible assumption
    | with_reducible refine snapRun_kept ?_
    | with_reducible refine twinListCmd_kept ?_
    | intro _

theorem HubWork.snapped_kept {z : State} {a0 a1 a2 a3} (h : Kept z a2) (w : ∀ t, a3 = .ok t → Kept z t) :
    Kept z (HubWork.snapped a0 a1 a2 a3).1 := by
  cases a3 with
  | ok t => exact kept_of (w t rfl)
  | fault u => exact State.flaw_kept h

theorem HubWork.snapTo_kept {z : State} {a0 a1 a2 a3 a4 a5} (h : Kept z a4) :
    Kept z (HubWork.snapTo a0 a1 a2 a3 a4 a5).1 := by
  have f : ∀ (s : State) (q : Twn), Kept z s → Kept z { s with twn := q } := fun s q k => kept_of k
  cases a5 with
  | none => exact State.raise_kept (f _ _ h)
  | some bs => exact HubWork.snapped_kept h fun t e => State.writeU_kept h t e

theorem State.noteIngot_kept {z : State} {a0 a1 a2} (h : Kept z a0) : Kept z (State.noteIngot a0 a1 a2) := by
  unfold State.noteIngot
  repeat' first
    | with_reducible assumption
    | with_reducible refine State.noteCode_kept ?_
    | with_reducible refine State.noteUnsealed_kept ?_

theorem State.snapIngot_kept {z : State} {a0 a1 a2 a3 a4 a5 a6} (h : Kept z a0) :
    Kept z (State.snapIngot a0 a1 a2 a3 a4 a5 a6).1 := HubWork.snapTo_kept (State.noteIngot_kept h)

theorem State.nextMirr_kept {z : State} {a0} (h : Kept z a0) : Kept z (State.nextMirr a0) := by
  unfold State.nextMirr
  repeat' first
    | with_reducible assumption
    | simp only [kept_same]

theorem State.sendControl_kept {z : State} {a0 a1 a2} (h : Kept z a0) : Kept z (State.sendControl a0 a1 a2) := by
  unfold State.sendControl
  repeat' first
    | with_reducible assumption
    | with_reducible refine State.nextMirr_kept ?_
    | with_reducible refine State.sendMirr_kept ?_

theorem State.soldered_kept {z : State} {a0} (h : Kept z a0) : Kept z (State.soldered a0) := by
  unfold State.soldered
  repeat' first
    | with_reducible assumption
    | simp only [kept_same]

theorem State.startSolder_kept {z : State} {a0} (h : Kept z a0) : Kept z (State.startSolder a0) := by
  unfold State.startSolder
  repeat' first
    | with_reducible assumption
    | with_reducible refine State.raise_kept ?_
    | with_reducible refine State.sendControl_kept ?_
    | with_reducible refine State.soldered_kept ?_
    | simp only [kept_same]
    | split

theorem State.unsolder_kept {z : State} {a0} (h : Kept z a0) : Kept z (State.unsolder a0) := by
  unfold State.unsolder
  repeat' first
    | with_reducible assumption
    | with_reducible refine State.closeTwinAps_kept ?_
    | with_reducible refine State.raise_kept ?_
    | with_reducible refine State.sendControl_kept ?_
    | with_reducible refine State.twinWordsLost_kept ?_
    | simp only [kept_same]
    | split

theorem State.resumeHold_kept {z : State} {a0 a1} (h : Kept z a0) : Kept z (State.resumeHold a0 a1) := by
  unfold State.resumeHold
  repeat' first
    | with_reducible assumption
    | with_reducible refine State.endTwinWord_kept ?_
    | simp only [kept_same]
    | split

theorem State.putRdctl_kept {z : State} {a0 a1} (h : Kept z a0) : Kept z (State.putRdctl a0 a1) := by
  unfold State.putRdctl
  repeat' first
    | with_reducible assumption
    | with_reducible refine State.raise_kept ?_
    | simp only [kept_same]
    | split

theorem State.clearRing_kept {z : State} {a0} (h : Kept z a0) : Kept z (State.clearRing a0) := by
  unfold State.clearRing
  repeat' first
    | with_reducible assumption
    | simp only [kept_same]

theorem twinPlainEffect_kept {z : State} {a0 a1 a2 a3 a4} (h : Kept z a4) (ha2 : ∀ x0 x1, Kept z x1 → Kept z (a2 x0 x1)) :
    Kept z (twinPlainEffect a0 a1 a2 a3 a4) := by
  unfold twinPlainEffect
  repeat' first
    | with_reducible assumption
    | with_reducible refine State.refuse_kept ?_
    | with_reducible refine ha2 _ _ ?_
    | split

theorem twinPlainCmd_kept {a0 a1 a2 a3} (ha2 : ∀ x0 x1, Kept a3 x1 → Kept a3 (a2 x0 x1)) :
    ∃ t, twinPlainCmd a0 a1 a2 a3 = .next t ∧ Kept a3 t := by
  unfold twinPlainCmd
  repeat' first
    | with_reducible assumption
    | with_reducible refine arrayCmd_kept ?_ ?_
    | with_reducible refine refuseReserved_kept ?_
    | with_reducible refine twinPlainEffect_kept ?_ ?_
    | intro _

theorem recovRun_kept {z : State} {a0 a1} (h : Kept z a1) : Kept z (recovRun a0 a1) := by
  unfold recovRun
  repeat' first
    | with_reducible assumption
    | with_reducible refine State.formSummary_kept ?_
    | with_reducible refine State.holdQueueH_kept ?_

theorem execTrecov_kept {a0 a1} : ∃ t, execTrecov a0 a1 = .next t ∧ Kept a1 t := by
  unfold execTrecov
  repeat' first
    | with_reducible assumption
    | with_reducible refine recovRun_kept ?_
    | with_reducible refine twinPlainCmd_kept ?_
    | intro _

theorem pullRun_kept {z : State} {a0 a1 a2 a3} (h : Kept z a3) : Kept z (pullRun a0 a1 a2 a3) := by
  unfold pullRun
  repeat' first
    | with_reducible assumption
    | with_reducible refine State.destsOf_kept ?_
    | with_reducible refine State.startWork_kept ?_

theorem execTpull_kept {a0 a1} : ∃ t, execTpull a0 a1 = .next t ∧ Kept a1 t := by
  unfold execTpull
  repeat' first
    | with_reducible assumption
    | with_reducible refine pullRun_kept ?_
    | with_reducible refine twinListCmd_kept ?_
    | intro _

theorem State.takeAck_kept {z : State} {a0 a1 a2} (h : Kept z a0) : Kept z (State.takeAck a0 a1 a2) := by
  unfold State.takeAck
  repeat' first
    | with_reducible assumption
    | with_reducible refine State.endTwinWord_kept ?_
    | simp only [kept_same]
    | split

theorem execMirrorAck_kept {a0 a1 a2} : ∃ t, execMirrorAck a0 a1 a2 = .next t ∧ Kept a2 t := by
  unfold execMirrorAck
  repeat' first
    | with_reducible exact Kept.refl _
    | with_reducible assumption
    | with_reducible refine State.mirrIn_kept ?_ ?_
    | with_reducible refine State.takeAck_kept ?_
    | with_reducible refine kept_next ?_
    | intro _

theorem digestRun_kept {z : State} {a0 a1 a2 a3} (h : Kept z a3) : Kept z (digestRun a0 a1 a2 a3) := by
  unfold digestRun
  repeat' first
    | with_reducible assumption
    | with_reducible refine State.startWork_kept ?_

theorem execTdigest_kept {a0 a1} : ∃ t, execTdigest a0 a1 = .next t ∧ Kept a1 t := by
  unfold execTdigest
  repeat' first
    | with_reducible assumption
    | with_reducible refine digestRun_kept ?_
    | with_reducible refine twinListCmd_kept ?_
    | intro _

theorem State.compareDigests_kept {z : State} {a0 a1 a2 a3 a4} (h : Kept z a0) :
    Kept z (State.compareDigests a0 a1 a2 a3 a4) := by
  unfold State.compareDigests
  repeat' first
    | with_reducible assumption
    | with_reducible refine State.endTwinWord_kept ?_
    | with_reducible refine State.raiseIf_kept ?_
    | simp only [kept_same]

theorem dcmpRun_kept {z : State} {a0 a1} (h : Kept z a1) : Kept z (dcmpRun a0 a1) := by
  unfold dcmpRun
  repeat' first
    | with_reducible assumption
    | with_reducible refine State.compareDigests_kept ?_
    | with_reducible refine State.formSummary_kept ?_
    | with_reducible refine State.holdFor_kept ?_
    | with_reducible refine State.holdQueueH_kept ?_
    | with_reducible refine State.sendControl_kept ?_
    | simp only [kept_same]
    | split

theorem State.takePair_kept {z : State} {a0 a1 a2} (h : Kept z a0) : Kept z (State.takePair a0 a1 a2) := by
  unfold State.takePair
  repeat' first
    | with_reducible assumption
    | with_reducible refine State.compareDigests_kept ?_
    | simp only [kept_same]
    | split

theorem State.sendImage_kept {z : State} {a0 a1 a2} (h : Kept z a0) : Kept z (State.sendImage a0 a1 a2) := by
  unfold State.sendImage
  repeat' first
    | with_reducible assumption
    | with_reducible refine State.nextMirr_kept ?_
    | with_reducible refine State.sendMirr_kept ?_
    | simp only [kept_same]
    | with_reducible refine kept_foldl _ (fun _ _ _ => ?_) _ ?_

theorem State.sendReady_kept {z : State} {a0 a1 a2} (h : Kept z a0) : Kept z (State.sendReady a0 a1 a2).1 := by
  induction a1 generalizing a0 a2 with
  | zero => exact h
  | succ n ih =>
    unfold State.sendReady
    split
    · exact ih (State.sendImage_kept h)
    · exact h

theorem holdRun_kept {z : State} {a0 a1 a2} (h : Kept z a2) : Kept z (holdRun a0 a1 a2) := by
  unfold holdRun
  repeat' first
    | with_reducible assumption
    | with_reducible refine State.holdFor_kept ?_
    | with_reducible refine State.holdQueueH_kept ?_
    | with_reducible refine State.raise_kept ?_
    | with_reducible refine State.raiseIf_kept ?_
    | simp only [kept_same]

theorem execThold_kept {a0 a1} : ∃ t, execThold a0 a1 = .next t ∧ Kept a1 t := by
  unfold execThold
  repeat' first
    | with_reducible assumption
    | with_reducible refine holdRun_kept ?_
    | with_reducible refine twinPlainCmd_kept ?_
    | intro _

theorem verifyRun_kept {z : State} {a0 a1 a2} (h : Kept z a2) : Kept z (verifyRun a0 a1 a2) := by
  unfold verifyRun
  repeat' first
    | with_reducible assumption
    | with_reducible refine State.startWork_kept ?_

theorem execTverify_kept {a0 a1} : ∃ t, execTverify a0 a1 = .next t ∧ Kept a1 t := by
  unfold execTverify
  repeat' first
    | with_reducible assumption
    | with_reducible refine twinListCmd_kept ?_
    | with_reducible refine verifyRun_kept ?_
    | intro _

theorem State.endVerify_kept {z : State} {a0 a1} (h : Kept z a0) : Kept z (State.endVerify a0 a1) := by
  unfold State.endVerify
  repeat' first
    | with_reducible assumption
    | with_reducible refine State.endTwinWord_kept ?_
    | simp only [kept_same]

theorem execSolderTimeout_kept {a0} : ∃ t, execSolderTimeout a0 = .next t ∧ Kept a0 t := by
  unfold execSolderTimeout
  repeat' first
    | with_reducible exact Kept.refl _
    | with_reducible refine State.raise_kept ?_
    | with_reducible refine kept_whenB ?_
    | simp only [kept_same]

theorem execSolderTransfer_kept {a0} : ∃ t, execSolderTransfer a0 = .next t ∧ Kept a0 t := by
  unfold execSolderTransfer
  repeat' first
    | with_reducible exact Kept.refl _
    | with_reducible assumption
    | with_reducible refine State.mirrIn_kept ?_ ?_
    | with_reducible refine State.soldered_kept ?_
    | with_reducible refine kept_next ?_
    | simp only [kept_same]
    | split
    | intro _

theorem execUnsolderTransfer_kept {a0} : ∃ t, execUnsolderTransfer a0 = .next t ∧ Kept a0 t := by
  unfold execUnsolderTransfer
  repeat' first
    | with_reducible exact Kept.refl _
    | with_reducible assumption
    | with_reducible refine State.loseTwin_kept ?_
    | with_reducible refine State.mirrIn_kept ?_ ?_
    | with_reducible refine kept_next ?_
    | intro _

theorem execDigestTransfer_kept {a0 a1 a2} : ∃ t, execDigestTransfer a0 a1 a2 = .next t ∧ Kept a2 t := by
  unfold execDigestTransfer
  repeat' first
    | with_reducible exact Kept.refl _
    | with_reducible assumption
    | with_reducible refine State.mirrIn_kept ?_ ?_
    | with_reducible refine State.takePair_kept ?_
    | with_reducible refine kept_next ?_
    | intro _

theorem State.feedVerify_kept {z : State} {a0 a1} (h : Kept z a0) : Kept z (State.feedVerify a0 a1) := by
  unfold State.feedVerify
  repeat' first
    | with_reducible assumption
    | with_reducible refine State.endVerify_kept ?_
    | simp only [kept_same]
    | split

theorem State.takePairs_kept {z : State} {a0 a1} (h : Kept z a0) : Kept z (State.takePairs a0 a1) := by
  unfold State.takePairs
  repeat' first
    | with_reducible assumption
    | with_reducible refine State.feedVerify_kept ?_
    | simp only [kept_same]
    | split

theorem execVerifyTransfer_kept {a0 a1} : ∃ t, execVerifyTransfer a0 a1 = .next t ∧ Kept a1 t := by
  unfold execVerifyTransfer
  repeat' first
    | with_reducible exact Kept.refl _
    | with_reducible assumption
    | with_reducible refine State.mirrIn_kept ?_ ?_
    | with_reducible refine State.takePairs_kept ?_
    | with_reducible refine kept_next ?_
    | intro _

theorem mirrorRun_kept {z : State} {a0 a1 a2} (h : Kept z a2) : Kept z (mirrorRun a0 a1 a2) := by
  unfold mirrorRun
  repeat' first
    | with_reducible assumption
    | with_reducible refine State.startWork_kept ?_
    | simp only [kept_same]

theorem execTmirror_kept {a0 a1} : ∃ t, execTmirror a0 a1 = .next t ∧ Kept a1 t := by
  unfold execTmirror
  repeat' first
    | with_reducible assumption
    | with_reducible refine mirrorRun_kept ?_
    | with_reducible refine twinListCmd_kept ?_
    | intro _

theorem execTdcmp_kept {a0 a1} : ∃ t, execTdcmp a0 a1 = .next t ∧ Kept a1 t := by
  unfold execTdcmp
  try dsimp only
  repeat' first
    | with_reducible exact Kept.refl _
    | with_reducible assumption
    | with_reducible refine dcmpRun_kept ?_
    | with_reducible refine twinPlainCmd_kept ?_
    | with_reducible refine kept_next ?_
    | split
    | intro _

theorem State.noteDigest_kept {z : State} {a0 a1 a2 a3} (h : Kept z a0) : Kept z (State.noteDigest a0 a1 a2 a3) := by
  unfold State.noteDigest
  try dsimp only
  repeat' first
    | with_reducible assumption
    | with_reducible refine State.noteRead_kept ?_
    | split

theorem rdigRun_kept {z : State} {a0 a1 a2} (h : Kept z a2) : Kept z (rdigRun a0 a1 a2) := by
  unfold rdigRun
  try dsimp only
  repeat' first
    | with_reducible assumption
    | with_reducible refine State.flaw_kept ?_
    | with_reducible refine State.formSummary_kept ?_
    | with_reducible refine State.holdQueueH_kept ?_
    | with_reducible refine State.noteDigest_kept ?_
    | split

theorem execTrdig_kept {a0 a1} : ∃ t, execTrdig a0 a1 = .next t ∧ Kept a1 t := by
  unfold execTrdig
  repeat' first
    | with_reducible assumption
    | with_reducible refine rdigRun_kept ?_
    | with_reducible refine twinPlainCmd_kept ?_
    | intro _

theorem tmarkEffect_kept {z : State} {a0 a1 a2} (h : Kept z a2) : Kept z (tmarkEffect a0 a1 a2) := by
  unfold tmarkEffect
  repeat' first
    | with_reducible assumption
    | with_reducible refine State.formSummary_kept ?_
    | with_reducible refine State.raise_kept ?_
    | simp only [kept_same]
    | split

theorem execTmark_kept {a0 a1} : ∃ t, execTmark a0 a1 = .next t ∧ Kept a1 t := by
  unfold execTmark
  repeat' first
    | with_reducible assumption
    | with_reducible refine arrayCmd_kept ?_ ?_
    | with_reducible refine refuseReserved_kept ?_
    | with_reducible refine tmarkEffect_kept ?_
    | intro _

theorem State.engineDigest_kept {z : State} {a0} (h : Kept z a0) : Kept z (State.engineDigest a0) := by
  unfold State.engineDigest
  repeat' first
    | with_reducible assumption
    | with_reducible refine State.forget_kept ?_
    | with_reducible refine State.noteDigest_kept ?_
    | with_reducible refine State.raiseIf_kept ?_
    | simp only [kept_same]

theorem execRangeDigestComplete_kept {a0} : ∃ t, execRangeDigestComplete a0 = .next t ∧ Kept a0 t := by
  unfold execRangeDigestComplete
  repeat' first
    | with_reducible exact Kept.refl _
    | with_reducible refine State.engineDigest_kept ?_
    | with_reducible refine State.fetch_kept ?_
    | with_reducible refine kept_whenB ?_
    | simp only [kept_same]
    | split

theorem sendVerify_kept {z : State} {a0 a1 a2} (h : Kept z a2) : Kept z (sendVerify a0 a1 a2) := by
  induction a0 generalizing a1 a2 with
  | zero => exact h
  | succ n ih =>
    unfold sendVerify
    split
    · exact h
    · exact ih (State.sendControl_kept h)

theorem State.sendDigests_kept {z : State} {a0 a1 a2} (h : Kept z a0) : Kept z (State.sendDigests a0 a1 a2) := by
  unfold State.sendDigests
  repeat' first
    | with_reducible assumption
    | with_reducible refine State.feedVerify_kept ?_
    | with_reducible refine State.holdFor_kept ?_
    | with_reducible refine sendVerify_kept ?_

theorem State.endWork_kept {z : State} {a0 a1} (h : Kept z a0) : Kept z (State.endWork a0 a1) := by
  unfold State.endWork
  repeat' first
    | with_reducible assumption
    | with_reducible refine State.endTwinWord_kept ?_
    | with_reducible refine State.formSummary_kept ?_
    | with_reducible refine State.freeHold_kept ?_
    | with_reducible refine State.holdFor_kept ?_
    | with_reducible refine State.sendDigests_kept ?_
    | simp only [kept_same]
    | split

theorem State.putWork_kept {z : State} {a0 a1} (h : Kept z a0) : Kept z (State.putWork a0 a1) := by
  unfold State.putWork
  repeat' first
    | with_reducible assumption
    | simp only [kept_same]

theorem State.settleWork_kept {z : State} {a0 a1} (h : Kept z a0) : Kept z (State.settleWork a0 a1) := by
  unfold State.settleWork
  try dsimp only
  repeat' first
    | with_reducible assumption
    | with_reducible refine State.endWork_kept ?_
    | with_reducible refine State.putWork_kept ?_
    | split

theorem pullRowStart_kept {z : State} {a0 a1 a2 a3 a4 a5} (h : Kept z a4) :
    Kept z (pullRowStart a0 a1 a2 a3 a4 a5) := by
  unfold pullRowStart
  repeat' first
    | with_reducible assumption
    | with_reducible refine State.startTrans_kept ?_

theorem State.takeDigest_kept {z : State} {a0 a1 a2 a3} (h : Kept z a0) : Kept z (State.takeDigest a0 a1 a2 a3).1 := by
  unfold State.takeDigest
  repeat' first
    | with_reducible assumption
    | with_reducible refine State.drawn_kept ?_
    | with_reducible refine State.noteIngot_kept ?_
    | with_reducible refine State.raise_kept ?_
    | simp only [kept_same]
    | split

theorem State.workIngot_kept {z : State} {a0 a1 a2 a3 a4 a5} (h : Kept z a0) :
    Kept z (State.workIngot a0 a1 a2 a3 a4 a5).1 := by
  unfold State.workIngot
  repeat' first
    | with_reducible assumption
    | with_reducible refine State.flaw_kept ?_
    | with_reducible refine State.noteIngot_kept ?_
    | with_reducible refine State.sendReady_kept ?_
    | with_reducible refine State.snapIngot_kept ?_
    | with_reducible refine State.takeDigest_kept ?_
    | with_reducible refine abortIngot_kept ?_
    | with_reducible refine pullRowStart_kept ?_
    | with_reducible refine kept_foldl _ (fun _ _ _ => ?_) _ ?_
    | split

theorem State.workStep_kept {z : State} {a0} (h : Kept z a0) : ∀ t, State.workStep a0 = some t → Kept z t := by
  unfold State.workStep
  intro t e
  split at e
  · contradiction
  · split at e
    · contradiction
    · split at e
      · contradiction
      · injection e with e
        subst e
        split
        · exact State.settleWork_kept h
        · rename_i w _ _ _ b _ _ i row _ _
          have k := State.workIngot_kept (a1 := w) (a2 := b.entry) (a3 := i) (a4 := b.bank) (a5 := row) h
          split
          · rename_i q
            rw [q] at k
            exact State.settleWork_kept k
          · rename_i q
            rw [q] at k
            exact State.settleWork_kept k

end Sys2Proof.Machine
end

