-- ==== Sys2Proof/Laws/KeptPower.lean ====
section
/-! SUPPORT. What `Kept` says of functions, register reads, firmware, supplies and resets:
one lemma per function of the model that answers a state, named after it. A lemma whose conclusion is `∃ t, ... = .next t` is about
the meaning of a command. -/

-- One proof after the other: side by side they want more threads than the memory of a check holds.
set_option Elab.async false

namespace Sys2Proof.Machine

/-! ## Machine/Functions.lean -/

theorem State.epochFails_kept {z : State} {a0 a1 a2} (h : Kept z a0) : Kept z (State.epochFails a0 a1 a2) := by
  unfold State.epochFails
  repeat' first
    | with_reducible assumption
    | with_reducible refine State.putFn_kept ?_
    | with_reducible refine State.raise_kept ?_

theorem State.refreshCap_kept {z : State} {a0} (h : Kept z a0) : Kept z (State.refreshCap a0) := by
  unfold State.refreshCap
  repeat' first
    | with_reducible assumption
    | simp only [kept_same]
    | split

theorem State.moveSet_kept {z : State} {a0 a1 a2} (h : Kept z a0) : Kept z (State.moveSet a0 a1 a2) := by
  unfold State.moveSet
  repeat' first
    | with_reducible assumption
    | with_reducible refine State.endSwarf_kept ?_
    | with_reducible refine State.refreshCap_kept ?_
    | simp only [kept_same]
    | split

theorem State.writeEpoch_kept {z : State} {a0 a1 a2 a3} (h : Kept z a0) : Kept z (State.writeEpoch a0 a1 a2 a3) := by
  unfold State.writeEpoch
  repeat' first
    | with_reducible assumption
    | with_reducible refine State.epochFails_kept ?_
    | with_reducible refine State.moveSet_kept ?_
    | with_reducible refine State.putFn_kept ?_
    | with_reducible refine State.raise_kept ?_
    | split

theorem State.stopMdv_kept {z : State} {a0} (h : Kept z a0) : Kept z (State.stopMdv a0) := by
  unfold State.stopMdv
  repeat' first
    | with_reducible assumption
    | with_reducible refine State.raise_kept ?_
    | with_reducible refine State.setFnState_kept ?_
    | split

theorem State.stopFn_kept {z : State} {a0 a1} (h : Kept z a0) : Kept z (State.stopFn a0 a1) := by
  unfold State.stopFn
  repeat' first
    | with_reducible assumption
    | with_reducible refine State.aryRest_kept ?_
    | with_reducible refine State.conductorStop_kept ?_
    | with_reducible refine State.folRest_kept ?_
    | with_reducible refine State.setFnState_kept ?_
    | with_reducible refine State.stopMdv_kept ?_
    | with_reducible refine State.tmvRest_kept ?_
    | split

theorem State.goSwitch_kept {z : State} {a0 a1} (h : Kept z a0) : Kept z (State.goSwitch a0 a1) := by
  unfold State.goSwitch
  repeat' first
    | with_reducible assumption
    | with_reducible refine State.setFnState_kept ?_
    | simp only [kept_same]
    | split

theorem State.goFn_kept {z : State} {a0 a1} (h : Kept z a0) : Kept z (State.goFn a0 a1) := by
  unfold State.goFn
  repeat' first
    | with_reducible assumption
    | with_reducible refine State.conductorGo_kept ?_
    | with_reducible refine State.drainAll_kept ?_
    | with_reducible refine State.goSwitch_kept ?_
    | with_reducible refine State.setFnState_kept ?_
    | split

theorem State.writeFn_kept {z : State} {a0 a1 a2 a3} (h : Kept z a0) : Kept z (State.writeFn a0 a1 a2 a3) := by
  unfold State.writeFn
  repeat' first
    | with_reducible assumption
    | with_reducible refine State.goFn_kept ?_
    | with_reducible refine State.stopFn_kept ?_
    | with_reducible refine State.writeEpoch_kept ?_
    | split

/-! ## Machine/Registers.lean -/

theorem State.crwAdvance_kept {z : State} {a0} (h : Kept z a0) : Kept z (State.crwAdvance a0) := by
  unfold State.crwAdvance
  repeat' first
    | with_reducible assumption
    | simp only [kept_same]

theorem State.afterCrwData_kept {z : State} {a0} (h : Kept z a0) : Kept z (State.afterCrwData a0) := by
  unfold State.afterCrwData
  repeat' first
    | with_reducible assumption
    | with_reducible refine State.crwAdvance_kept ?_
    | with_reducible refine State.raise_kept ?_
    | split

theorem State.clearRc_kept {z : State} {a0 a1 a2} (h : Kept z a0) : Kept z (State.clearRc a0 a1 a2) := by
  unfold State.clearRc
  repeat' first
    | with_reducible assumption
    | with_reducible refine State.putPort_kept ?_
    | simp only [kept_same]
    | split

theorem State.afterFlashData_kept {z : State} {a0} (h : Kept z a0) : Kept z (State.afterFlashData a0) := by
  unfold State.afterFlashData
  repeat' first
    | with_reducible assumption
    | simp only [kept_same]

theorem State.afterRead_kept {z : State} {a0 a1} (h : Kept z a0) : Kept z (State.afterRead a0 a1) := by
  unfold State.afterRead
  repeat' first
    | with_reducible assumption
    | with_reducible refine State.afterCrwData_kept ?_
    | with_reducible refine State.afterFlashData_kept ?_
    | with_reducible refine State.clearRc_kept ?_
    | split

/-! ## Machine/Firmware.lean -/

theorem State.commitSvn_kept {z : State} {a0} (h : Kept z a0) : Kept z (State.commitSvn a0) := by
  unfold State.commitSvn
  repeat' first
    | with_reducible assumption
    | simp only [kept_same]

theorem State.startImage_kept {z : State} {a0 a1 a2 a3} (h : Kept z a0) : Kept z (State.startImage a0 a1 a2 a3) := by
  unfold State.startImage
  repeat' first
    | with_reducible assumption
    | simp only [kept_same]

theorem State.installImage_kept {z : State} {a0 a1} (h : Kept z a0) : Kept z (State.installImage a0 a1) := by
  unfold State.installImage
  repeat' first
    | with_reducible assumption
    | simp only [kept_same]

theorem State.verified_kept {z : State} {a0 a1} (h : Kept z a0) : Kept z (State.verified a0 a1).1 := by
  unfold State.verified
  repeat' first
    | with_reducible assumption
    | with_reducible refine State.installImage_kept ?_
    | with_reducible refine State.raise_kept ?_
    | split

theorem State.bootType_kept {z : State} {a0 a1} (h : Kept z a0) : Kept z (State.bootType a0 a1).1 := by
  unfold State.bootType
  try dsimp only
  repeat' first
    | with_reducible assumption
    | with_reducible refine State.raise_kept ?_
    | with_reducible refine State.raiseIf_kept ?_
    | with_reducible refine State.startImage_kept ?_
    | split

theorem State.bootTypes_kept {z : State} {a0 a1} (h : Kept z a0) : Kept z (State.bootTypes a0 a1).1 := by
  induction a1 generalizing a0 with
  | nil => exact h
  | cons t l ih =>
    unfold State.bootTypes
    dsimp only
    split
    · exact ih (State.bootType_kept h)
    · exact State.bootType_kept h

/-! ## Machine/Supply.lean -/

theorem State.wakeUp_kept {z : State} {a0} (h : Kept z a0) : Kept z (State.wakeUp a0) := by
  unfold State.wakeUp
  repeat' first
    | with_reducible assumption
    | simp only [kept_same]
    | split

theorem State.requestPs_kept {z : State} {a0 a1} (h : Kept z a0) : Kept z (State.requestPs a0 a1) := by
  unfold State.requestPs
  repeat' first
    | with_reducible assumption
    | with_reducible refine State.raise_kept ?_
    | with_reducible refine State.wakeUp_kept ?_
    | simp only [kept_same]
    | split

theorem State.putPstate_kept {z : State} {a0 a1} (h : Kept z a0) : Kept z (State.putPstate a0 a1) := by
  unfold State.putPstate
  try dsimp only
  repeat' first
    | with_reducible assumption
    | with_reducible refine State.requestPs_kept ?_
    | split

theorem State.logPower_kept {z : State} {a0 a1 a2} (h : Kept z a0) : Kept z (State.logPower a0 a1 a2) := by
  unfold State.logPower
  repeat' first
    | with_reducible assumption
    | simp only [kept_same]

theorem State.reverted_kept {z : State} {a0 a1} (h : Kept z a0) : Kept z (State.reverted a0 a1) := by
  unfold State.reverted
  repeat' first
    | with_reducible assumption
    | with_reducible refine State.raise_kept ?_
    | simp only [kept_same]

theorem State.runWakes_kept {z : State} {a0} (h : Kept z a0) : Kept z (State.runWakes a0) := by
  unfold State.runWakes
  repeat' first
    | with_reducible assumption
    | with_reducible refine State.wakeUp_kept ?_
    | split

theorem State.mgtWake_kept {z : State} {a0} (h : Kept z a0) : Kept z (State.mgtWake a0) := by
  unfold State.mgtWake
  repeat' first
    | with_reducible assumption
    | with_reducible refine State.wakeUp_kept ?_
    | split

theorem State.linksTrain_kept {z : State} {a0} (h : Kept z a0) : Kept z (State.linksTrain a0) := by
  unfold State.linksTrain
  repeat' first
    | with_reducible assumption
    | with_reducible refine State.putPort_kept ?_
    | with_reducible refine kept_foldl _ (fun _ _ _ => ?_) _ ?_

theorem State.railsOff_kept {z : State} {a0} (h : Kept z a0) : Kept z (State.railsOff a0) := by
  unfold State.railsOff
  refine State.settleAttn_kept ⟨h.1, fun i => ?_⟩
  exact ⟨rfl, rfl, Nat.zero_le _, Nat.zero_le _, Nat.zero_le _, Nat.zero_le _, nofun, (h.2 i).fence⟩

theorem State.shutDown_kept {z : State} {a0} (h : Kept z a0) : Kept z (State.shutDown a0) := by
  unfold State.shutDown
  repeat' first
    | with_reducible assumption
    | with_reducible refine State.railsOff_kept ?_
    | simp only [kept_same]

theorem execMainSupplyLoss_kept {a0} : ∃ t, execMainSupplyLoss a0 = .next t ∧ Kept a0 t := by
  unfold execMainSupplyLoss
  repeat' first
    | with_reducible exact Kept.refl _
    | with_reducible refine State.logPower_kept ?_
    | with_reducible refine State.loseRing_kept ?_
    | with_reducible refine State.shutDown_kept ?_
    | with_reducible refine kept_whenB ?_

theorem execThermalShutdown_kept {a0 a1} : ∃ t, execThermalShutdown a0 a1 = .next t ∧ Kept a1 t := by
  unfold execThermalShutdown
  repeat' first
    | with_reducible exact Kept.refl _
    | with_reducible refine State.logPower_kept ?_
    | with_reducible refine State.loseRing_kept ?_
    | with_reducible refine State.quenchNow_kept ?_
    | with_reducible refine State.shutDown_kept ?_
    | with_reducible refine kept_whenB ?_
    | simp only [kept_same]

theorem State.linksOff_kept {z : State} {a0} (h : Kept z a0) : Kept z (State.linksOff a0) := by
  unfold State.linksOff
  repeat' first
    | with_reducible assumption
    | with_reducible refine State.closeSession_kept ?_
    | with_reducible refine State.loseRing_kept ?_
    | with_reducible refine State.loseTwin_kept ?_
    | with_reducible refine State.putPort_kept ?_
    | with_reducible refine kept_foldl _ (fun _ _ _ => ?_) _ ?_

theorem State.enterPs_kept {z : State} {a0 a1} (h : Kept z a0) : Kept z (State.enterPs a0 a1) := by
  unfold State.enterPs
  repeat' first
    | with_reducible assumption
    | with_reducible refine State.linksOff_kept ?_
    | with_reducible refine State.loseRing_kept ?_
    | with_reducible refine State.railsOff_kept ?_
    | simp only [kept_same]
    | split

theorem execPstateEntryComplete_kept {a0} : ∃ t, execPstateEntryComplete a0 = .next t ∧ Kept a0 t := by
  unfold execPstateEntryComplete
  repeat' first
    | with_reducible exact Kept.refl _
    | with_reducible refine State.enterPs_kept ?_
    | with_reducible refine State.settleAttn_kept ?_
    | with_reducible refine kept_next ?_
    | simp only [kept_same]
    | split

theorem State.zeroT0_kept {z : State} {a0} (h : Kept z a0) : Kept z (State.zeroT0 a0) :=
  kept_of h (hm := smWf_clear 0 _ _ _) (hh := fun _ => rfl)

theorem State.revertPair_kept {z : State} {a0} (h : Kept z a0) : Kept z (State.revertPair a0) := by
  unfold State.revertPair
  repeat' first
    | with_reducible assumption
    | simp only [kept_same]

theorem State.revertPs3_kept {z : State} {a0} (h : Kept z a0) : Kept z (State.revertPs3 a0) := by
  unfold State.revertPs3
  repeat' first
    | with_reducible assumption
    | with_reducible refine State.revertPair_kept ?_
    | simp only [kept_same]

theorem State.clearRecords_kept {z : State} {a0} (h : Kept z a0) : Kept z (State.clearRecords a0) := by
  have e : a0.cnd.cleared.loops = a0.cnd.loops := rfl
  have q : a0.sheet.cleared.qF = a0.sheet.qF ∧ a0.sheet.cleared.qB = a0.sheet.qB ∧ a0.sheet.cleared.qH = a0.sheet.qH :=
    ⟨rfl, rfl, rfl⟩
  unfold State.clearRecords
  refine (kept_same e q.1 q.2.1 q.2.2 ?_ rfl rfl).mpr h
  rfl

theorem State.zeroT0T1_kept {z : State} {a0} (h : Kept z a0) : Kept z (State.zeroT0T1 a0) :=
  kept_of h (hm := smWf_clear 0 _ _ _) (hh := fun _ => rfl)

theorem State.leavePs_kept {z : State} {a0 a1 a2} (h : Kept z a0) : Kept z (State.leavePs a0 a1 a2) := by
  unfold State.leavePs
  repeat' first
    | with_reducible assumption
    | with_reducible refine State.clearRecords_kept ?_
    | with_reducible refine State.linksTrain_kept ?_
    | with_reducible refine State.revertPs3_kept ?_
    | with_reducible refine State.reverted_kept ?_
    | with_reducible refine State.trainDevices_kept ?_
    | with_reducible refine State.zeroT0_kept ?_
    | with_reducible refine State.zeroT0T1_kept ?_
    | simp only [kept_same]
    | split

theorem execPstateExitComplete_kept {a0 a1} : ∃ t, execPstateExitComplete a0 a1 = .next t ∧ Kept a1 t := by
  unfold execPstateExitComplete
  repeat' first
    | with_reducible exact Kept.refl _
    | with_reducible refine State.drainAll_kept ?_
    | with_reducible refine State.leavePs_kept ?_
    | with_reducible refine State.settleAttn_kept ?_
    | with_reducible refine kept_whenB ?_
    | simp only [kept_same]
    | split

theorem execPwrEnLow_kept {a0} : ∃ t, execPwrEnLow a0 = .next t ∧ Kept a0 t := by
  unfold execPwrEnLow
  repeat' first
    | with_reducible exact Kept.refl _
    | with_reducible refine State.logPower_kept ?_
    | with_reducible refine State.loseRing_kept ?_
    | with_reducible refine kept_whenB ?_
    | simp only [kept_same]
    | split

theorem execStandbySupplyLoss_kept {a0} : ∃ t, execStandbySupplyLoss a0 = .next t ∧ Kept a0 t := by
  unfold execStandbySupplyLoss
  repeat' first
    | with_reducible exact Kept.refl _
    | with_reducible refine State.loseRing_kept ?_
    | with_reducible refine State.shutDown_kept ?_
    | with_reducible refine kept_whenB ?_
    | simp only [kept_same]
    | split

/-! ## Machine/Resets.lean -/

theorem State.standsAt_kept {z : State} {a0 a1} (h : Kept z a0) : Kept z (State.standsAt a0 a1) := by
  unfold State.standsAt
  repeat' first
    | with_reducible assumption
    | simp only [kept_same]

theorem State.phase9_kept {z : State} {a0 a1} (h : Kept z a0) : Kept z (State.phase9 a0 a1) := by
  unfold State.phase9
  repeat' first
    | with_reducible assumption
    | with_reducible refine State.putPort_kept ?_
    | with_reducible refine State.raise_kept ?_
    | with_reducible refine kept_foldl _ (fun _ _ _ => ?_) _ ?_
    | split

theorem State.logFails_kept {z : State} {a0 a1 a2} (h : Kept z a0) : Kept z (State.logFails a0 a1 a2) := by
  unfold State.logFails
  repeat' first
    | with_reducible assumption
    | with_reducible refine State.raiseIf_kept ?_
    | simp only [kept_same]

theorem State.powerBist_kept {z : State} {a0 a1 a2} (h : Kept z a0) : Kept z (State.powerBist a0 a1 a2) := by
  unfold State.powerBist
  repeat' first
    | with_reducible assumption
    | with_reducible refine State.logFails_kept ?_
    | simp only [kept_same]

theorem State.phases7_kept {z : State} {a0 a1 a2} (h : Kept z a0) : Kept z (State.phases7 a0 a1 a2) := by
  unfold State.phases7
  repeat' first
    | with_reducible assumption
    | with_reducible refine State.phase9_kept ?_
    | with_reducible refine State.powerBist_kept ?_
    | with_reducible refine State.standsAt_kept ?_
    | simp only [kept_same]

theorem execArrayResetComplete_kept {a0} : ∃ t, execArrayResetComplete a0 = .next t ∧ Kept a0 t := by
  unfold execArrayResetComplete
  repeat' first
    | with_reducible exact Kept.refl _
    | with_reducible refine State.stopArray_kept ?_
    | with_reducible refine kept_whenB ?_
    | simp only [kept_same]

theorem State.phase4_kept {z : State} {a0} (h : Kept z a0) : Kept z (State.phase4 a0) := by
  have f : ∀ (s : State) (p : Pwr), Kept z s → Kept z { s with pwr := p } := fun s p k => kept_of k
  unfold State.phase4
  refine f _ _ (kept_of h (hf := fence_fewer fun i _ hi => ?_))
  rw [bitAt_or] at hi ⊢
  rw [Bool.or_self] at hi
  rw [hi, Bool.or_true]

theorem State.phase5_kept {z : State} {a0 a1} (h : Kept z a0) : Kept z (State.phase5 a0 a1).1 := by
  unfold State.phase5
  repeat' first
    | with_reducible assumption
    | with_reducible refine State.joinPort_kept ?_
    | with_reducible refine State.portDown_kept ?_
    | with_reducible refine State.portUp_kept ?_
    | with_reducible refine State.setFnState_kept ?_
    | split

theorem State.stopAt_kept {z : State} {a0 a1 a2} (h : Kept z a0) : Kept z (State.stopAt a0 a1 a2) := by
  unfold State.stopAt
  repeat' first
    | with_reducible assumption
    | with_reducible refine State.raise_kept ?_
    | simp only [kept_same]

theorem State.phases4_kept {z : State} {a0 a1 a2} (h : Kept z a0) : Kept z (State.phases4 a0 a1 a2) := by
  unfold State.phases4
  dsimp only
  split
  · exact State.standsAt_kept h
  · have k := State.phase4_kept h
    split
    · exact State.standsAt_kept k
    · have k := State.phase5_kept (a1 := a2) k
      split
      · rename_i q
        rw [q] at k
        exact State.stopAt_kept k
      · rename_i q
        rw [q] at k
        split
        · exact State.standsAt_kept k
        · have k := State.trainDevices_kept (a1 := a2.trained) k
          split
          · exact State.stopAt_kept k
          · exact State.phases7_kept (State.setFnState_kept k)

theorem State.cutTest_kept {z : State} {a0} (h : Kept z a0) : Kept z (State.cutTest a0) := by
  unfold State.cutTest
  repeat' first
    | with_reducible assumption
    | with_reducible refine State.drawn_kept ?_
    | simp only [kept_same]
    | split

theorem State.warmBase_kept {z : State} {a0 a1} (h : Kept z a0) : Kept z (State.warmBase a0 a1) := by
  unfold State.warmBase
  dsimp only
  generalize hs : State.cutTest _ = s
  have k : Kept z s := hs ▸ State.cutTest_kept (kept_ite (State.repairDone_kept h) h)
  refine ⟨k.1, fun i => ?_⟩
  exact ⟨smWf_clear 0 _ _ _ (smWf_clear 0 _ _ _ (k.2 i).mem), rfl, Nat.zero_le _, Nat.zero_le _, Nat.zero_le _,
    Nat.zero_le _, nofun, (k.2 i).fence⟩

theorem State.warmReset_kept {z : State} {a0 a1 a2} (h : Kept z a0) : Kept z (State.warmReset a0 a1 a2) := by
  unfold State.warmReset
  repeat' first
    | with_reducible assumption
    | with_reducible refine State.phases4_kept ?_
    | with_reducible refine State.reverted_kept ?_
    | with_reducible refine State.settleAttn_kept ?_
    | with_reducible refine State.warmBase_kept ?_

theorem State.putSysReset_kept {z : State} {a0 a1 a2} (h : Kept z a0) : Kept z (State.putSysReset a0 a1 a2) := by
  unfold State.putSysReset
  repeat' first
    | with_reducible assumption
    | with_reducible refine State.warmReset_kept ?_
    | split

theorem State.askArrayReset_kept {z : State} {a0} (h : Kept z a0) : Kept z (State.askArrayReset a0) := by
  unfold State.askArrayReset
  repeat' first
    | with_reducible assumption
    | with_reducible refine State.raise_kept ?_
    | simp only [kept_same]
    | split

theorem State.resetPorts_kept {z : State} {a0 a1} (h : Kept z a0) : Kept z (State.resetPorts a0 a1) := by
  unfold State.resetPorts
  repeat' first
    | with_reducible assumption
    | with_reducible refine State.closeSession_kept ?_
    | with_reducible refine State.retrainPorts_kept ?_
    | simp only [kept_same]
    | split

theorem State.putRstCtrl_kept {z : State} {a0 a1} (h : Kept z a0) : Kept z (State.putRstCtrl a0 a1) := by
  unfold State.putRstCtrl
  repeat' first
    | with_reducible assumption
    | with_reducible refine State.askArrayReset_kept ?_
    | with_reducible refine State.resetPorts_kept ?_
    | split

theorem fence_set (a f : BitVec 4) (q : BitVec 2) (e : (a ||| f) &&& ~~~ ((1 : BitVec 4) <<< q.toNat) = 0) :
    ∀ i j, i < 4 → j < 4 → bitAt (a ||| (1 : BitVec 4) <<< q.toNat) i = true →
      bitAt (a ||| (1 : BitVec 4) <<< q.toNat) j = true → i = j := by
  have one : ∀ (q : BitVec 2) (i : Fin 4), bitAt ((1 : BitVec 4) <<< q.toNat) i.val = decide (i.val = q.toNat) := by decide
  have only : ∀ i, i < 4 → bitAt (a ||| (1 : BitVec 4) <<< q.toNat) i = true → i = q.toNat := by
    intro i hi h
    have o := one q ⟨i, hi⟩
    rw [bitAt_or] at h
    by_cases c : i = q.toNat
    · exact c
    · exfalso
      simp only [o, c, decide_false, Bool.or_false] at h
      have e' := congrArg (fun v : BitVec 4 => v.getLsbD i) e
      unfold bitAt at h o
      simp [h, hi] at e'
      omega
  intro i j hi hj x y
  rw [only i hi x, only j hj y]

theorem State.putFence_kept {z : State} {a0 a1} (h : Kept z a0) : Kept z (State.putFence a0 a1) := by
  have g : Kept z { a0 with rst := { a0.rst with quarter := fld a1 8 2 } } := kept_of h
  unfold State.putFence
  dsimp only
  split
  · split
    · exact State.raise_kept g
    · split
      · exact g
      · rename_i c _
        refine kept_of g (hf := fun _ => fence_set _ a0.flash.fence (fld a1 8 2) ?_)
        simp only [Bool.or_eq_true, not_or, bne_iff_ne, ne_eq, Decidable.not_not] at c
        exact c.2
  · split
    · refine kept_of g (hf := fence_fewer fun i _ hi => ?_)
      rw [bitAt_or] at hi ⊢
      have z0 : bitAt (0 : BitVec 4) i = false := BitVec.getLsbD_zero
      rw [z0, Bool.or_false] at hi
      rw [hi, Bool.true_or]
    · exact g

theorem State.putBstCtrl_kept {z : State} {a0 a1} (h : Kept z a0) : Kept z (State.putBstCtrl a0 a1) := by
  unfold State.putBstCtrl
  repeat' first
    | with_reducible assumption
    | with_reducible refine State.raise_kept ?_
    | simp only [kept_same]
    | split

theorem State.zeroQuarter_kept {z : State} {a0 a1} (h : Kept z a0) : Kept z (State.zeroQuarter a0 a1) :=
  kept_of h (hm := smWf_filter 0 _ _) (hh := smWf_filter 0 _ _)

theorem State.zeroDevice_kept {z : State} {a0 a1} (h : Kept z a0) : Kept z (State.zeroDevice a0 a1) :=
  kept_of h (hm := smWf_clear 0 _ _ _)

theorem State.zeroTarget_kept {z : State} {a0 a1} (h : Kept z a0) : Kept z (State.zeroTarget a0 a1) := by
  unfold State.zeroTarget
  dsimp only
  split
  · exact State.zeroQuarter_kept h
  · exact kept_of h (hm := smWf_clear 0 _ _ _)
  · exact State.zeroDevice_kept h
  · exact h

theorem execBistComplete_kept {a0 a1} : ∃ t, execBistComplete a0 a1 = .next t ∧ Kept a1 t := by
  unfold execBistComplete
  repeat' first
    | with_reducible exact Kept.refl _
    | with_reducible refine State.logFails_kept ?_
    | with_reducible refine State.zeroTarget_kept ?_
    | with_reducible refine kept_whenB ?_
    | simp only [kept_same]

theorem State.imagePhase_kept {z : State} {a0 a1 a2 a3 a4} (h : Kept z a0) (ha4 : ∀ x0, Kept z x0 → Kept z (a4 x0)) :
    Kept z (State.imagePhase a0 a1 a2 a3 a4) := by
  unfold State.imagePhase
  try dsimp only
  repeat' first
    | with_reducible assumption
    | with_reducible refine State.bootTypes_kept ?_
    | with_reducible refine State.standsAt_kept ?_
    | with_reducible refine State.stopAt_kept ?_
    | with_reducible refine ha4 _ ?_
    | split

theorem State.powerUp_kept {z : State} {a0 a1} (h : Kept z a0) : Kept z (State.powerUp a0 a1) := by
  unfold State.powerUp
  repeat' first
    | with_reducible assumption
    | with_reducible refine State.imagePhase_kept ?_ ?_
    | with_reducible refine State.phases4_kept ?_
    | intro _

theorem State.coldBase_kept {z : State} {a0} (h : Kept z a0) : Kept z (State.coldBase a0) := by
  have e : a0.flash.settleBank.fence = a0.flash.fence := by unfold Flash.settleBank; split <;> rfl
  have sub : ∀ k, k < 4 → bitAt ((0 : BitVec 4) ||| a0.flash.settleBank.fence) k = true →
      bitAt (a0.rst.active ||| a0.flash.fence) k = true := by
    intro k _ hk
    rw [e, bitAt_or, show bitAt (0 : BitVec 4) k = false from BitVec.getLsbD_zero, Bool.false_or] at hk
    rw [bitAt_or, hk, Bool.or_true]
  unfold State.coldBase
  refine State.raiseIf_kept (State.raiseIf_kept ⟨h.1, fun i => ?_⟩)
  exact ⟨rfl, rfl, Nat.zero_le _, Nat.zero_le _, Nat.zero_le _, Nat.zero_le _, nofun, fence_fewer sub (h.2 i).fence⟩

theorem execColdReset_kept {a0 a1} : ∃ t, execColdReset a0 a1 = .next t ∧ Kept a1 t := by
  unfold execColdReset
  repeat' first
    | with_reducible exact Kept.refl _
    | with_reducible refine State.coldBase_kept ?_
    | with_reducible refine State.powerUp_kept ?_
    | with_reducible refine State.settleAttn_kept ?_
    | with_reducible refine kept_next ?_

theorem execPowerUpPhaseTimeout_kept {a0} : ∃ t, execPowerUpPhaseTimeout a0 = .next t ∧ Kept a0 t := by
  unfold execPowerUpPhaseTimeout
  repeat' first
    | with_reducible exact Kept.refl _
    | with_reducible refine State.stopAt_kept ?_
    | with_reducible refine kept_whenB ?_

theorem execRstInN_kept {a0 a1} : ∃ t, execRstInN a0 a1 = .next t ∧ Kept a1 t := by
  unfold execRstInN
  repeat' first
    | with_reducible exact Kept.refl _
    | with_reducible refine State.warmReset_kept ?_
    | with_reducible refine kept_whenB ?_

end Sys2Proof.Machine
end

