-- ==== Sys2Proof/Laws/KeptHost.lean ====
section
/-! SUPPORT. What `Kept` says of sessions, register writes and the commands of the host, and the block by itself:
one lemma per function of the model that answers a state, named after it. A lemma whose conclusion is `∃ t, ... = .next t` is about
the meaning of a command. -/

-- One proof after the other: side by side they want more threads than the memory of a check holds.
set_option Elab.async false

namespace Sys2Proof.Machine

/-! ## Machine/Sessions.lean -/

theorem State.hostIn_kept {z : State} {a0} (h : Kept z a0) : Kept z (State.hostIn a0) := by
  unfold State.hostIn
  repeat' first
    | with_reducible assumption
    | with_reducible refine State.takeFrames_kept ?_
    | simp only [kept_same]

theorem hostReq_kept {a0 a1} (ha1 : ∀ x0, Kept a0 x0 → Kept a0 (a1 x0)) : ∃ t, hostReq a0 a1 = .next t ∧ Kept a0 t := by
  unfold hostReq
  repeat' first
    | with_reducible exact Kept.refl _
    | with_reducible refine State.hostIn_kept ?_
    | with_reducible refine ha1 _ ?_
    | with_reducible refine kept_whenB ?_

theorem State.status_kept {z : State} {a0 a1 a2 a3} (h : Kept z a0) : Kept z (State.status a0 a1 a2 a3) := by
  unfold State.status
  repeat' first
    | with_reducible assumption
    | with_reducible refine State.respond_kept ?_

theorem State.refusePriv_kept {z : State} {a0 a1 a2 a3} (h : Kept z a0) : Kept z (State.refusePriv a0 a1 a2 a3) := by
  unfold State.refusePriv
  repeat' first
    | with_reducible assumption
    | with_reducible refine State.raise_kept ?_
    | with_reducible refine State.status_kept ?_
    | simp only [kept_same]
    | split

theorem sessionReq_kept {a0 a1 a2 a3 a4 a5} (ha4 : ∀ x0, Kept a5 x0 → Kept a5 (a4 x0)) :
    ∃ t, sessionReq a0 a1 a2 a3 a4 a5 = .next t ∧ Kept a5 t := by
  unfold sessionReq
  repeat' first
    | with_reducible assumption
    | with_reducible refine State.refusePriv_kept ?_
    | with_reducible refine State.status_kept ?_
    | with_reducible refine hostReq_kept ?_
    | with_reducible refine ha4 _ ?_
    | split
    | intro _

theorem State.putClaim_kept {z : State} {a0 a1 a2} (h : Kept z a0) : Kept z (State.putClaim a0 a1 a2) := by
  unfold State.putClaim
  repeat' first
    | with_reducible assumption
    | simp only [kept_same]
    | split

theorem State.releaseOwner_kept {z : State} {a0} (h : Kept z a0) : Kept z (State.releaseOwner a0) := by
  unfold State.releaseOwner
  repeat' first
    | with_reducible assumption
    | with_reducible refine State.closeSession_kept ?_
    | simp only [kept_same]

theorem State.putSecCtrl_kept {z : State} {a0 a1} (h : Kept z a0) : Kept z (State.putSecCtrl a0 a1) := by
  unfold State.putSecCtrl
  repeat' first
    | with_reducible assumption
    | with_reducible refine State.closeSession_kept ?_
    | with_reducible refine State.commitSvn_kept ?_
    | with_reducible refine State.releaseOwner_kept ?_
    | split

theorem State.claimGo_kept {z : State} {a0 a1} (h : Kept z a0) : Kept z (State.claimGo a0 a1) := by
  unfold State.claimGo
  repeat' first
    | with_reducible assumption
    | simp only [kept_same]
    | split

theorem State.sendAttn_kept {z : State} {a0} (h : Kept z a0) : Kept z (State.sendAttn a0) := by
  unfold State.sendAttn
  repeat' first
    | with_reducible assumption
    | with_reducible refine State.hostFrame_kept ?_
    | simp only [kept_same]

theorem State.putAtnCtrl_kept {z : State} {a0 a1} (h : Kept z a0) : Kept z (State.putAtnCtrl a0 a1) := by
  unfold State.putAtnCtrl
  repeat' first
    | with_reducible assumption
    | with_reducible refine State.sendAttn_kept ?_
    | simp only [kept_same]
    | split

theorem State.proofFails_kept {z : State} {a0 a1} (h : Kept z a0) : Kept z (State.proofFails a0 a1) := by
  unfold State.proofFails
  repeat' first
    | with_reducible assumption
    | with_reducible refine State.raise_kept ?_
    | with_reducible refine State.raiseIf_kept ?_
    | with_reducible refine State.status_kept ?_
    | simp only [kept_same]

theorem State.newKeys_kept {z : State} {a0 a1} (h : Kept z a0) : Kept z (State.newKeys a0 a1) := by
  unfold State.newKeys
  repeat' first
    | with_reducible assumption
    | with_reducible refine State.putPort_kept ?_
    | with_reducible refine State.sendCtrl_kept ?_

theorem execFkey_kept {a0 a1} : ∃ t, execFkey a0 a1 = .next t ∧ Kept a1 t := by
  unfold execFkey
  repeat' first
    | with_reducible assumption
    | with_reducible refine State.status_kept ?_
    | with_reducible refine sessionReq_kept ?_
    | simp only [kept_same]
    | intro _

theorem execFirmwareVerifyComplete_kept {a0} : ∃ t, execFirmwareVerifyComplete a0 = .next t ∧ Kept a0 t := by
  unfold execFirmwareVerifyComplete
  repeat' first
    | with_reducible exact Kept.refl _
    | with_reducible refine State.lateAnswer_kept ?_
    | with_reducible refine State.verified_kept ?_
    | with_reducible refine kept_next ?_
    | simp only [kept_same]
    | split

theorem execSclose_kept {a0} : ∃ t, execSclose a0 = .next t ∧ Kept a0 t := by
  unfold execSclose
  repeat' first
    | with_reducible assumption
    | with_reducible refine State.closeSession_kept ?_
    | with_reducible refine State.status_kept ?_
    | with_reducible refine sessionReq_kept ?_
    | intro _

theorem execAttest_kept {a0 a1} : ∃ t, execAttest a0 a1 = .next t ∧ Kept a1 t := by
  unfold execAttest
  repeat' first
    | with_reducible assumption
    | with_reducible refine State.pushAnswer_kept ?_
    | with_reducible refine State.status_kept ?_
    | with_reducible refine sessionReq_kept ?_
    | simp only [kept_same]
    | split
    | intro _

theorem execSkey_kept {a0 a1 a2 a3} : ∃ t, execSkey a0 a1 a2 a3 = .next t ∧ Kept a3 t := by
  unfold execSkey
  repeat' first
    | with_reducible assumption
    | with_reducible refine State.status_kept ?_
    | with_reducible refine sessionReq_kept ?_
    | simp only [kept_same]
    | intro _

theorem execAttnFrameSend_kept {a0} : ∃ t, execAttnFrameSend a0 = .next t ∧ Kept a0 t := by
  unfold execAttnFrameSend
  repeat' first
    | with_reducible exact Kept.refl _
    | with_reducible refine State.sendAttn_kept ?_
    | with_reducible refine kept_whenB ?_

theorem execSopen_kept {a0 a1 a2} : ∃ t, execSopen a0 a1 a2 = .next t ∧ Kept a2 t := by
  unfold execSopen
  repeat' first
    | with_reducible assumption
    | with_reducible refine State.drawn_kept ?_
    | with_reducible refine State.respond_kept ?_
    | with_reducible refine State.status_kept ?_
    | with_reducible refine hostReq_kept ?_
    | simp only [kept_same]
    | split
    | intro _

theorem State.openSession_kept {z : State} {a0 a1} (h : Kept z a0) : Kept z (State.openSession a0 a1) := by
  unfold State.openSession
  repeat' first
    | with_reducible assumption
    | with_reducible refine State.newKeys_kept ?_
    | with_reducible refine State.respond_kept ?_
    | simp only [kept_same]

theorem execSproof_kept {a0 a1 a2} : ∃ t, execSproof a0 a1 a2 = .next t ∧ Kept a2 t := by
  unfold execSproof
  repeat' first
    | with_reducible assumption
    | with_reducible refine State.openSession_kept ?_
    | with_reducible refine State.proofFails_kept ?_
    | with_reducible refine State.status_kept ?_
    | with_reducible refine hostReq_kept ?_
    | split
    | intro _

theorem execSessionLockoutExpire_kept {a0} : ∃ t, execSessionLockoutExpire a0 = .next t ∧ Kept a0 t := by
  unfold execSessionLockoutExpire
  repeat' first
    | with_reducible exact Kept.refl _
    | with_reducible refine kept_whenB ?_
    | simp only [kept_same]

theorem unlessVerifying_kept {z : State} {a0 a1 a2 a3} (h : Kept z a3) (ha2 : ∀ x0, Kept z x0 → Kept z (a2 x0)) :
    Kept z (unlessVerifying a0 a1 a2 a3) := by
  unfold unlessVerifying
  repeat' first
    | with_reducible assumption
    | with_reducible refine State.status_kept ?_
    | with_reducible refine ha2 _ ?_
    | split

theorem execFww_kept {a0 a1 a2} : ∃ t, execFww a0 a1 a2 = .next t ∧ Kept a2 t := by
  unfold execFww
  repeat' first
    | with_reducible assumption
    | with_reducible refine State.status_kept ?_
    | with_reducible refine sessionReq_kept ?_
    | with_reducible refine unlessVerifying_kept ?_ ?_
    | simp only [kept_same]
    | intro _

theorem execFwend_kept {a0 a1} : ∃ t, execFwend a0 a1 = .next t ∧ Kept a1 t := by
  unfold execFwend
  repeat' first
    | with_reducible assumption
    | with_reducible refine State.pushAnswer_kept ?_
    | with_reducible refine sessionReq_kept ?_
    | with_reducible refine unlessVerifying_kept ?_ ?_
    | simp only [kept_same]
    | intro _

theorem execAttestComplete_kept {a0} : ∃ t, execAttestComplete a0 = .next t ∧ Kept a0 t := by
  unfold execAttestComplete
  repeat' first
    | with_reducible exact Kept.refl _
    | with_reducible refine State.drawn_kept ?_
    | with_reducible refine State.lateAnswer_kept ?_
    | with_reducible refine kept_next ?_
    | simp only [kept_same]
    | split

/-! ## Machine/RegWrite.lean -/

theorem State.ignored_kept {z : State} {a0} (h : Kept z a0) : Kept z (State.ignored a0).2 := by
  unfold State.ignored
  repeat' first
    | with_reducible assumption

theorem State.writeFnReg_kept {z : State} {a0 a1 a2} (h : Kept z a0) : Kept z (State.writeFnReg a0 a1 a2).2 := by
  unfold State.writeFnReg
  repeat' first
    | with_reducible assumption
    | with_reducible refine State.drawn_kept ?_
    | with_reducible refine State.writeFn_kept ?_
    | split

theorem State.writeSys_kept {z : State} {a0 a1 a2} (h : Kept z a0) : Kept z (State.writeSys a0 a1 a2).2 := by
  unfold State.writeSys
  repeat' first
    | with_reducible assumption
    | with_reducible refine State.ignored_kept ?_
    | with_reducible refine State.putPstate_kept ?_
    | with_reducible refine State.putSysReset_kept ?_
    | split

theorem rwAct_kept {z : State} {a0 a1 a2 a3} (ha3 : ∀ x0, Kept z (a3 x0)) : Kept z (rwAct a0 a1 a2 a3).2 := by
  unfold rwAct
  repeat' first
    | with_reducible refine ha3 _

theorem State.writeBea_kept {z : State} {a0 a1 a2} (h : Kept z a0) : Kept z (State.writeBea a0 a1 a2).2 := by
  unfold State.writeBea
  repeat' first
    | with_reducible assumption
    | with_reducible refine State.ignored_kept ?_
    | with_reducible refine State.putBeaAlarm_kept ?_
    | with_reducible refine State.putBeaLoad_kept ?_
    | with_reducible refine rwAct_kept ?_
    | simp only [kept_same]
    | split
    | intro _

theorem State.writeCnd_kept {z : State} {a0 a1 a2} (h : Kept z a0) : Kept z (State.writeCnd a0 a1 a2).2 := by
  unfold State.writeCnd
  repeat' first
    | with_reducible assumption
    | with_reducible refine State.askQuench_kept ?_
    | with_reducible refine State.ignored_kept ?_
    | with_reducible refine State.putCastBase_kept ?_
    | with_reducible refine State.putRunBeat_kept ?_
    | with_reducible refine State.runWakes_kept ?_
    | split

theorem State.stageAct_kept {z : State} {a0 a1 a2 a3 a4 a5} (h : Kept z a0) (ha5 : ∀ x0, Kept z (a5 x0)) :
    Kept z (State.stageAct a0 a1 a2 a3 a4 a5).2 := by
  unfold State.stageAct
  repeat' first
    | with_reducible assumption
    | with_reducible refine State.raise_kept ?_
    | with_reducible refine rwAct_kept ?_
    | split
    | intro _

theorem State.writeAry_kept {z : State} {a0 a1 a2} (h : Kept z a0) : Kept z (State.writeAry a0 a1 a2).2 := by
  unfold State.writeAry
  repeat' first
    | with_reducible assumption
    | with_reducible refine State.ignored_kept ?_
    | with_reducible refine State.stageAct_kept ?_ ?_
    | simp only [kept_same]
    | split
    | intro _

theorem State.putCrwSel_kept {z : State} {a0 a1} (h : Kept z a0) : Kept z (State.putCrwSel a0 a1) := by
  unfold State.putCrwSel
  repeat' first
    | with_reducible assumption
    | with_reducible refine State.raise_kept ?_
    | simp only [kept_same]
    | split

theorem State.putCrwData_kept {z : State} {a0 a1} (h : Kept z a0) : Kept z (State.putCrwData a0 a1) := by
  unfold State.putCrwData
  split
  · exact State.raise_kept h
  · split
    · exact State.crwAdvance_kept (kept_of h (hh := smWf_put 0 _ _ _))
    · exact State.crwAdvance_kept (State.putRun_kept h)

theorem State.writeCrw_kept {z : State} {a0 a1 a2} (h : Kept z a0) : Kept z (State.writeCrw a0 a1 a2).2 := by
  unfold State.writeCrw
  repeat' first
    | with_reducible assumption
    | with_reducible refine State.ignored_kept ?_
    | with_reducible refine State.putCrwData_kept ?_
    | with_reducible refine State.putCrwSel_kept ?_
    | simp only [kept_same]
    | split

theorem State.writeTmv_kept {z : State} {a0 a1 a2} (h : Kept z a0) : Kept z (State.writeTmv a0 a1 a2).2 := by
  unfold State.writeTmv
  repeat' first
    | with_reducible assumption
    | with_reducible refine State.ignored_kept ?_
    | with_reducible refine State.stageAct_kept ?_ ?_
    | with_reducible refine State.startRelease_kept ?_
    | simp only [kept_same]
    | split
    | intro _

theorem State.writeTir_kept {z : State} {a0 a1 a2} (h : Kept z a0) : Kept z (State.writeTir a0 a1 a2).2 := by
  unfold State.writeTir
  repeat' first
    | with_reducible assumption
    | with_reducible refine State.ignored_kept ?_
    | simp only [kept_same]
    | split

theorem State.writeMdv_kept {z : State} {a0 a1 a2} (h : Kept z a0) : Kept z (State.writeMdv a0 a1 a2).2 := by
  unfold State.writeMdv
  repeat' first
    | with_reducible assumption
    | with_reducible refine State.ignored_kept ?_
    | with_reducible refine State.stageAct_kept ?_ ?_
    | with_reducible refine State.startRepair_kept ?_
    | with_reducible refine State.trainDevices_kept ?_
    | simp only [kept_same]
    | split
    | intro _

theorem State.stageLnk_kept {z : State} {a0 a1 a2 a3} (h : Kept z a0) : Kept z (State.stageLnk a0 a1 a2 a3).2 := by
  unfold State.stageLnk
  repeat' first
    | with_reducible assumption
    | with_reducible refine State.stageAct_kept ?_ ?_
    | simp only [kept_same]
    | intro _

theorem State.writeAp_kept {z : State} {a0 a1 a2} (h : Kept z a0) : Kept z (State.writeAp a0 a1 a2).2 := by
  unfold State.writeAp
  repeat' first
    | with_reducible assumption
    | with_reducible refine State.ignored_kept ?_
    | with_reducible refine State.raise_kept ?_
    | with_reducible refine rwAct_kept ?_
    | simp only [kept_same]
    | split
    | intro _

theorem State.putLnkCtrl_kept {z : State} {a0 a1} (h : Kept z a0) : Kept z (State.putLnkCtrl a0 a1) := by
  unfold State.putLnkCtrl
  repeat' first
    | with_reducible assumption
    | with_reducible refine State.releaseRing_kept ?_
    | with_reducible refine State.retrainPorts_kept ?_
    | with_reducible refine State.takeIn_kept ?_
    | split

theorem State.writeLnk_kept {z : State} {a0 a1 a2} (h : Kept z a0) : Kept z (State.writeLnk a0 a1 a2).2 := by
  unfold State.writeLnk
  repeat' first
    | with_reducible assumption
    | with_reducible refine State.ignored_kept ?_
    | with_reducible refine State.putLnkCtrl_kept ?_
    | with_reducible refine State.stageLnk_kept ?_
    | with_reducible refine State.writeAp_kept ?_
    | split

theorem State.writeFol_kept {z : State} {a0 a1 a2} (h : Kept z a0) : Kept z (State.writeFol a0 a1 a2).2 := by
  unfold State.writeFol
  repeat' first
    | with_reducible assumption
    | with_reducible refine State.ignored_kept ?_
    | with_reducible refine State.stageAct_kept ?_ ?_
    | simp only [kept_same]
    | split
    | intro _

theorem State.putTwnCtrl_kept {z : State} {a0 a1} (h : Kept z a0) : Kept z (State.putTwnCtrl a0 a1) := by
  unfold State.putTwnCtrl
  repeat' first
    | with_reducible assumption
    | with_reducible refine State.resumeHold_kept ?_
    | with_reducible refine State.startSolder_kept ?_
    | with_reducible refine State.unsolder_kept ?_
    | split

theorem State.writeTwn_kept {z : State} {a0 a1 a2} (h : Kept z a0) : Kept z (State.writeTwn a0 a1 a2).2 := by
  unfold State.writeTwn
  repeat' first
    | with_reducible assumption
    | with_reducible refine State.ignored_kept ?_
    | with_reducible refine State.putRdctl_kept ?_
    | with_reducible refine State.putTwnCtrl_kept ?_
    | with_reducible refine State.stageAct_kept ?_ ?_
    | simp only [kept_same]
    | split
    | intro _

theorem State.writeTim_kept {z : State} {a0 a1 a2} (h : Kept z a0) : Kept z (State.writeTim a0 a1 a2).2 := by
  unfold State.writeTim
  repeat' first
    | with_reducible assumption
    | with_reducible refine State.clearRing_kept ?_
    | with_reducible refine State.ignored_kept ?_
    | split

theorem State.stagePwr_kept {z : State} {a0 a1 a2 a3} (h : Kept z a0) : Kept z (State.stagePwr a0 a1 a2 a3).2 := by
  unfold State.stagePwr
  repeat' first
    | with_reducible assumption
    | with_reducible refine State.stageAct_kept ?_ ?_
    | simp only [kept_same]
    | intro _

theorem State.putCap_kept {z : State} {a0 a1} (h : Kept z a0) : Kept z (State.putCap a0 a1) := by
  unfold State.putCap
  repeat' first
    | with_reducible assumption
    | with_reducible refine State.refreshCap_kept ?_
    | simp only [kept_same]
    | split

theorem State.putPwrCtrl_kept {z : State} {a0 a1} (h : Kept z a0) : Kept z (State.putPwrCtrl a0 a1) := by
  unfold State.putPwrCtrl
  repeat' first
    | with_reducible assumption
    | with_reducible refine State.clearAcc_kept ?_
    | with_reducible refine State.startAnneal_kept ?_
    | split

theorem State.writePwr_kept {z : State} {a0 a1 a2} (h : Kept z a0) : Kept z (State.writePwr a0 a1 a2).2 := by
  unfold State.writePwr
  repeat' first
    | with_reducible assumption
    | with_reducible refine State.ignored_kept ?_
    | with_reducible refine State.putCap_kept ?_
    | with_reducible refine State.putFreq_kept ?_
    | with_reducible refine State.putPwrCtrl_kept ?_
    | with_reducible refine State.stagePwr_kept ?_
    | simp only [kept_same]
    | split

theorem State.writePortprot_kept {z : State} {a0 a1} (h : Kept z a0) : Kept z (State.writePortprot a0 a1).2 := by
  unfold State.writePortprot
  repeat' first
    | with_reducible assumption
    | with_reducible refine State.stageLnk_kept ?_

theorem State.writeSec_kept {z : State} {a0 a1 a2} (h : Kept z a0) : Kept z (State.writeSec a0 a1 a2).2 := by
  unfold State.writeSec
  repeat' first
    | with_reducible assumption
    | with_reducible refine State.claimGo_kept ?_
    | with_reducible refine State.ignored_kept ?_
    | with_reducible refine State.putClaim_kept ?_
    | with_reducible refine State.putSecCtrl_kept ?_
    | with_reducible refine State.writePortprot_kept ?_
    | split

theorem State.writeAtn_kept {z : State} {a0 a1 a2} (h : Kept z a0) : Kept z (State.writeAtn a0 a1 a2).2 := by
  unfold State.writeAtn
  repeat' first
    | with_reducible assumption
    | with_reducible refine State.ignored_kept ?_
    | with_reducible refine State.putAtnCtrl_kept ?_
    | simp only [kept_same]
    | split

theorem State.writeRst_kept {z : State} {a0 a1 a2} (h : Kept z a0) : Kept z (State.writeRst a0 a1 a2).2 := by
  unfold State.writeRst
  repeat' first
    | with_reducible assumption
    | with_reducible refine State.ignored_kept ?_
    | with_reducible refine State.putFence_kept ?_
    | with_reducible refine State.putRstCtrl_kept ?_
    | simp only [kept_same]
    | split

theorem State.writeBst_kept {z : State} {a0 a1 a2} (h : Kept z a0) : Kept z (State.writeBst a0 a1 a2).2 := by
  unfold State.writeBst
  repeat' first
    | with_reducible assumption
    | with_reducible refine State.ignored_kept ?_
    | with_reducible refine State.putBstCtrl_kept ?_
    | simp only [kept_same]
    | split

theorem State.putMgtCtrl_kept {z : State} {a0 a1} (h : Kept z a0) : Kept z (State.putMgtCtrl a0 a1) := by
  unfold State.putMgtCtrl
  repeat' first
    | with_reducible assumption
    | with_reducible refine State.mgtWake_kept ?_
    | with_reducible refine State.resetPorts_kept ?_
    | split

theorem State.writeMgt_kept {z : State} {a0 a1 a2} (h : Kept z a0) : Kept z (State.writeMgt a0 a1 a2).2 := by
  unfold State.writeMgt
  repeat' first
    | with_reducible assumption
    | with_reducible refine State.ignored_kept ?_
    | with_reducible refine State.putMgtCtrl_kept ?_
    | simp only [kept_same]
    | split

theorem State.writeBlk_kept {z : State} {a0 a1 a2 a3} (h : Kept z a0) : Kept z (State.writeBlk a0 a1 a2 a3).2 := by
  unfold State.writeBlk
  repeat' first
    | with_reducible assumption
    | with_reducible refine State.ignored_kept ?_
    | with_reducible refine State.writeAry_kept ?_
    | with_reducible refine State.writeAtn_kept ?_
    | with_reducible refine State.writeBea_kept ?_
    | with_reducible refine State.writeBst_kept ?_
    | with_reducible refine State.writeCnd_kept ?_
    | with_reducible refine State.writeCrw_kept ?_
    | with_reducible refine State.writeFol_kept ?_
    | with_reducible refine State.writeLnk_kept ?_
    | with_reducible refine State.writeMdv_kept ?_
    | with_reducible refine State.writeMgt_kept ?_
    | with_reducible refine State.writePwr_kept ?_
    | with_reducible refine State.writeRst_kept ?_
    | with_reducible refine State.writeSec_kept ?_
    | with_reducible refine State.writeSys_kept ?_
    | with_reducible refine State.writeTim_kept ?_
    | with_reducible refine State.writeTir_kept ?_
    | with_reducible refine State.writeTmv_kept ?_
    | with_reducible refine State.writeTwn_kept ?_
    | split

theorem State.writeReg_kept {z : State} {a0 a1 a2} (h : Kept z a0) : Kept z (State.writeReg a0 a1 a2).2 := by
  unfold State.writeReg
  try dsimp only
  repeat' first
    | with_reducible assumption
    | with_reducible refine State.ignored_kept ?_
    | with_reducible refine State.putCause_kept ?_
    | with_reducible refine State.putMask_kept ?_
    | with_reducible refine State.writeBlk_kept ?_
    | with_reducible refine State.writeFnReg_kept ?_
    | split

/-! ## Machine/HostMem.lean -/

theorem State.startAccess_kept {z : State} {a0 a1 a2 a3 a4} (h : Kept z a0) :
    Kept z (State.startAccess a0 a1 a2 a3 a4) := by
  unfold State.startAccess
  repeat' first
    | with_reducible assumption
    | with_reducible refine State.pushAnswer_kept ?_
    | with_reducible refine State.startTrans_kept ?_
    | with_reducible refine kept_foldl _ (fun _ _ _ => ?_) _ ?_

theorem memReq_kept {a0 a1 a2 a3 a4 a5 a6} (ha5 : ∀ x0, Kept a6 x0 → Kept a6 (a5 x0)) :
    ∃ t, memReq a0 a1 a2 a3 a4 a5 a6 = .next t ∧ Kept a6 t := by
  unfold memReq
  try dsimp only
  repeat' first
    | with_reducible exact Kept.refl _
    | with_reducible assumption
    | with_reducible refine State.fetch_kept ?_
    | with_reducible refine State.status_kept ?_
    | with_reducible refine sessionReq_kept ?_
    | with_reducible refine ha5 _ ?_
    | with_reducible refine kept_next ?_
    | split
    | intro _

theorem State.hostTouch_kept {z : State} {a0 a1 a2 a3 a4} (h : Kept z a0) :
    Kept z (State.hostTouch a0 a1 a2 a3 a4) := by
  unfold State.hostTouch
  repeat' first
    | with_reducible assumption
    | with_reducible refine State.touchPlaces_kept ?_
    | with_reducible refine State.touchRun_kept ?_
    | split

theorem State.hostMrd_kept {z : State} {a0 a1 a2 a3} (h : Kept z a0) : Kept z (State.hostMrd a0 a1 a2 a3) := by
  unfold State.hostMrd
  try dsimp only
  repeat' first
    | with_reducible assumption
    | with_reducible refine State.hostErrMet_kept ?_
    | with_reducible refine State.hostTouch_kept ?_
    | with_reducible refine State.noteMem_kept ?_
    | with_reducible refine State.raise_kept ?_
    | with_reducible refine State.respond_kept ?_
    | with_reducible refine State.startAccess_kept ?_
    | split

theorem execMrd_kept {a0 a1 a2 a3} : ∃ t, execMrd a0 a1 a2 a3 = .next t ∧ Kept a3 t := by
  unfold execMrd
  repeat' first
    | with_reducible assumption
    | with_reducible refine State.hostMrd_kept ?_
    | with_reducible refine memReq_kept ?_
    | intro _

theorem State.mergeFails_kept {z : State} {a0 a1 a2} (h : Kept z a0) : Kept z (State.mergeFails a0 a1 a2) := by
  unfold State.mergeFails
  repeat' first
    | with_reducible assumption
    | with_reducible refine State.mergeCol_kept ?_
    | with_reducible refine kept_foldl _ (fun _ _ _ => ?_) _ ?_

theorem State.hostStore_kept {z : State} {a0 a1 a2 a3} (h : Kept z a0) : Kept z (State.hostStore a0 a1 a2 a3) := by
  unfold State.hostStore
  repeat' first
    | with_reducible assumption
    | with_reducible refine State.forget_kept ?_
    | with_reducible refine State.hostTouch_kept ?_
    | with_reducible refine State.startAccess_kept ?_
    | with_reducible refine State.status_kept ?_
    | with_reducible refine State.storeBytes_kept ?_
    | simp only [kept_same]
    | split

theorem State.hostMwr_kept {z : State} {a0 a1 a2 a3} (h : Kept z a0) : Kept z (State.hostMwr a0 a1 a2 a3) := by
  unfold State.hostMwr
  try dsimp only
  repeat' first
    | with_reducible assumption
    | with_reducible refine State.forget_kept ?_
    | with_reducible refine State.hostStore_kept ?_
    | with_reducible refine State.mergeFails_kept ?_
    | with_reducible refine State.raise_kept ?_
    | with_reducible refine State.refuseImage_kept ?_
    | with_reducible refine State.refuseWindow_kept ?_
    | with_reducible refine State.status_kept ?_
    | split

theorem execMwr_kept {a0 a1 a2 a3} : ∃ t, execMwr a0 a1 a2 a3 = .next t ∧ Kept a3 t := by
  unfold execMwr
  repeat' first
    | with_reducible assumption
    | with_reducible refine State.hostMwr_kept ?_
    | with_reducible refine memReq_kept ?_
    | intro _

/-! ## Machine/Host.lean -/

theorem hostWriteWith_kept {a0 a1 a2 a3} (ha2 : ∀ x0, Kept a3 x0 → Kept a3 (a2 x0)) :
    ∃ t, hostWriteWith a0 a1 a2 a3 = .next t ∧ Kept a3 t := by
  unfold hostWriteWith
  repeat' first
    | with_reducible assumption
    | with_reducible refine State.settleAttn_kept ?_
    | with_reducible refine State.status_kept ?_
    | with_reducible refine sessionReq_kept ?_
    | with_reducible refine ha2 _ ?_
    | split
    | intro _

theorem hostWrite_kept {a0 a1 a2} : ∃ t, hostWrite a0 a1 a2 = .next t ∧ Kept a2 t := by
  unfold hostWrite
  repeat' first
    | with_reducible assumption
    | with_reducible refine State.writeReg_kept ?_
    | with_reducible refine hostWriteWith_kept ?_
    | intro _

theorem execMdvFnStop_kept {a0} : ∃ t, execMdvFnStop a0 = .next t ∧ Kept a0 t := by
  unfold execMdvFnStop
  repeat' first
    | with_reducible exact hostWrite_kept

theorem execPwrCtrlAnneal_kept {a0} : ∃ t, execPwrCtrlAnneal a0 = .next t ∧ Kept a0 t := by
  unfold execPwrCtrlAnneal
  repeat' first
    | with_reducible exact hostWrite_kept

theorem execSmbusWrite_kept {a0 a1 a2} : ∃ t, execSmbusWrite a0 a1 a2 = .next t ∧ Kept a2 t := by
  unfold execSmbusWrite
  repeat' first
    | with_reducible exact Kept.refl _
    | with_reducible refine State.settleAttn_kept ?_
    | with_reducible refine State.writeReg_kept ?_
    | with_reducible refine kept_whenB ?_

theorem mgtWrite_kept {a0 a1 a2} : ∃ t, mgtWrite a0 a1 a2 = .next t ∧ Kept a2 t := by
  unfold mgtWrite
  repeat' first
    | with_reducible exact execSmbusWrite_kept
    | with_reducible exact hostWrite_kept
    | split

theorem execLnkCtrlGive_kept {a0} : ∃ t, execLnkCtrlGive a0 = .next t ∧ Kept a0 t := by
  unfold execLnkCtrlGive
  repeat' first
    | with_reducible exact hostWrite_kept

theorem execMdvCfgWrite_kept {a0 a1} : ∃ t, execMdvCfgWrite a0 a1 = .next t ∧ Kept a1 t := by
  unfold execMdvCfgWrite
  repeat' first
    | with_reducible exact hostWrite_kept

theorem execCrwDataWrite_kept {a0 a1} : ∃ t, execCrwDataWrite a0 a1 = .next t ∧ Kept a1 t := by
  unfold execCrwDataWrite
  repeat' first
    | with_reducible exact hostWrite_kept

theorem execRstCtrlArray_kept {a0} : ∃ t, execRstCtrlArray a0 = .next t ∧ Kept a0 t := by
  unfold execRstCtrlArray
  repeat' first
    | with_reducible exact hostWrite_kept

theorem execCndQuench_kept {a0} : ∃ t, execCndQuench a0 = .next t ∧ Kept a0 t := by
  unfold execCndQuench
  repeat' first
    | with_reducible exact hostWrite_kept

theorem execTmvCtrlRelease_kept {a0} : ∃ t, execTmvCtrlRelease a0 = .next t ∧ Kept a0 t := by
  unfold execTmvCtrlRelease
  repeat' first
    | with_reducible exact hostWrite_kept

theorem execPwrFreqWrite_kept {a0 a1} : ∃ t, execPwrFreqWrite a0 a1 = .next t ∧ Kept a1 t := by
  unfold execPwrFreqWrite
  repeat' first
    | with_reducible exact hostWrite_kept

theorem execMdvRepairGo_kept {a0 a1} : ∃ t, execMdvRepairGo a0 a1 = .next t ∧ Kept a1 t := by
  unfold execMdvRepairGo
  repeat' first
    | with_reducible exact hostWrite_kept

theorem execLnkCtrlRetrain_kept {a0 a1} : ∃ t, execLnkCtrlRetrain a0 a1 = .next t ∧ Kept a1 t := by
  unfold execLnkCtrlRetrain
  repeat' first
    | with_reducible exact hostWrite_kept

theorem execAryCfgWrite_kept {a0 a1} : ∃ t, execAryCfgWrite a0 a1 = .next t ∧ Kept a1 t := by
  unfold execAryCfgWrite
  repeat' first
    | with_reducible exact hostWrite_kept

theorem execTmvCfgWrite_kept {a0 a1} : ∃ t, execTmvCfgWrite a0 a1 = .next t ∧ Kept a1 t := by
  unfold execTmvCfgWrite
  repeat' first
    | with_reducible exact hostWrite_kept

theorem execTwnCfgWrite_kept {a0 a1} : ∃ t, execTwnCfgWrite a0 a1 = .next t ∧ Kept a1 t := by
  unfold execTwnCfgWrite
  repeat' first
    | with_reducible exact hostWrite_kept

theorem execSecCtrlRelease_kept {a0} : ∃ t, execSecCtrlRelease a0 = .next t ∧ Kept a0 t := by
  unfold execSecCtrlRelease
  repeat' first
    | with_reducible exact hostWrite_kept

theorem hostRead_kept {a0 a1} : ∃ t, hostRead a0 a1 = .next t ∧ Kept a1 t := by
  unfold hostRead
  repeat' first
    | with_reducible assumption
    | with_reducible refine State.afterRead_kept ?_
    | with_reducible refine State.respond_kept ?_
    | with_reducible refine sessionReq_kept ?_
    | split
    | intro _

theorem execSmbusRead_kept {a0 a1} : ∃ t, execSmbusRead a0 a1 = .next t ∧ Kept a1 t := by
  unfold execSmbusRead
  repeat' first
    | with_reducible exact Kept.refl _
    | with_reducible refine State.afterRead_kept ?_
    | with_reducible refine State.emit_kept ?_
    | with_reducible refine kept_whenB ?_
    | split

theorem execMgtFlashdataRead_kept {a0} : ∃ t, execMgtFlashdataRead a0 = .next t ∧ Kept a0 t := by
  unfold execMgtFlashdataRead
  repeat' first
    | with_reducible exact execSmbusRead_kept
    | with_reducible exact hostRead_kept
    | split

theorem execTwnCtrlSolder_kept {a0} : ∃ t, execTwnCtrlSolder a0 = .next t ∧ Kept a0 t := by
  unfold execTwnCtrlSolder
  repeat' first
    | with_reducible exact hostWrite_kept

theorem execPwrCtrlClracc_kept {a0} : ∃ t, execPwrCtrlClracc a0 = .next t ∧ Kept a0 t := by
  unfold execPwrCtrlClracc
  repeat' first
    | with_reducible exact hostWrite_kept

theorem execBeaLoadWrite_kept {a0 a1} : ∃ t, execBeaLoadWrite a0 a1 = .next t ∧ Kept a1 t := by
  unfold execBeaLoadWrite
  repeat' first
    | with_reducible exact hostWrite_kept

theorem execBeaAlarmWrite_kept {a0 a1} : ∃ t, execBeaAlarmWrite a0 a1 = .next t ∧ Kept a1 t := by
  unfold execBeaAlarmWrite
  repeat' first
    | with_reducible exact hostWrite_kept

theorem execCndCastBaseWrite_kept {a0 a1} : ∃ t, execCndCastBaseWrite a0 a1 = .next t ∧ Kept a1 t := by
  unfold execCndCastBaseWrite
  repeat' first
    | with_reducible exact hostWrite_kept

theorem execCndRunWrite_kept {a0 a1} : ∃ t, execCndRunWrite a0 a1 = .next t ∧ Kept a1 t := by
  unfold execCndRunWrite
  repeat' first
    | with_reducible exact hostWrite_kept

theorem execFnEpochWrite_kept {a0 a1 a2 a3} : ∃ t, execFnEpochWrite a0 a1 a2 a3 = .next t ∧ Kept a3 t := by
  unfold execFnEpochWrite
  repeat' first
    | with_reducible assumption
    | with_reducible refine State.writeEpoch_kept ?_
    | with_reducible refine hostWriteWith_kept ?_
    | intro _

theorem execFnGo_kept {a0 a1} : ∃ t, execFnGo a0 a1 = .next t ∧ Kept a1 t := by
  unfold execFnGo
  repeat' first
    | with_reducible exact hostWrite_kept

theorem execFnStop_kept {a0 a1} : ∃ t, execFnStop a0 a1 = .next t ∧ Kept a1 t := by
  unfold execFnStop
  repeat' first
    | with_reducible exact hostWrite_kept

theorem execCndFnStop_kept {a0} : ∃ t, execCndFnStop a0 = .next t ∧ Kept a0 t := by
  unfold execCndFnStop
  repeat' first
    | with_reducible exact hostWrite_kept

theorem execCndFnGo_kept {a0} : ∃ t, execCndFnGo a0 = .next t ∧ Kept a0 t := by
  unfold execCndFnGo
  repeat' first
    | with_reducible exact hostWrite_kept

theorem execCrwSelWrite_kept {a0 a1} : ∃ t, execCrwSelWrite a0 a1 = .next t ∧ Kept a1 t := by
  unfold execCrwSelWrite
  repeat' first
    | with_reducible exact hostWrite_kept

theorem execCrwDataRead_kept {a0} : ∃ t, execCrwDataRead a0 = .next t ∧ Kept a0 t := by
  unfold execCrwDataRead
  repeat' first
    | with_reducible exact hostRead_kept

theorem execMdvCtrlRetrain_kept {a0 a1} : ∃ t, execMdvCtrlRetrain a0 a1 = .next t ∧ Kept a1 t := by
  unfold execMdvCtrlRetrain
  repeat' first
    | with_reducible assumption
    | with_reducible refine State.trainDevices_kept ?_
    | with_reducible refine hostWriteWith_kept ?_
    | split
    | intro _

theorem execLnkCtrlTake_kept {a0} : ∃ t, execLnkCtrlTake a0 = .next t ∧ Kept a0 t := by
  unfold execLnkCtrlTake
  repeat' first
    | with_reducible exact hostWrite_kept

theorem execLnkConfigWrite_kept {a0 a1 a2} : ∃ t, execLnkConfigWrite a0 a1 a2 = .next t ∧ Kept a2 t := by
  unfold execLnkConfigWrite
  repeat' first
    | with_reducible exact Kept.refl _
    | with_reducible exact hostWrite_kept
    | with_reducible refine kept_next ?_
    | split

theorem execLnkApWrite_kept {a0 a1 a2} : ∃ t, execLnkApWrite a0 a1 a2 = .next t ∧ Kept a2 t := by
  unfold execLnkApWrite
  repeat' first
    | with_reducible exact hostWrite_kept

theorem execFolGroupWrite_kept {a0 a1 a2} : ∃ t, execFolGroupWrite a0 a1 a2 = .next t ∧ Kept a2 t := by
  unfold execFolGroupWrite
  repeat' first
    | with_reducible exact Kept.refl _
    | with_reducible exact hostWrite_kept
    | with_reducible refine kept_next ?_
    | split

theorem execTwnCtrlUnsolder_kept {a0} : ∃ t, execTwnCtrlUnsolder a0 = .next t ∧ Kept a0 t := by
  unfold execTwnCtrlUnsolder
  repeat' first
    | with_reducible exact hostWrite_kept

theorem execTwnCtrlResume_kept {a0 a1} : ∃ t, execTwnCtrlResume a0 a1 = .next t ∧ Kept a1 t := by
  unfold execTwnCtrlResume
  repeat' first
    | with_reducible exact hostWrite_kept

theorem execTwnRdctlGo_kept {a0 a1} : ∃ t, execTwnRdctlGo a0 a1 = .next t ∧ Kept a1 t := by
  unfold execTwnRdctlGo
  repeat' first
    | with_reducible exact hostWrite_kept

theorem execTimCtrlClear_kept {a0} : ∃ t, execTimCtrlClear a0 = .next t ∧ Kept a0 t := by
  unfold execTimCtrlClear
  repeat' first
    | with_reducible exact hostWrite_kept

theorem execPwrConfigWrite_kept {a0 a1 a2} : ∃ t, execPwrConfigWrite a0 a1 a2 = .next t ∧ Kept a2 t := by
  unfold execPwrConfigWrite
  repeat' first
    | with_reducible exact Kept.refl _
    | with_reducible exact hostWrite_kept
    | with_reducible refine kept_next ?_
    | split

theorem execCrd_kept {a0 a1} : ∃ t, execCrd a0 a1 = .next t ∧ Kept a1 t := by
  unfold execCrd
  repeat' first
    | with_reducible exact hostRead_kept

theorem execCwr_kept {a0 a1 a2} : ∃ t, execCwr a0 a1 a2 = .next t ∧ Kept a2 t := by
  unfold execCwr
  repeat' first
    | with_reducible exact hostWrite_kept

theorem execSecCtrlClose_kept {a0} : ∃ t, execSecCtrlClose a0 = .next t ∧ Kept a0 t := by
  unfold execSecCtrlClose
  repeat' first
    | with_reducible exact hostWrite_kept

theorem execSecCtrlCommitSvn_kept {a0} : ∃ t, execSecCtrlCommitSvn a0 = .next t ∧ Kept a0 t := by
  unfold execSecCtrlCommitSvn
  repeat' first
    | with_reducible exact hostWrite_kept

theorem execSecClaimWrite_kept {a0 a1 a2} : ∃ t, execSecClaimWrite a0 a1 a2 = .next t ∧ Kept a2 t := by
  unfold execSecClaimWrite
  repeat' first
    | with_reducible exact execSmbusWrite_kept

theorem execSecClaimGo_kept {a0} : ∃ t, execSecClaimGo a0 = .next t ∧ Kept a0 t := by
  unfold execSecClaimGo
  repeat' first
    | with_reducible exact execSmbusWrite_kept

theorem execAtnCtrlResend_kept {a0} : ∃ t, execAtnCtrlResend a0 = .next t ∧ Kept a0 t := by
  unfold execAtnCtrlResend
  repeat' first
    | with_reducible exact hostWrite_kept

theorem execSysResetWarm_kept {a0 a1} : ∃ t, execSysResetWarm a0 a1 = .next t ∧ Kept a1 t := by
  unfold execSysResetWarm
  repeat' first
    | with_reducible assumption
    | with_reducible refine State.putSysReset_kept ?_
    | with_reducible refine hostWriteWith_kept ?_
    | intro _

theorem execRstCtrlPort_kept {a0 a1} : ∃ t, execRstCtrlPort a0 a1 = .next t ∧ Kept a1 t := by
  unfold execRstCtrlPort
  repeat' first
    | with_reducible exact hostWrite_kept

theorem execMgtCtrlP7rst_kept {a0} : ∃ t, execMgtCtrlP7rst a0 = .next t ∧ Kept a0 t := by
  unfold execMgtCtrlP7rst
  repeat' first
    | with_reducible exact mgtWrite_kept

theorem execSysPstateWrite_kept {a0 a1} : ∃ t, execSysPstateWrite a0 a1 = .next t ∧ Kept a1 t := by
  unfold execSysPstateWrite
  repeat' first
    | with_reducible exact hostWrite_kept

theorem execMgtCtrlWake_kept {a0} : ∃ t, execMgtCtrlWake a0 = .next t ∧ Kept a0 t := by
  unfold execMgtCtrlWake
  repeat' first
    | with_reducible exact mgtWrite_kept

theorem execRstFenceSet_kept {a0 a1} : ∃ t, execRstFenceSet a0 a1 = .next t ∧ Kept a1 t := by
  unfold execRstFenceSet
  repeat' first
    | with_reducible exact hostWrite_kept

theorem execRstFenceClear_kept {a0} : ∃ t, execRstFenceClear a0 = .next t ∧ Kept a0 t := by
  unfold execRstFenceClear
  repeat' first
    | with_reducible exact hostWrite_kept

theorem execBstCtrlGo_kept {a0 a1} : ∃ t, execBstCtrlGo a0 a1 = .next t ∧ Kept a1 t := by
  unfold execBstCtrlGo
  repeat' first
    | with_reducible exact hostWrite_kept

theorem execCauseW1cWrite_kept {a0 a1 a2} : ∃ t, execCauseW1cWrite a0 a1 a2 = .next t ∧ Kept a2 t := by
  unfold execCauseW1cWrite
  repeat' first
    | with_reducible exact Kept.refl _
    | with_reducible exact hostWrite_kept
    | with_reducible refine kept_next ?_
    | split

theorem execRcRegisterRead_kept {a0 a1} : ∃ t, execRcRegisterRead a0 a1 = .next t ∧ Kept a1 t := by
  unfold execRcRegisterRead
  repeat' first
    | with_reducible exact Kept.refl _
    | with_reducible exact hostRead_kept
    | with_reducible refine kept_next ?_
    | split

theorem execRegisterWrite_kept {a0 a1 a2} : ∃ t, execRegisterWrite a0 a1 a2 = .next t ∧ Kept a2 t := by
  unfold execRegisterWrite
  repeat' first
    | with_reducible exact hostWrite_kept

/-! ## Machine/Tick.lean -/

theorem State.tryHeld_kept (hx : ∀ c s t, exec c s = .next t → Kept s t) {z : State} {a0 a1} (h : Kept z a0) :
    ∀ t, State.tryHeld a0 a1 = some t → Kept z t := by
  intro t e
  unfold State.tryHeld at e
  split at e
  · rename_i q
    split at e
    · injection e with e
      exact e ▸ h.trans (hx _ _ _ q)
    · contradiction
  · contradiction

theorem State.tick_kept (hx : ∀ c s t, exec c s = .next t → Kept s t) {z : State} {a0} (h : Kept z a0) :
    Kept z (State.tick a0) := by
  unfold State.tick
  split
  · rename_i q
    obtain ⟨f, _, hf⟩ := List.exists_of_findSome?_eq_some q
    exact State.tryHeld_kept hx h _ hf
  · cases e : a0.workStep with
    | none => exact h
    | some t => exact State.workStep_kept h _ e

end Sys2Proof.Machine
end

