-- ==== Sys2Proof/Laws/PerInstr.lean ====
section
/-! SUPPORT. What well-formedness says of the place that a command names, command by command: the bank is one of 15,360
(R208), the port one of P0 to P7, the register offset a multiple of 8 (R6). -/

-- One proof after the other: side by side they want more threads than the memory of a check holds.
set_option Elab.async false

namespace Sys2Proof.Laws.Family

/-- The bank that a command names. -/
def bankOf : Instr → Option Nat
  | .refresh b _ => some b
  | .bankBoundaryService b _ => some b
  | .uncorrectableError e => some e.bank
  | .bankProgramStart b => some b
  | .bankAdd b _ => some b
  | .bankSub b _ => some b
  | .bankAnd b _ => some b
  | .bankOr b _ => some b
  | .bankXor b _ => some b
  | .bankAddi b _ => some b
  | .bankShli b _ => some b
  | .bankShri b _ => some b
  | .bankBeq b _ => some b
  | .bankBne b _ => some b
  | .bankBltu b _ => some b
  | .bankWbc b _ => some b
  | .bankWins b _ => some b
  | .bankWext b _ => some b
  | .bankWcrc b _ => some b
  | .bankLdw b _ => some b
  | .bankStw b _ => some b
  | .bankStc b _ => some b
  | .bankRowop b _ => some b
  | .bankChput b _ => some b
  | .bankChget b _ => some b
  | .chainWordArrival b => some b
  | .bankFadd b _ => some b
  | .bankFsub b _ => some b
  | .bankFmul b _ => some b
  | .bankFfma b _ => some b
  | .bankFdiv b _ => some b
  | .bankFsqrt b _ => some b
  | .bankFmin b _ => some b
  | .bankFmax b _ => some b
  | .bankIadd b _ => some b
  | .bankIsub b _ => some b
  | .bankWand b _ => some b
  | .bankWor b _ => some b
  | .bankWxor b _ => some b
  | .bankWmov b _ => some b
  | .bankWcat b _ => some b
  | .bankWhi b _ => some b
  | .bankWlo b _ => some b
  | .bankKadd b _ => some b
  | .bankEnd b _ => some b
  | _ => none

/-- The port that a command names. -/
def portOf : Instr → Option Nat
  | .ctrlFrame p _ => some p
  | .frameCrcFail p _ => some p
  | .portRetrainTimeout p => some p
  | .rreq p _ _ _ => some p
  | .rdata p _ _ => some p
  | .wreq p _ _ _ => some p
  | .wdata p _ _ => some p
  | .wack p _ => some p
  | .nack p _ => some p
  | .redFrame p _ _ => some p
  | .gathFrame p _ _ => some p
  | .barFrame p _ _ => some p
  | .neighbourTrainingDone p _ _ _ _ => some p
  | .delayMeasured p _ => some p
  | .linkAnneal p => some p
  | .linkAnnealEnd p _ => some p
  | .portLinkLoss p => some p
  | _ => none

/-- The register offset that a command names. -/
def offsetOf : Instr → Option (BitVec 24)
  | .lnkConfigWrite o _ => some o
  | .folGroupWrite o _ => some o
  | .pwrConfigWrite o _ => some o
  | .crd o => some o
  | .cwr o _ => some o
  | .smbusRead o => some o
  | .smbusWrite o _ => some o
  | .causeW1cWrite o _ => some o
  | .rcRegisterRead o => some o
  | .registerWrite o _ => some o
  | _ => none

/-- A well-formed command names a bank, a port and a register that exist. -/
def Statement (i : Instr) : Prop :=
  i.wf = true → (∀ b, bankOf i = some b → b < 15360) ∧ (∀ p, portOf i = some p → p < 8)
    ∧ (∀ o, offsetOf i = some o → o.toNat % 8 = 0)

theorem bank_in {b c : Nat} (h : bankOk b = true) (e : some b = some c) : c < 15360 :=
  Option.some.inj e ▸ of_decide_eq_true h

theorem port_in {p c : Nat} (h : portOk p = true) (e : some p = some c) : c < 8 :=
  Option.some.inj e ▸ of_decide_eq_true h

theorem offset_in {o c : BitVec 24} (h : offsetOk o = true) (e : some o = some c) : c.toNat % 8 = 0 :=
  Option.some.inj e ▸ of_decide_eq_true h

theorem and_left {a b : Bool} (h : (a && b) = true) : a = true := by
  cases a
  · cases h
  · rfl

theorem beatEdge (edge : Option EdgeMeas) (corrected : List Corrected) : Statement (.beatEdge edge corrected) :=
  fun _ => ⟨nofun, nofun, nofun⟩
theorem sourceRecovery (fallback : Bool) (phase : BitVec 32) : Statement (.sourceRecovery fallback phase) :=
  fun _ => ⟨nofun, nofun, nofun⟩
theorem beaLoadWrite (v : Word) : Statement (.beaLoadWrite v) := fun _ => ⟨nofun, nofun, nofun⟩
theorem beaAlarmWrite (v : Word) : Statement (.beaAlarmWrite v) := fun _ => ⟨nofun, nofun, nofun⟩
theorem cndCastBaseWrite (v : Word) : Statement (.cndCastBaseWrite v) := fun _ => ⟨nofun, nofun, nofun⟩
theorem cndRunWrite (v : Word) : Statement (.cndRunWrite v) := fun _ => ⟨nofun, nofun, nofun⟩
theorem fnEpochWrite (blk : FnBlock) (epoch : BitVec 16) (unitFails : Bool) : Statement (.fnEpochWrite blk epoch unitFails) :=
  fun _ => ⟨nofun, nofun, nofun⟩
theorem fnGo (blk : FnBlock) : Statement (.fnGo blk) := fun _ => ⟨nofun, nofun, nofun⟩
theorem fnStop (blk : FnBlock) : Statement (.fnStop blk) := fun _ => ⟨nofun, nofun, nofun⟩
theorem alu (body : Body) : Statement (.alu body) := fun _ => ⟨nofun, nofun, nofun⟩
theorem addi (body : Body) : Statement (.addi body) := fun _ => ⟨nofun, nofun, nofun⟩
theorem andi (body : Body) : Statement (.andi body) := fun _ => ⟨nofun, nofun, nofun⟩
theorem ori (body : Body) : Statement (.ori body) := fun _ => ⟨nofun, nofun, nofun⟩
theorem xori (body : Body) : Statement (.xori body) := fun _ => ⟨nofun, nofun, nofun⟩
theorem shi (body : Body) : Statement (.shi body) := fun _ => ⟨nofun, nofun, nofun⟩
theorem slti (body : Body) : Statement (.slti body) := fun _ => ⟨nofun, nofun, nofun⟩
theorem movz (body : Body) : Statement (.movz body) := fun _ => ⟨nofun, nofun, nofun⟩
theorem movk (body : Body) : Statement (.movk body) := fun _ => ⟨nofun, nofun, nofun⟩
theorem ld (body : Body) : Statement (.ld body) := fun _ => ⟨nofun, nofun, nofun⟩
theorem st (body : Body) : Statement (.st body) := fun _ => ⟨nofun, nofun, nofun⟩
theorem rdsm (body : Body) : Statement (.rdsm body) := fun _ => ⟨nofun, nofun, nofun⟩
theorem rdsp (body : Body) : Statement (.rdsp body) := fun _ => ⟨nofun, nofun, nofun⟩
theorem smw (body : Body) : Statement (.smw body) := fun _ => ⟨nofun, nofun, nofun⟩
theorem smclr (body : Body) : Statement (.smclr body) := fun _ => ⟨nofun, nofun, nofun⟩
theorem brf (body : Body) : Statement (.brf body) := fun _ => ⟨nofun, nofun, nofun⟩
theorem loop (body : Body) : Statement (.loop body) := fun _ => ⟨nofun, nofun, nofun⟩
theorem waitb (body : Body) : Statement (.waitb body) := fun _ => ⟨nofun, nofun, nofun⟩
theorem waita (body : Body) : Statement (.waita body) := fun _ => ⟨nofun, nofun, nofun⟩
theorem waitq (body : Body) : Statement (.waitq body) := fun _ => ⟨nofun, nofun, nofun⟩
theorem awi (body : Body) : Statement (.awi body) := fun _ => ⟨nofun, nofun, nofun⟩
theorem awip (body : Body) : Statement (.awip body) := fun _ => ⟨nofun, nofun, nofun⟩
theorem awn (body : Body) : Statement (.awn body) := fun _ => ⟨nofun, nofun, nofun⟩
theorem awr (body : Body) : Statement (.awr body) := fun _ => ⟨nofun, nofun, nofun⟩
theorem mjmp (body : Body) : Statement (.mjmp body) := fun _ => ⟨nofun, nofun, nofun⟩
theorem mbr (body : Body) : Statement (.mbr body) := fun _ => ⟨nofun, nofun, nofun⟩
theorem msel (body : Body) : Statement (.msel body) := fun _ => ⟨nofun, nofun, nofun⟩
theorem mend (body : Body) : Statement (.mend body) := fun _ => ⟨nofun, nofun, nofun⟩
theorem halt (body : Body) : Statement (.halt body) := fun _ => ⟨nofun, nofun, nofun⟩
theorem summaryDelivery (sm : BitVec 4) : Statement (.summaryDelivery sm) := fun _ => ⟨nofun, nofun, nofun⟩
theorem wordComplete (seq : Nat) : Statement (.wordComplete seq) := fun _ => ⟨nofun, nofun, nofun⟩
theorem waitabs (a : ArrayArgs) : Statement (.waitabs a) := fun _ => ⟨nofun, nofun, nofun⟩
theorem sbar (a : ArrayArgs) : Statement (.sbar a) := fun _ => ⟨nofun, nofun, nofun⟩
theorem sbarRelease (seq : Nat) : Statement (.sbarRelease seq) := fun _ => ⟨nofun, nofun, nofun⟩
theorem fbar (a : ArrayArgs) : Statement (.fbar a) := fun _ => ⟨nofun, nofun, nofun⟩
theorem fbarRelease (seq : Nat) : Statement (.fbarRelease seq) := fun _ => ⟨nofun, nofun, nofun⟩
theorem fbarHeldWarning (seq : Nat) : Statement (.fbarHeldWarning seq) := fun _ => ⟨nofun, nofun, nofun⟩
theorem part (a : ArrayArgs) : Statement (.part a) := fun _ => ⟨nofun, nofun, nofun⟩
theorem nop (a : ArrayArgs) : Statement (.nop a) := fun _ => ⟨nofun, nofun, nofun⟩
theorem mmul (a : ArrayArgs) : Statement (.mmul a) := fun _ => ⟨nofun, nofun, nofun⟩
theorem mmulTx (a : ArrayArgs) : Statement (.mmulTx a) := fun _ => ⟨nofun, nofun, nofun⟩
theorem mmulTy (a : ArrayArgs) : Statement (.mmulTy a) := fun _ => ⟨nofun, nofun, nofun⟩
theorem mmulTxy (a : ArrayArgs) : Statement (.mmulTxy a) := fun _ => ⟨nofun, nofun, nofun⟩
theorem mmac (a : ArrayArgs) : Statement (.mmac a) := fun _ => ⟨nofun, nofun, nofun⟩
theorem mmacTx (a : ArrayArgs) : Statement (.mmacTx a) := fun _ => ⟨nofun, nofun, nofun⟩
theorem mmacTy (a : ArrayArgs) : Statement (.mmacTy a) := fun _ => ⟨nofun, nofun, nofun⟩
theorem mmacTxy (a : ArrayArgs) : Statement (.mmacTxy a) := fun _ => ⟨nofun, nofun, nofun⟩
theorem mtacc (a : ArrayArgs) : Statement (.mtacc a) := fun _ => ⟨nofun, nofun, nofun⟩
theorem mtaccTx (a : ArrayArgs) : Statement (.mtaccTx a) := fun _ => ⟨nofun, nofun, nofun⟩
theorem mtaccTy (a : ArrayArgs) : Statement (.mtaccTy a) := fun _ => ⟨nofun, nofun, nofun⟩
theorem mtaccTxy (a : ArrayArgs) : Statement (.mtaccTxy a) := fun _ => ⟨nofun, nofun, nofun⟩
theorem gload (a : ArrayArgs) : Statement (.gload a) := fun _ => ⟨nofun, nofun, nofun⟩
theorem gstore (a : ArrayArgs) : Statement (.gstore a) := fun _ => ⟨nofun, nofun, nofun⟩
theorem gclr (a : ArrayArgs) : Statement (.gclr a) := fun _ => ⟨nofun, nofun, nofun⟩
theorem ascore (a : ArrayArgs) : Statement (.ascore a) := fun _ => ⟨nofun, nofun, nofun⟩
theorem arows (a : ArrayArgs) : Statement (.arows a) := fun _ => ⟨nofun, nofun, nofun⟩
theorem agscale (a : ArrayArgs) : Statement (.agscale a) := fun _ => ⟨nofun, nofun, nofun⟩
theorem aryCfgWrite (v : Word) : Statement (.aryCfgWrite v) := fun _ => ⟨nofun, nofun, nofun⟩
theorem crwSelWrite (v : Word) : Statement (.crwSelWrite v) := fun _ => ⟨nofun, nofun, nofun⟩
theorem crwDataWrite (v : Word) : Statement (.crwDataWrite v) := fun _ => ⟨nofun, nofun, nofun⟩
theorem emap (a : ArrayArgs) : Statement (.emap a) := fun _ => ⟨nofun, nofun, nofun⟩
theorem ered (a : ArrayArgs) : Statement (.ered a) := fun _ => ⟨nofun, nofun, nofun⟩
theorem vdw (a : ArrayArgs) : Statement (.vdw a) := fun _ => ⟨nofun, nofun, nofun⟩
theorem conv (a : ArrayArgs) : Statement (.conv a) := fun _ => ⟨nofun, nofun, nofun⟩
theorem conva (a : ArrayArgs) : Statement (.conva a) := fun _ => ⟨nofun, nofun, nofun⟩
theorem convwg (a : ArrayArgs) : Statement (.convwg a) := fun _ => ⟨nofun, nofun, nofun⟩
theorem convwga (a : ArrayArgs) : Statement (.convwga a) := fun _ => ⟨nofun, nofun, nofun⟩
theorem pool (a : ArrayArgs) : Statement (.pool a) := fun _ => ⟨nofun, nofun, nofun⟩
theorem resample (a : ArrayArgs) : Statement (.resample a) := fun _ => ⟨nofun, nofun, nofun⟩
theorem tcopy (a : ArrayArgs) : Statement (.tcopy a) := fun _ => ⟨nofun, nofun, nofun⟩
theorem migrate (a : ArrayArgs) : Statement (.migrate a) := fun _ => ⟨nofun, nofun, nofun⟩
theorem pageMoveComplete (upage : Nat) : Statement (.pageMoveComplete upage) := fun _ => ⟨nofun, nofun, nofun⟩
theorem stepadm (a : ArrayArgs) : Statement (.stepadm a) := fun _ => ⟨nofun, nofun, nofun⟩
theorem tmvCfgWrite (v : Word) : Statement (.tmvCfgWrite v) := fun _ => ⟨nofun, nofun, nofun⟩
theorem refresh (bank : Nat) (postpone : Bool) : Statement (.refresh bank postpone) :=
  fun h => ⟨fun _ e => bank_in h e, nofun, nofun⟩
theorem interfaceTracking (dev : Nat) (channel : Nat) : Statement (.interfaceTracking dev channel) :=
  fun _ => ⟨nofun, nofun, nofun⟩
theorem mdvCtrlRetrain (trained : BitVec 24) : Statement (.mdvCtrlRetrain trained) := fun _ => ⟨nofun, nofun, nofun⟩
theorem scrubRead (row : Nat) : Statement (.scrubRead row) := fun _ => ⟨nofun, nofun, nofun⟩
theorem bankBoundaryService (bank : Nat) (classes : List ServiceClass) : Statement (.bankBoundaryService bank classes) :=
  fun h => ⟨fun _ e => bank_in h e, nofun, nofun⟩
theorem uncorrectableError (err : UncorrInfo) : Statement (.uncorrectableError err) :=
  fun h => ⟨fun _ e => bank_in h e, nofun, nofun⟩
theorem mdvRepairGo (v : Word) : Statement (.mdvRepairGo v) := fun _ => ⟨nofun, nofun, nofun⟩
theorem mdvCfgWrite (v : Word) : Statement (.mdvCfgWrite v) := fun _ => ⟨nofun, nofun, nofun⟩
theorem blaunch (a : ArrayArgs) : Statement (.blaunch a) := fun _ => ⟨nofun, nofun, nofun⟩
theorem bwait (a : ArrayArgs) : Statement (.bwait a) := fun _ => ⟨nofun, nofun, nofun⟩
theorem bankProgramStart (bank : Nat) : Statement (.bankProgramStart bank) :=
  fun h => ⟨fun _ e => bank_in h e, nofun, nofun⟩
theorem launchComplete (tag : BitVec 4) : Statement (.launchComplete tag) := fun _ => ⟨nofun, nofun, nofun⟩
theorem bankAdd (bank : Nat) (body : Body) : Statement (.bankAdd bank body) :=
  fun h => ⟨fun _ e => bank_in h e, nofun, nofun⟩
theorem bankSub (bank : Nat) (body : Body) : Statement (.bankSub bank body) :=
  fun h => ⟨fun _ e => bank_in h e, nofun, nofun⟩
theorem bankAnd (bank : Nat) (body : Body) : Statement (.bankAnd bank body) :=
  fun h => ⟨fun _ e => bank_in h e, nofun, nofun⟩
theorem bankOr (bank : Nat) (body : Body) : Statement (.bankOr bank body) :=
  fun h => ⟨fun _ e => bank_in h e, nofun, nofun⟩
theorem bankXor (bank : Nat) (body : Body) : Statement (.bankXor bank body) :=
  fun h => ⟨fun _ e => bank_in h e, nofun, nofun⟩
theorem bankAddi (bank : Nat) (body : Body) : Statement (.bankAddi bank body) :=
  fun h => ⟨fun _ e => bank_in h e, nofun, nofun⟩
theorem bankShli (bank : Nat) (body : Body) : Statement (.bankShli bank body) :=
  fun h => ⟨fun _ e => bank_in h e, nofun, nofun⟩
theorem bankShri (bank : Nat) (body : Body) : Statement (.bankShri bank body) :=
  fun h => ⟨fun _ e => bank_in h e, nofun, nofun⟩
theorem bankBeq (bank : Nat) (body : Body) : Statement (.bankBeq bank body) :=
  fun h => ⟨fun _ e => bank_in h e, nofun, nofun⟩
theorem bankBne (bank : Nat) (body : Body) : Statement (.bankBne bank body) :=
  fun h => ⟨fun _ e => bank_in h e, nofun, nofun⟩
theorem bankBltu (bank : Nat) (body : Body) : Statement (.bankBltu bank body) :=
  fun h => ⟨fun _ e => bank_in h e, nofun, nofun⟩
theorem bankWbc (bank : Nat) (body : Body) : Statement (.bankWbc bank body) :=
  fun h => ⟨fun _ e => bank_in h e, nofun, nofun⟩
theorem bankWins (bank : Nat) (body : Body) : Statement (.bankWins bank body) :=
  fun h => ⟨fun _ e => bank_in h e, nofun, nofun⟩
theorem bankWext (bank : Nat) (body : Body) : Statement (.bankWext bank body) :=
  fun h => ⟨fun _ e => bank_in h e, nofun, nofun⟩
theorem bankWcrc (bank : Nat) (body : Body) : Statement (.bankWcrc bank body) :=
  fun h => ⟨fun _ e => bank_in h e, nofun, nofun⟩
theorem bankLdw (bank : Nat) (body : Body) : Statement (.bankLdw bank body) :=
  fun h => ⟨fun _ e => bank_in h e, nofun, nofun⟩
theorem bankStw (bank : Nat) (body : Body) : Statement (.bankStw bank body) :=
  fun h => ⟨fun _ e => bank_in h e, nofun, nofun⟩
theorem bankStc (bank : Nat) (body : Body) : Statement (.bankStc bank body) :=
  fun h => ⟨fun _ e => bank_in h e, nofun, nofun⟩
theorem bankRowop (bank : Nat) (body : Body) : Statement (.bankRowop bank body) :=
  fun h => ⟨fun _ e => bank_in h e, nofun, nofun⟩
theorem bankChput (bank : Nat) (body : Body) : Statement (.bankChput bank body) :=
  fun h => ⟨fun _ e => bank_in h e, nofun, nofun⟩
theorem bankChget (bank : Nat) (body : Body) : Statement (.bankChget bank body) :=
  fun h => ⟨fun _ e => bank_in h e, nofun, nofun⟩
theorem chainWordArrival (bank : Nat) : Statement (.chainWordArrival bank) :=
  fun h => ⟨fun _ e => bank_in h e, nofun, nofun⟩
theorem bankFadd (bank : Nat) (body : Body) : Statement (.bankFadd bank body) :=
  fun h => ⟨fun _ e => bank_in h e, nofun, nofun⟩
theorem bankFsub (bank : Nat) (body : Body) : Statement (.bankFsub bank body) :=
  fun h => ⟨fun _ e => bank_in h e, nofun, nofun⟩
theorem bankFmul (bank : Nat) (body : Body) : Statement (.bankFmul bank body) :=
  fun h => ⟨fun _ e => bank_in h e, nofun, nofun⟩
theorem bankFfma (bank : Nat) (body : Body) : Statement (.bankFfma bank body) :=
  fun h => ⟨fun _ e => bank_in h e, nofun, nofun⟩
theorem bankFdiv (bank : Nat) (body : Body) : Statement (.bankFdiv bank body) :=
  fun h => ⟨fun _ e => bank_in h e, nofun, nofun⟩
theorem bankFsqrt (bank : Nat) (body : Body) : Statement (.bankFsqrt bank body) :=
  fun h => ⟨fun _ e => bank_in h e, nofun, nofun⟩
theorem bankFmin (bank : Nat) (body : Body) : Statement (.bankFmin bank body) :=
  fun h => ⟨fun _ e => bank_in h e, nofun, nofun⟩
theorem bankFmax (bank : Nat) (body : Body) : Statement (.bankFmax bank body) :=
  fun h => ⟨fun _ e => bank_in h e, nofun, nofun⟩
theorem bankIadd (bank : Nat) (body : Body) : Statement (.bankIadd bank body) :=
  fun h => ⟨fun _ e => bank_in h e, nofun, nofun⟩
theorem bankIsub (bank : Nat) (body : Body) : Statement (.bankIsub bank body) :=
  fun h => ⟨fun _ e => bank_in h e, nofun, nofun⟩
theorem bankWand (bank : Nat) (body : Body) : Statement (.bankWand bank body) :=
  fun h => ⟨fun _ e => bank_in h e, nofun, nofun⟩
theorem bankWor (bank : Nat) (body : Body) : Statement (.bankWor bank body) :=
  fun h => ⟨fun _ e => bank_in h e, nofun, nofun⟩
theorem bankWxor (bank : Nat) (body : Body) : Statement (.bankWxor bank body) :=
  fun h => ⟨fun _ e => bank_in h e, nofun, nofun⟩
theorem bankWmov (bank : Nat) (body : Body) : Statement (.bankWmov bank body) :=
  fun h => ⟨fun _ e => bank_in h e, nofun, nofun⟩
theorem bankWcat (bank : Nat) (body : Body) : Statement (.bankWcat bank body) :=
  fun h => ⟨fun _ e => bank_in h e, nofun, nofun⟩
theorem bankWhi (bank : Nat) (body : Body) : Statement (.bankWhi bank body) :=
  fun h => ⟨fun _ e => bank_in h e, nofun, nofun⟩
theorem bankWlo (bank : Nat) (body : Body) : Statement (.bankWlo bank body) :=
  fun h => ⟨fun _ e => bank_in h e, nofun, nofun⟩
theorem bankKadd (bank : Nat) (body : Body) : Statement (.bankKadd bank body) :=
  fun h => ⟨fun _ e => bank_in h e, nofun, nofun⟩
theorem bankEnd (bank : Nat) (body : Body) : Statement (.bankEnd bank body) :=
  fun h => ⟨fun _ e => bank_in h e, nofun, nofun⟩
theorem gflush (a : ArrayArgs) : Statement (.gflush a) := fun _ => ⟨nofun, nofun, nofun⟩
theorem gdeposit (a : ArrayArgs) : Statement (.gdeposit a) := fun _ => ⟨nofun, nofun, nofun⟩
theorem gharv (a : ArrayArgs) : Statement (.gharv a) := fun _ => ⟨nofun, nofun, nofun⟩
theorem stepabort (a : ArrayArgs) : Statement (.stepabort a) := fun _ => ⟨nofun, nofun, nofun⟩
theorem ctrlFrame (port : Nat) (f : CtrlFrame) : Statement (.ctrlFrame port f) :=
  fun h => ⟨nofun, fun _ e => port_in (and_left h) e, nofun⟩
theorem frameCrcFail (port : Nat) (why : FrameReject) : Statement (.frameCrcFail port why) :=
  fun h => ⟨nofun, fun _ e => port_in h e, nofun⟩
theorem portRetrainTimeout (port : Nat) : Statement (.portRetrainTimeout port) :=
  fun h => ⟨nofun, fun _ e => port_in h e, nofun⟩
theorem rreq (port : Nat) (h : FrameHdr) (addr : Nat) (len : Nat) : Statement (.rreq port h addr len) :=
  fun h => ⟨nofun, fun _ e => port_in (and_left h) e, nofun⟩
theorem rdata (port : Nat) (h : FrameHdr) (payload : List Byte) : Statement (.rdata port h payload) :=
  fun h => ⟨nofun, fun _ e => port_in (and_left h) e, nofun⟩
theorem wreq (port : Nat) (h : FrameHdr) (addr : Nat) (len : Nat) : Statement (.wreq port h addr len) :=
  fun h => ⟨nofun, fun _ e => port_in (and_left h) e, nofun⟩
theorem wdata (port : Nat) (h : FrameHdr) (payload : List Byte) : Statement (.wdata port h payload) :=
  fun h => ⟨nofun, fun _ e => port_in (and_left h) e, nofun⟩
theorem wack (port : Nat) (h : FrameHdr) : Statement (.wack port h) := fun h => ⟨nofun, fun _ e => port_in h e, nofun⟩
theorem nack (port : Nat) (h : FrameHdr) : Statement (.nack port h) := fun h => ⟨nofun, fun _ e => port_in h e, nofun⟩
theorem redFrame (port : Nat) (h : FrameHdr) (payload : List Byte) : Statement (.redFrame port h payload) :=
  fun h => ⟨nofun, fun _ e => port_in (and_left h) e, nofun⟩
theorem gathFrame (port : Nat) (h : FrameHdr) (payload : List Byte) : Statement (.gathFrame port h payload) :=
  fun h => ⟨nofun, fun _ e => port_in (and_left h) e, nofun⟩
theorem barFrame (port : Nat) (h : FrameHdr) (payload : List Byte) : Statement (.barFrame port h payload) :=
  fun h => ⟨nofun, fun _ e => port_in (and_left h) e, nofun⟩
theorem loopTrainingDone (pair : Nat) (lanes : BitVec 8) : Statement (.loopTrainingDone pair lanes) :=
  fun _ => ⟨nofun, nofun, nofun⟩
theorem neighbourTrainingDone (port : Nat) (lanes : BitVec 16) (neigh : BitVec 18) (spare : Bool) (r : List Byte) : Statement (.neighbourTrainingDone port lanes neigh spare r) :=
  fun h => ⟨nofun, fun _ e => port_in (and_left h) e, nofun⟩
theorem delayMeasured (port : Nat) (delay : BitVec 32) : Statement (.delayMeasured port delay) :=
  fun h => ⟨nofun, fun _ e => port_in h e, nofun⟩
theorem lnkCtrlRetrain (ports : BitVec 8) : Statement (.lnkCtrlRetrain ports) := fun _ => ⟨nofun, nofun, nofun⟩
theorem linkAnneal (port : Nat) : Statement (.linkAnneal port) := fun h => ⟨nofun, fun _ e => port_in h e, nofun⟩
theorem linkAnnealEnd (port : Nat) (delay : BitVec 32) : Statement (.linkAnnealEnd port delay) :=
  fun h => ⟨nofun, fun _ e => port_in h e, nofun⟩
theorem transactionStall (tag : Nat) : Statement (.transactionStall tag) := fun _ => ⟨nofun, nofun, nofun⟩
theorem lnkConfigWrite (offset : BitVec 24) (v : Word) : Statement (.lnkConfigWrite offset v) :=
  fun h => ⟨nofun, nofun, fun _ e => offset_in h e⟩
theorem lnkApWrite (aperture : BitVec 8) (v : Word) : Statement (.lnkApWrite aperture v) :=
  fun _ => ⟨nofun, nofun, nofun⟩
theorem cscal (a : ArrayArgs) : Statement (.cscal a) := fun _ => ⟨nofun, nofun, nofun⟩
theorem crsc (a : ArrayArgs) : Statement (.crsc a) := fun _ => ⟨nofun, nofun, nofun⟩
theorem cagr (a : ArrayArgs) : Statement (.cagr a) := fun _ => ⟨nofun, nofun, nofun⟩
theorem car (a : ArrayArgs) : Statement (.car a) := fun _ => ⟨nofun, nofun, nofun⟩
theorem cbcast (a : ArrayArgs) : Statement (.cbcast a) := fun _ => ⟨nofun, nofun, nofun⟩
theorem cwait (a : ArrayArgs) : Statement (.cwait a) := fun _ => ⟨nofun, nofun, nofun⟩
theorem collectiveStart (seq : Nat) : Statement (.collectiveStart seq) := fun _ => ⟨nofun, nofun, nofun⟩
theorem collectiveComplete (seq : Nat) : Statement (.collectiveComplete seq) := fun _ => ⟨nofun, nofun, nofun⟩
theorem collectiveStall (seq : Nat) : Statement (.collectiveStall seq) := fun _ => ⟨nofun, nofun, nofun⟩
theorem folGroupWrite (offset : BitVec 24) (v : Word) : Statement (.folGroupWrite offset v) :=
  fun h => ⟨nofun, nofun, fun _ e => offset_in h e⟩
theorem twnCtrlResume (decision : BitVec 32) : Statement (.twnCtrlResume decision) := fun _ => ⟨nofun, nofun, nofun⟩
theorem mirrorImage (tag : BitVec 13) (image : MirrorImage) : Statement (.mirrorImage tag image) :=
  fun _ => ⟨nofun, nofun, nofun⟩
theorem mirrorAck (tag : BitVec 13) (status : BitVec 16) : Statement (.mirrorAck tag status) :=
  fun _ => ⟨nofun, nofun, nofun⟩
theorem digestTransfer (own mirror : Word) : Statement (.digestTransfer own mirror) := fun _ => ⟨nofun, nofun, nofun⟩
theorem verifyTransfer (pairs : List (Word × Word)) : Statement (.verifyTransfer pairs) :=
  fun _ => ⟨nofun, nofun, nofun⟩
theorem tmirror (a : ArrayArgs) : Statement (.tmirror a) := fun _ => ⟨nofun, nofun, nofun⟩
theorem tpull (a : ArrayArgs) : Statement (.tpull a) := fun _ => ⟨nofun, nofun, nofun⟩
theorem tdigest (a : ArrayArgs) : Statement (.tdigest a) := fun _ => ⟨nofun, nofun, nofun⟩
theorem tdcmp (a : ArrayArgs) : Statement (.tdcmp a) := fun _ => ⟨nofun, nofun, nofun⟩
theorem tverify (a : ArrayArgs) : Statement (.tverify a) := fun _ => ⟨nofun, nofun, nofun⟩
theorem trdig (a : ArrayArgs) : Statement (.trdig a) := fun _ => ⟨nofun, nofun, nofun⟩
theorem thold (a : ArrayArgs) : Statement (.thold a) := fun _ => ⟨nofun, nofun, nofun⟩
theorem tsnap (a : ArrayArgs) : Statement (.tsnap a) := fun _ => ⟨nofun, nofun, nofun⟩
theorem tmark (a : ArrayArgs) : Statement (.tmark a) := fun _ => ⟨nofun, nofun, nofun⟩
theorem trecov (a : ArrayArgs) : Statement (.trecov a) := fun _ => ⟨nofun, nofun, nofun⟩
theorem twnCfgWrite (v : Word) : Statement (.twnCfgWrite v) := fun _ => ⟨nofun, nofun, nofun⟩
theorem twnRdctlGo (v : Word) : Statement (.twnRdctlGo v) := fun _ => ⟨nofun, nofun, nofun⟩
theorem temperSample (t : Telemetry) : Statement (.temperSample t) := fun _ => ⟨nofun, nofun, nofun⟩
theorem thermalShutdown (sensor : BitVec 8) : Statement (.thermalShutdown sensor) := fun _ => ⟨nofun, nofun, nofun⟩
theorem droopDetect (quarter : BitVec 2) : Statement (.droopDetect quarter) := fun _ => ⟨nofun, nofun, nofun⟩
theorem droopHoldExpire (quarter : BitVec 2) : Statement (.droopHoldExpire quarter) := fun _ => ⟨nofun, nofun, nofun⟩
theorem droopRateStep (quarter : BitVec 2) : Statement (.droopRateStep quarter) := fun _ => ⟨nofun, nofun, nofun⟩
theorem swarfHoldExpire (sec : BitVec 2) : Statement (.swarfHoldExpire sec) := fun _ => ⟨nofun, nofun, nofun⟩
theorem swarfDecayStep (sec : BitVec 2) : Statement (.swarfDecayStep sec) := fun _ => ⟨nofun, nofun, nofun⟩
theorem rampStep (sec : BitVec 2) : Statement (.rampStep sec) := fun _ => ⟨nofun, nofun, nofun⟩
theorem pwrFreqWrite (v : Word) : Statement (.pwrFreqWrite v) := fun _ => ⟨nofun, nofun, nofun⟩
theorem clockAnnealComplete (results : List CoreAnneal) : Statement (.clockAnnealComplete results) :=
  fun _ => ⟨nofun, nofun, nofun⟩
theorem pwrConfigWrite (offset : BitVec 24) (v : Word) : Statement (.pwrConfigWrite offset v) :=
  fun h => ⟨nofun, nofun, fun _ e => offset_in h e⟩
theorem crd (offset : BitVec 24) : Statement (.crd offset) := fun h => ⟨nofun, nofun, fun _ e => offset_in h e⟩
theorem cwr (offset : BitVec 24) (v : Word) : Statement (.cwr offset v) :=
  fun h => ⟨nofun, nofun, fun _ e => offset_in h e⟩
theorem mrd (pspace : Bool) (addr : Word) (len : BitVec 16) : Statement (.mrd pspace addr len) :=
  fun _ => ⟨nofun, nofun, nofun⟩
theorem mwr (pspace : Bool) (addr : Word) (data : List Byte) : Statement (.mwr pspace addr data) :=
  fun _ => ⟨nofun, nofun, nofun⟩
theorem sopen (slot : Word) (nonce : List Byte) : Statement (.sopen slot nonce) := fun _ => ⟨nofun, nofun, nofun⟩
theorem sproof (slot : Word) (proof : List Byte) : Statement (.sproof slot proof) := fun _ => ⟨nofun, nofun, nofun⟩
theorem skey (slot : Word) (priv : BitVec 8) (key : List Byte) : Statement (.skey slot priv key) :=
  fun _ => ⟨nofun, nofun, nofun⟩
theorem fkey (key : List Byte) : Statement (.fkey key) := fun _ => ⟨nofun, nofun, nofun⟩
theorem fww (offset : Word) (data : List Byte) : Statement (.fww offset data) := fun _ => ⟨nofun, nofun, nofun⟩
theorem fwend (len : Word) : Statement (.fwend len) := fun _ => ⟨nofun, nofun, nofun⟩
theorem attest (nonce : List Byte) : Statement (.attest nonce) := fun _ => ⟨nofun, nofun, nofun⟩
theorem secClaimWrite (n : BitVec 2) (v : Word) : Statement (.secClaimWrite n v) := fun _ => ⟨nofun, nofun, nofun⟩
theorem coldReset (pu : PowerUp) : Statement (.coldReset pu) := fun _ => ⟨nofun, nofun, nofun⟩
theorem rstInN (pu : PowerUp) : Statement (.rstInN pu) := fun _ => ⟨nofun, nofun, nofun⟩
theorem sysResetWarm (pu : PowerUp) : Statement (.sysResetWarm pu) := fun _ => ⟨nofun, nofun, nofun⟩
theorem rstCtrlPort (ports : BitVec 8) : Statement (.rstCtrlPort ports) := fun _ => ⟨nofun, nofun, nofun⟩
theorem sysPstateWrite (v : Word) : Statement (.sysPstateWrite v) := fun _ => ⟨nofun, nofun, nofun⟩
theorem rstFenceSet (quarter : BitVec 2) : Statement (.rstFenceSet quarter) := fun _ => ⟨nofun, nofun, nofun⟩
theorem bstCtrlGo (v : Word) : Statement (.bstCtrlGo v) := fun _ => ⟨nofun, nofun, nofun⟩
theorem bistComplete (fails : List FailEntry) : Statement (.bistComplete fails) := fun _ => ⟨nofun, nofun, nofun⟩
theorem smbusRead (offset : BitVec 24) : Statement (.smbusRead offset) :=
  fun h => ⟨nofun, nofun, fun _ e => offset_in h e⟩
theorem smbusWrite (offset : BitVec 24) (v : Word) : Statement (.smbusWrite offset v) :=
  fun h => ⟨nofun, nofun, fun _ e => offset_in h e⟩
theorem causeW1cWrite (offset : BitVec 24) (v : Word) : Statement (.causeW1cWrite offset v) :=
  fun h => ⟨nofun, nofun, fun _ e => offset_in h e⟩
theorem rcRegisterRead (offset : BitVec 24) : Statement (.rcRegisterRead offset) :=
  fun h => ⟨nofun, nofun, fun _ e => offset_in h e⟩
theorem registerWrite (offset : BitVec 24) (v : Word) : Statement (.registerWrite offset v) :=
  fun h => ⟨nofun, nofun, fun _ e => offset_in h e⟩
theorem portLinkLoss (port : Nat) : Statement (.portLinkLoss port) := fun h => ⟨nofun, fun _ e => port_in h e, nofun⟩
theorem memoryDieTemperatureCrossing (dev : Nat) (temp : BitVec 8) : Statement (.memoryDieTemperatureCrossing dev temp) :=
  fun _ => ⟨nofun, nofun, nofun⟩
theorem beatLoss : Statement (.beatLoss) := fun _ => ⟨nofun, nofun, nofun⟩
theorem holdoverExpiry : Statement (.holdoverExpiry) := fun _ => ⟨nofun, nofun, nofun⟩
theorem castAdmission : Statement (.castAdmission) := fun _ => ⟨nofun, nofun, nofun⟩
theorem castStart : Statement (.castStart) := fun _ => ⟨nofun, nofun, nofun⟩
theorem cndFnStop : Statement (.cndFnStop) := fun _ => ⟨nofun, nofun, nofun⟩
theorem cndFnGo : Statement (.cndFnGo) := fun _ => ⟨nofun, nofun, nofun⟩
theorem cndQuench : Statement (.cndQuench) := fun _ => ⟨nofun, nofun, nofun⟩
theorem conductorStopped : Statement (.conductorStopped) := fun _ => ⟨nofun, nofun, nofun⟩
theorem ldDataReturn : Statement (.ldDataReturn) := fun _ => ⟨nofun, nofun, nofun⟩
theorem waitbExpire : Statement (.waitbExpire) := fun _ => ⟨nofun, nofun, nofun⟩
theorem waitaExpire : Statement (.waitaExpire) := fun _ => ⟨nofun, nofun, nofun⟩
theorem waitqMet : Statement (.waitqMet) := fun _ => ⟨nofun, nofun, nofun⟩
theorem enqueueResume : Statement (.enqueueResume) := fun _ => ⟨nofun, nofun, nofun⟩
theorem partApplyCheck : Statement (.partApplyCheck) := fun _ => ⟨nofun, nofun, nofun⟩
theorem crwDataRead : Statement (.crwDataRead) := fun _ => ⟨nofun, nofun, nofun⟩
theorem pageMoveStart : Statement (.pageMoveStart) := fun _ => ⟨nofun, nofun, nofun⟩
theorem tmvCtrlRelease : Statement (.tmvCtrlRelease) := fun _ => ⟨nofun, nofun, nofun⟩
theorem releaseComplete : Statement (.releaseComplete) := fun _ => ⟨nofun, nofun, nofun⟩
theorem uncorrPhaseStop : Statement (.uncorrPhaseStop) := fun _ => ⟨nofun, nofun, nofun⟩
theorem repairComplete : Statement (.repairComplete) := fun _ => ⟨nofun, nofun, nofun⟩
theorem mdvFnStop : Statement (.mdvFnStop) := fun _ => ⟨nofun, nofun, nofun⟩
theorem lnkCtrlTake : Statement (.lnkCtrlTake) := fun _ => ⟨nofun, nofun, nofun⟩
theorem lnkCtrlGive : Statement (.lnkCtrlGive) := fun _ => ⟨nofun, nofun, nofun⟩
theorem twnCtrlSolder : Statement (.twnCtrlSolder) := fun _ => ⟨nofun, nofun, nofun⟩
theorem twnCtrlUnsolder : Statement (.twnCtrlUnsolder) := fun _ => ⟨nofun, nofun, nofun⟩
theorem solderTimeout : Statement (.solderTimeout) := fun _ => ⟨nofun, nofun, nofun⟩
theorem solderTransfer : Statement (.solderTransfer) := fun _ => ⟨nofun, nofun, nofun⟩
theorem unsolderTransfer : Statement (.unsolderTransfer) := fun _ => ⟨nofun, nofun, nofun⟩
theorem rangeDigestComplete : Statement (.rangeDigestComplete) := fun _ => ⟨nofun, nofun, nofun⟩
theorem timCtrlClear : Statement (.timCtrlClear) := fun _ => ⟨nofun, nofun, nofun⟩
theorem freqChange : Statement (.freqChange) := fun _ => ⟨nofun, nofun, nofun⟩
theorem pwrCtrlAnneal : Statement (.pwrCtrlAnneal) := fun _ => ⟨nofun, nofun, nofun⟩
theorem pwrCtrlClracc : Statement (.pwrCtrlClracc) := fun _ => ⟨nofun, nofun, nofun⟩
theorem sclose : Statement (.sclose) := fun _ => ⟨nofun, nofun, nofun⟩
theorem sessionLockoutExpire : Statement (.sessionLockoutExpire) := fun _ => ⟨nofun, nofun, nofun⟩
theorem firmwareVerifyComplete : Statement (.firmwareVerifyComplete) := fun _ => ⟨nofun, nofun, nofun⟩
theorem attestComplete : Statement (.attestComplete) := fun _ => ⟨nofun, nofun, nofun⟩
theorem secCtrlClose : Statement (.secCtrlClose) := fun _ => ⟨nofun, nofun, nofun⟩
theorem secCtrlCommitSvn : Statement (.secCtrlCommitSvn) := fun _ => ⟨nofun, nofun, nofun⟩
theorem secCtrlRelease : Statement (.secCtrlRelease) := fun _ => ⟨nofun, nofun, nofun⟩
theorem secClaimGo : Statement (.secClaimGo) := fun _ => ⟨nofun, nofun, nofun⟩
theorem attnFrameSend : Statement (.attnFrameSend) := fun _ => ⟨nofun, nofun, nofun⟩
theorem atnCtrlResend : Statement (.atnCtrlResend) := fun _ => ⟨nofun, nofun, nofun⟩
theorem powerUpPhaseTimeout : Statement (.powerUpPhaseTimeout) := fun _ => ⟨nofun, nofun, nofun⟩
theorem rstCtrlArray : Statement (.rstCtrlArray) := fun _ => ⟨nofun, nofun, nofun⟩
theorem arrayResetComplete : Statement (.arrayResetComplete) := fun _ => ⟨nofun, nofun, nofun⟩
theorem mgtCtrlP7rst : Statement (.mgtCtrlP7rst) := fun _ => ⟨nofun, nofun, nofun⟩
theorem pstateEntryComplete : Statement (.pstateEntryComplete) := fun _ => ⟨nofun, nofun, nofun⟩
theorem pstateExitComplete (trained : BitVec 24) : Statement (.pstateExitComplete trained) :=
  fun _ => ⟨nofun, nofun, nofun⟩
theorem mgtCtrlWake : Statement (.mgtCtrlWake) := fun _ => ⟨nofun, nofun, nofun⟩
theorem pwrEnLow : Statement (.pwrEnLow) := fun _ => ⟨nofun, nofun, nofun⟩
theorem mainSupplyLoss : Statement (.mainSupplyLoss) := fun _ => ⟨nofun, nofun, nofun⟩
theorem standbySupplyLoss : Statement (.standbySupplyLoss) := fun _ => ⟨nofun, nofun, nofun⟩
theorem rstFenceClear : Statement (.rstFenceClear) := fun _ => ⟨nofun, nofun, nofun⟩
theorem mgtFlashdataRead : Statement (.mgtFlashdataRead) := fun _ => ⟨nofun, nofun, nofun⟩

end Sys2Proof.Laws.Family
end

