-- ==== Sys2Proof/Laws/State.lean ====
section
/-! SUPPORT. What the small updates of the machine's state do, field by field: each lemma reads one field after one
update. -/

-- One proof after the other: side by side they want more threads than the memory of a check holds.
set_option Elab.async false

namespace Sys2Proof.Machine

/-! ## State.drawn -/

@[simp] theorem State.drawn_pending (s : State) : (s.drawn).pending = s.pending := rfl
@[simp] theorem State.drawn_held (s : State) : (s.drawn).held = s.held := rfl
@[simp] theorem State.drawn_fresh (s : State) : (s.drawn).fresh = s.fresh + 1 := rfl
@[simp] theorem State.drawn_sent (s : State) : (s.drawn).sent = s.sent := rfl
@[simp] theorem State.drawn_cause (s : State) : (s.drawn).cause = s.cause := rfl
@[simp] theorem State.drawn_mask (s : State) : (s.drawn).mask = s.mask := rfl
@[simp] theorem State.drawn_cleared (s : State) : (s.drawn).cleared = s.cleared := rfl
@[simp] theorem State.drawn_fn (s : State) : (s.drawn).fn = s.fn := rfl
@[simp] theorem State.drawn_sys (s : State) : (s.drawn).sys = s.sys := rfl
@[simp] theorem State.drawn_flash (s : State) : (s.drawn).flash = s.flash := rfl
@[simp] theorem State.drawn_bea (s : State) : (s.drawn).bea = s.bea := rfl
@[simp] theorem State.drawn_cnd (s : State) : (s.drawn).cnd = s.cnd := rfl
@[simp] theorem State.drawn_staged (s : State) : (s.drawn).staged = s.staged := rfl
@[simp] theorem State.drawn_cast (s : State) : (s.drawn).cast = s.cast := rfl
@[simp] theorem State.drawn_sheet (s : State) : (s.drawn).sheet = s.sheet := rfl
@[simp] theorem State.drawn_crw (s : State) : (s.drawn).crw = s.crw := rfl
@[simp] theorem State.drawn_fmt (s : State) : (s.drawn).fmt = s.fmt := rfl
@[simp] theorem State.drawn_vec (s : State) : (s.drawn).vec = s.vec := rfl
@[simp] theorem State.drawn_mem (s : State) : (s.drawn).mem = s.mem := rfl
@[simp] theorem State.drawn_headers (s : State) : (s.drawn).headers = s.headers := rfl
@[simp] theorem State.drawn_tmv (s : State) : (s.drawn).tmv = s.tmv := rfl
@[simp] theorem State.drawn_tir (s : State) : (s.drawn).tir = s.tir := rfl
@[simp] theorem State.drawn_mdv (s : State) : (s.drawn).mdv = s.mdv := rfl
@[simp] theorem State.drawn_bnk (s : State) : (s.drawn).bnk = s.bnk := rfl
@[simp] theorem State.drawn_upd (s : State) : (s.drawn).upd = s.upd := rfl
@[simp] theorem State.drawn_lnk (s : State) : (s.drawn).lnk = s.lnk := rfl
@[simp] theorem State.drawn_fol (s : State) : (s.drawn).fol = s.fol := rfl
@[simp] theorem State.drawn_twn (s : State) : (s.drawn).twn = s.twn := rfl
@[simp] theorem State.drawn_tim (s : State) : (s.drawn).tim = s.tim := rfl
@[simp] theorem State.drawn_pwr (s : State) : (s.drawn).pwr = s.pwr := rfl
@[simp] theorem State.drawn_sec (s : State) : (s.drawn).sec = s.sec := rfl
@[simp] theorem State.drawn_atn (s : State) : (s.drawn).atn = s.atn := rfl
@[simp] theorem State.drawn_rst (s : State) : (s.drawn).rst = s.rst := rfl
@[simp] theorem State.drawn_bst (s : State) : (s.drawn).bst = s.bst := rfl
@[simp] theorem State.drawn_mgt (s : State) : (s.drawn).mgt = s.mgt := rfl

/-! ## State.emit -/

@[simp] theorem State.emit_pending (s : State) (e : Emit) : (s.emit e).pending = s.pending := rfl
@[simp] theorem State.emit_held (s : State) (e : Emit) : (s.emit e).held = s.held := rfl
@[simp] theorem State.emit_fresh (s : State) (e : Emit) : (s.emit e).fresh = s.fresh := rfl
@[simp] theorem State.emit_sent (s : State) (e : Emit) : (s.emit e).sent = s.sent ++ [e] := rfl
@[simp] theorem State.emit_cause (s : State) (e : Emit) : (s.emit e).cause = s.cause := rfl
@[simp] theorem State.emit_mask (s : State) (e : Emit) : (s.emit e).mask = s.mask := rfl
@[simp] theorem State.emit_cleared (s : State) (e : Emit) : (s.emit e).cleared = s.cleared := rfl
@[simp] theorem State.emit_fn (s : State) (e : Emit) : (s.emit e).fn = s.fn := rfl
@[simp] theorem State.emit_sys (s : State) (e : Emit) : (s.emit e).sys = s.sys := rfl
@[simp] theorem State.emit_flash (s : State) (e : Emit) : (s.emit e).flash = s.flash := rfl
@[simp] theorem State.emit_bea (s : State) (e : Emit) : (s.emit e).bea = s.bea := rfl
@[simp] theorem State.emit_cnd (s : State) (e : Emit) : (s.emit e).cnd = s.cnd := rfl
@[simp] theorem State.emit_staged (s : State) (e : Emit) : (s.emit e).staged = s.staged := rfl
@[simp] theorem State.emit_cast (s : State) (e : Emit) : (s.emit e).cast = s.cast := rfl
@[simp] theorem State.emit_sheet (s : State) (e : Emit) : (s.emit e).sheet = s.sheet := rfl
@[simp] theorem State.emit_crw (s : State) (e : Emit) : (s.emit e).crw = s.crw := rfl
@[simp] theorem State.emit_fmt (s : State) (e : Emit) : (s.emit e).fmt = s.fmt := rfl
@[simp] theorem State.emit_vec (s : State) (e : Emit) : (s.emit e).vec = s.vec := rfl
@[simp] theorem State.emit_mem (s : State) (e : Emit) : (s.emit e).mem = s.mem := rfl
@[simp] theorem State.emit_headers (s : State) (e : Emit) : (s.emit e).headers = s.headers := rfl
@[simp] theorem State.emit_tmv (s : State) (e : Emit) : (s.emit e).tmv = s.tmv := rfl
@[simp] theorem State.emit_tir (s : State) (e : Emit) : (s.emit e).tir = s.tir := rfl
@[simp] theorem State.emit_mdv (s : State) (e : Emit) : (s.emit e).mdv = s.mdv := rfl
@[simp] theorem State.emit_bnk (s : State) (e : Emit) : (s.emit e).bnk = s.bnk := rfl
@[simp] theorem State.emit_upd (s : State) (e : Emit) : (s.emit e).upd = s.upd := rfl
@[simp] theorem State.emit_lnk (s : State) (e : Emit) : (s.emit e).lnk = s.lnk := rfl
@[simp] theorem State.emit_fol (s : State) (e : Emit) : (s.emit e).fol = s.fol := rfl
@[simp] theorem State.emit_twn (s : State) (e : Emit) : (s.emit e).twn = s.twn := rfl
@[simp] theorem State.emit_tim (s : State) (e : Emit) : (s.emit e).tim = s.tim := rfl
@[simp] theorem State.emit_pwr (s : State) (e : Emit) : (s.emit e).pwr = s.pwr := rfl
@[simp] theorem State.emit_sec (s : State) (e : Emit) : (s.emit e).sec = s.sec := rfl
@[simp] theorem State.emit_atn (s : State) (e : Emit) : (s.emit e).atn = s.atn := rfl
@[simp] theorem State.emit_rst (s : State) (e : Emit) : (s.emit e).rst = s.rst := rfl
@[simp] theorem State.emit_bst (s : State) (e : Emit) : (s.emit e).bst = s.bst := rfl
@[simp] theorem State.emit_mgt (s : State) (e : Emit) : (s.emit e).mgt = s.mgt := rfl

/-! ## State.settleAttn -/

@[simp] theorem State.settleAttn_pending (s : State) : (s.settleAttn).pending = s.pending := rfl
@[simp] theorem State.settleAttn_held (s : State) : (s.settleAttn).held = s.held := rfl
@[simp] theorem State.settleAttn_fresh (s : State) : (s.settleAttn).fresh = s.fresh := rfl
@[simp] theorem State.settleAttn_sent (s : State) : (s.settleAttn).sent = s.sent := rfl
@[simp] theorem State.settleAttn_cause (s : State) : (s.settleAttn).cause = s.cause := rfl
@[simp] theorem State.settleAttn_mask (s : State) : (s.settleAttn).mask = s.mask := rfl
@[simp] theorem State.settleAttn_cleared (s : State) : (s.settleAttn).cleared = s.cleared := rfl
@[simp] theorem State.settleAttn_fn (s : State) : (s.settleAttn).fn = s.fn := rfl
@[simp] theorem State.settleAttn_sys (s : State) : (s.settleAttn).sys = s.sys := rfl
@[simp] theorem State.settleAttn_flash (s : State) : (s.settleAttn).flash = s.flash := rfl
@[simp] theorem State.settleAttn_bea (s : State) : (s.settleAttn).bea = s.bea := rfl
@[simp] theorem State.settleAttn_cnd (s : State) : (s.settleAttn).cnd = s.cnd := rfl
@[simp] theorem State.settleAttn_staged (s : State) : (s.settleAttn).staged = s.staged := rfl
@[simp] theorem State.settleAttn_cast (s : State) : (s.settleAttn).cast = s.cast := rfl
@[simp] theorem State.settleAttn_sheet (s : State) : (s.settleAttn).sheet = s.sheet := rfl
@[simp] theorem State.settleAttn_crw (s : State) : (s.settleAttn).crw = s.crw := rfl
@[simp] theorem State.settleAttn_fmt (s : State) : (s.settleAttn).fmt = s.fmt := rfl
@[simp] theorem State.settleAttn_vec (s : State) : (s.settleAttn).vec = s.vec := rfl
@[simp] theorem State.settleAttn_mem (s : State) : (s.settleAttn).mem = s.mem := rfl
@[simp] theorem State.settleAttn_headers (s : State) : (s.settleAttn).headers = s.headers := rfl
@[simp] theorem State.settleAttn_tmv (s : State) : (s.settleAttn).tmv = s.tmv := rfl
@[simp] theorem State.settleAttn_tir (s : State) : (s.settleAttn).tir = s.tir := rfl
@[simp] theorem State.settleAttn_mdv (s : State) : (s.settleAttn).mdv = s.mdv := rfl
@[simp] theorem State.settleAttn_bnk (s : State) : (s.settleAttn).bnk = s.bnk := rfl
@[simp] theorem State.settleAttn_upd (s : State) : (s.settleAttn).upd = s.upd := rfl
@[simp] theorem State.settleAttn_lnk (s : State) : (s.settleAttn).lnk = s.lnk := rfl
@[simp] theorem State.settleAttn_fol (s : State) : (s.settleAttn).fol = s.fol := rfl
@[simp] theorem State.settleAttn_twn (s : State) : (s.settleAttn).twn = s.twn := rfl
@[simp] theorem State.settleAttn_tim (s : State) : (s.settleAttn).tim = s.tim := rfl
@[simp] theorem State.settleAttn_pwr (s : State) : (s.settleAttn).pwr = s.pwr := rfl
@[simp] theorem State.settleAttn_sec (s : State) : (s.settleAttn).sec = s.sec := rfl
@[simp] theorem State.settleAttn_rst (s : State) : (s.settleAttn).rst = s.rst := rfl
@[simp] theorem State.settleAttn_bst (s : State) : (s.settleAttn).bst = s.bst := rfl
@[simp] theorem State.settleAttn_mgt (s : State) : (s.settleAttn).mgt = s.mgt := rfl

/-! ## State.putCause -/

@[simp] theorem State.putCause_pending (s : State) (b : Blk) (v : Word) : (s.putCause b v).pending = s.pending := rfl
@[simp] theorem State.putCause_held (s : State) (b : Blk) (v : Word) : (s.putCause b v).held = s.held := rfl
@[simp] theorem State.putCause_fresh (s : State) (b : Blk) (v : Word) : (s.putCause b v).fresh = s.fresh := rfl
@[simp] theorem State.putCause_sent (s : State) (b : Blk) (v : Word) : (s.putCause b v).sent = s.sent := rfl
@[simp] theorem State.putCause_cause (s : State) (b : Blk) (v : Word) :
    (s.putCause b v).cause = s.cause.set b.idx.val v := rfl
@[simp] theorem State.putCause_mask (s : State) (b : Blk) (v : Word) : (s.putCause b v).mask = s.mask := rfl
@[simp] theorem State.putCause_cleared (s : State) (b : Blk) (v : Word) :
    (s.putCause b v).cleared = if v = 0 then s.cleared ||| blkBit b else s.cleared := rfl
@[simp] theorem State.putCause_fn (s : State) (b : Blk) (v : Word) : (s.putCause b v).fn = s.fn := rfl
@[simp] theorem State.putCause_sys (s : State) (b : Blk) (v : Word) : (s.putCause b v).sys = s.sys := rfl
@[simp] theorem State.putCause_flash (s : State) (b : Blk) (v : Word) : (s.putCause b v).flash = s.flash := rfl
@[simp] theorem State.putCause_bea (s : State) (b : Blk) (v : Word) : (s.putCause b v).bea = s.bea := rfl
@[simp] theorem State.putCause_cnd (s : State) (b : Blk) (v : Word) : (s.putCause b v).cnd = s.cnd := rfl
@[simp] theorem State.putCause_staged (s : State) (b : Blk) (v : Word) : (s.putCause b v).staged = s.staged := rfl
@[simp] theorem State.putCause_cast (s : State) (b : Blk) (v : Word) : (s.putCause b v).cast = s.cast := rfl
@[simp] theorem State.putCause_sheet (s : State) (b : Blk) (v : Word) : (s.putCause b v).sheet = s.sheet := rfl
@[simp] theorem State.putCause_crw (s : State) (b : Blk) (v : Word) : (s.putCause b v).crw = s.crw := rfl
@[simp] theorem State.putCause_fmt (s : State) (b : Blk) (v : Word) : (s.putCause b v).fmt = s.fmt := rfl
@[simp] theorem State.putCause_vec (s : State) (b : Blk) (v : Word) : (s.putCause b v).vec = s.vec := rfl
@[simp] theorem State.putCause_mem (s : State) (b : Blk) (v : Word) : (s.putCause b v).mem = s.mem := rfl
@[simp] theorem State.putCause_headers (s : State) (b : Blk) (v : Word) : (s.putCause b v).headers = s.headers := rfl
@[simp] theorem State.putCause_tmv (s : State) (b : Blk) (v : Word) : (s.putCause b v).tmv = s.tmv := rfl
@[simp] theorem State.putCause_tir (s : State) (b : Blk) (v : Word) : (s.putCause b v).tir = s.tir := rfl
@[simp] theorem State.putCause_mdv (s : State) (b : Blk) (v : Word) : (s.putCause b v).mdv = s.mdv := rfl
@[simp] theorem State.putCause_bnk (s : State) (b : Blk) (v : Word) : (s.putCause b v).bnk = s.bnk := rfl
@[simp] theorem State.putCause_upd (s : State) (b : Blk) (v : Word) : (s.putCause b v).upd = s.upd := rfl
@[simp] theorem State.putCause_lnk (s : State) (b : Blk) (v : Word) : (s.putCause b v).lnk = s.lnk := rfl
@[simp] theorem State.putCause_fol (s : State) (b : Blk) (v : Word) : (s.putCause b v).fol = s.fol := rfl
@[simp] theorem State.putCause_twn (s : State) (b : Blk) (v : Word) : (s.putCause b v).twn = s.twn := rfl
@[simp] theorem State.putCause_tim (s : State) (b : Blk) (v : Word) : (s.putCause b v).tim = s.tim := rfl
@[simp] theorem State.putCause_pwr (s : State) (b : Blk) (v : Word) : (s.putCause b v).pwr = s.pwr := rfl
@[simp] theorem State.putCause_sec (s : State) (b : Blk) (v : Word) : (s.putCause b v).sec = s.sec := rfl
@[simp] theorem State.putCause_rst (s : State) (b : Blk) (v : Word) : (s.putCause b v).rst = s.rst := rfl
@[simp] theorem State.putCause_bst (s : State) (b : Blk) (v : Word) : (s.putCause b v).bst = s.bst := rfl
@[simp] theorem State.putCause_mgt (s : State) (b : Blk) (v : Word) : (s.putCause b v).mgt = s.mgt := rfl

/-! ## State.putMask -/

@[simp] theorem State.putMask_pending (s : State) (b : Blk) (v : Word) : (s.putMask b v).pending = s.pending := rfl
@[simp] theorem State.putMask_held (s : State) (b : Blk) (v : Word) : (s.putMask b v).held = s.held := rfl
@[simp] theorem State.putMask_fresh (s : State) (b : Blk) (v : Word) : (s.putMask b v).fresh = s.fresh := rfl
@[simp] theorem State.putMask_sent (s : State) (b : Blk) (v : Word) : (s.putMask b v).sent = s.sent := rfl
@[simp] theorem State.putMask_cause (s : State) (b : Blk) (v : Word) : (s.putMask b v).cause = s.cause := rfl
@[simp] theorem State.putMask_mask (s : State) (b : Blk) (v : Word) :
    (s.putMask b v).mask = s.mask.set b.idx.val v := rfl
@[simp] theorem State.putMask_cleared (s : State) (b : Blk) (v : Word) : (s.putMask b v).cleared = s.cleared := rfl
@[simp] theorem State.putMask_fn (s : State) (b : Blk) (v : Word) : (s.putMask b v).fn = s.fn := rfl
@[simp] theorem State.putMask_sys (s : State) (b : Blk) (v : Word) : (s.putMask b v).sys = s.sys := rfl
@[simp] theorem State.putMask_flash (s : State) (b : Blk) (v : Word) : (s.putMask b v).flash = s.flash := rfl
@[simp] theorem State.putMask_bea (s : State) (b : Blk) (v : Word) : (s.putMask b v).bea = s.bea := rfl
@[simp] theorem State.putMask_cnd (s : State) (b : Blk) (v : Word) : (s.putMask b v).cnd = s.cnd := rfl
@[simp] theorem State.putMask_staged (s : State) (b : Blk) (v : Word) : (s.putMask b v).staged = s.staged := rfl
@[simp] theorem State.putMask_cast (s : State) (b : Blk) (v : Word) : (s.putMask b v).cast = s.cast := rfl
@[simp] theorem State.putMask_sheet (s : State) (b : Blk) (v : Word) : (s.putMask b v).sheet = s.sheet := rfl
@[simp] theorem State.putMask_crw (s : State) (b : Blk) (v : Word) : (s.putMask b v).crw = s.crw := rfl
@[simp] theorem State.putMask_fmt (s : State) (b : Blk) (v : Word) : (s.putMask b v).fmt = s.fmt := rfl
@[simp] theorem State.putMask_vec (s : State) (b : Blk) (v : Word) : (s.putMask b v).vec = s.vec := rfl
@[simp] theorem State.putMask_mem (s : State) (b : Blk) (v : Word) : (s.putMask b v).mem = s.mem := rfl
@[simp] theorem State.putMask_headers (s : State) (b : Blk) (v : Word) : (s.putMask b v).headers = s.headers := rfl
@[simp] theorem State.putMask_tmv (s : State) (b : Blk) (v : Word) : (s.putMask b v).tmv = s.tmv := rfl
@[simp] theorem State.putMask_tir (s : State) (b : Blk) (v : Word) : (s.putMask b v).tir = s.tir := rfl
@[simp] theorem State.putMask_mdv (s : State) (b : Blk) (v : Word) : (s.putMask b v).mdv = s.mdv := rfl
@[simp] theorem State.putMask_bnk (s : State) (b : Blk) (v : Word) : (s.putMask b v).bnk = s.bnk := rfl
@[simp] theorem State.putMask_upd (s : State) (b : Blk) (v : Word) : (s.putMask b v).upd = s.upd := rfl
@[simp] theorem State.putMask_lnk (s : State) (b : Blk) (v : Word) : (s.putMask b v).lnk = s.lnk := rfl
@[simp] theorem State.putMask_fol (s : State) (b : Blk) (v : Word) : (s.putMask b v).fol = s.fol := rfl
@[simp] theorem State.putMask_twn (s : State) (b : Blk) (v : Word) : (s.putMask b v).twn = s.twn := rfl
@[simp] theorem State.putMask_tim (s : State) (b : Blk) (v : Word) : (s.putMask b v).tim = s.tim := rfl
@[simp] theorem State.putMask_pwr (s : State) (b : Blk) (v : Word) : (s.putMask b v).pwr = s.pwr := rfl
@[simp] theorem State.putMask_sec (s : State) (b : Blk) (v : Word) : (s.putMask b v).sec = s.sec := rfl
@[simp] theorem State.putMask_rst (s : State) (b : Blk) (v : Word) : (s.putMask b v).rst = s.rst := rfl
@[simp] theorem State.putMask_bst (s : State) (b : Blk) (v : Word) : (s.putMask b v).bst = s.bst := rfl
@[simp] theorem State.putMask_mgt (s : State) (b : Blk) (v : Word) : (s.putMask b v).mgt = s.mgt := rfl

/-! ## State.raise -/

@[simp] theorem State.raise_pending (s : State) (b : Blk) (n : Nat) : (s.raise b n).pending = s.pending := rfl
@[simp] theorem State.raise_held (s : State) (b : Blk) (n : Nat) : (s.raise b n).held = s.held := rfl
@[simp] theorem State.raise_fresh (s : State) (b : Blk) (n : Nat) : (s.raise b n).fresh = s.fresh := rfl
@[simp] theorem State.raise_sent (s : State) (b : Blk) (n : Nat) : (s.raise b n).sent = s.sent := rfl
@[simp] theorem State.raise_cause (s : State) (b : Blk) (n : Nat) :
    (s.raise b n).cause = s.cause.set b.idx.val (s.causeOf b ||| ((1 : Word) <<< n)) := rfl
@[simp] theorem State.raise_mask (s : State) (b : Blk) (n : Nat) : (s.raise b n).mask = s.mask := rfl
@[simp] theorem State.raise_fn (s : State) (b : Blk) (n : Nat) : (s.raise b n).fn = s.fn := rfl
@[simp] theorem State.raise_sys (s : State) (b : Blk) (n : Nat) : (s.raise b n).sys = s.sys := rfl
@[simp] theorem State.raise_flash (s : State) (b : Blk) (n : Nat) : (s.raise b n).flash = s.flash := rfl
@[simp] theorem State.raise_bea (s : State) (b : Blk) (n : Nat) : (s.raise b n).bea = s.bea := rfl
@[simp] theorem State.raise_cnd (s : State) (b : Blk) (n : Nat) : (s.raise b n).cnd = s.cnd := rfl
@[simp] theorem State.raise_staged (s : State) (b : Blk) (n : Nat) : (s.raise b n).staged = s.staged := rfl
@[simp] theorem State.raise_cast (s : State) (b : Blk) (n : Nat) : (s.raise b n).cast = s.cast := rfl
@[simp] theorem State.raise_sheet (s : State) (b : Blk) (n : Nat) : (s.raise b n).sheet = s.sheet := rfl
@[simp] theorem State.raise_crw (s : State) (b : Blk) (n : Nat) : (s.raise b n).crw = s.crw := rfl
@[simp] theorem State.raise_fmt (s : State) (b : Blk) (n : Nat) : (s.raise b n).fmt = s.fmt := rfl
@[simp] theorem State.raise_vec (s : State) (b : Blk) (n : Nat) : (s.raise b n).vec = s.vec := rfl
@[simp] theorem State.raise_mem (s : State) (b : Blk) (n : Nat) : (s.raise b n).mem = s.mem := rfl
@[simp] theorem State.raise_headers (s : State) (b : Blk) (n : Nat) : (s.raise b n).headers = s.headers := rfl
@[simp] theorem State.raise_tmv (s : State) (b : Blk) (n : Nat) : (s.raise b n).tmv = s.tmv := rfl
@[simp] theorem State.raise_tir (s : State) (b : Blk) (n : Nat) : (s.raise b n).tir = s.tir := rfl
@[simp] theorem State.raise_mdv (s : State) (b : Blk) (n : Nat) : (s.raise b n).mdv = s.mdv := rfl
@[simp] theorem State.raise_bnk (s : State) (b : Blk) (n : Nat) : (s.raise b n).bnk = s.bnk := rfl
@[simp] theorem State.raise_upd (s : State) (b : Blk) (n : Nat) : (s.raise b n).upd = s.upd := rfl
@[simp] theorem State.raise_lnk (s : State) (b : Blk) (n : Nat) : (s.raise b n).lnk = s.lnk := rfl
@[simp] theorem State.raise_fol (s : State) (b : Blk) (n : Nat) : (s.raise b n).fol = s.fol := rfl
@[simp] theorem State.raise_twn (s : State) (b : Blk) (n : Nat) : (s.raise b n).twn = s.twn := rfl
@[simp] theorem State.raise_tim (s : State) (b : Blk) (n : Nat) : (s.raise b n).tim = s.tim := rfl
@[simp] theorem State.raise_pwr (s : State) (b : Blk) (n : Nat) : (s.raise b n).pwr = s.pwr := rfl
@[simp] theorem State.raise_sec (s : State) (b : Blk) (n : Nat) : (s.raise b n).sec = s.sec := rfl
@[simp] theorem State.raise_rst (s : State) (b : Blk) (n : Nat) : (s.raise b n).rst = s.rst := rfl
@[simp] theorem State.raise_bst (s : State) (b : Blk) (n : Nat) : (s.raise b n).bst = s.bst := rfl
@[simp] theorem State.raise_mgt (s : State) (b : Blk) (n : Nat) : (s.raise b n).mgt = s.mgt := rfl

/-! ## State.putFn -/

@[simp] theorem State.putFn_pending (s : State) (b : FnBlock) (r : FnReg) : (s.putFn b r).pending = s.pending := rfl
@[simp] theorem State.putFn_held (s : State) (b : FnBlock) (r : FnReg) : (s.putFn b r).held = s.held := rfl
@[simp] theorem State.putFn_fresh (s : State) (b : FnBlock) (r : FnReg) : (s.putFn b r).fresh = s.fresh := rfl
@[simp] theorem State.putFn_sent (s : State) (b : FnBlock) (r : FnReg) : (s.putFn b r).sent = s.sent := rfl
@[simp] theorem State.putFn_cause (s : State) (b : FnBlock) (r : FnReg) : (s.putFn b r).cause = s.cause := rfl
@[simp] theorem State.putFn_mask (s : State) (b : FnBlock) (r : FnReg) : (s.putFn b r).mask = s.mask := rfl
@[simp] theorem State.putFn_cleared (s : State) (b : FnBlock) (r : FnReg) : (s.putFn b r).cleared = s.cleared := rfl
@[simp] theorem State.putFn_fn (s : State) (b : FnBlock) (r : FnReg) : (s.putFn b r).fn = s.fn.put b r := rfl
@[simp] theorem State.putFn_sys (s : State) (b : FnBlock) (r : FnReg) : (s.putFn b r).sys = s.sys := rfl
@[simp] theorem State.putFn_flash (s : State) (b : FnBlock) (r : FnReg) : (s.putFn b r).flash = s.flash := rfl
@[simp] theorem State.putFn_bea (s : State) (b : FnBlock) (r : FnReg) : (s.putFn b r).bea = s.bea := rfl
@[simp] theorem State.putFn_cnd (s : State) (b : FnBlock) (r : FnReg) : (s.putFn b r).cnd = s.cnd := rfl
@[simp] theorem State.putFn_staged (s : State) (b : FnBlock) (r : FnReg) : (s.putFn b r).staged = s.staged := rfl
@[simp] theorem State.putFn_cast (s : State) (b : FnBlock) (r : FnReg) : (s.putFn b r).cast = s.cast := rfl
@[simp] theorem State.putFn_sheet (s : State) (b : FnBlock) (r : FnReg) : (s.putFn b r).sheet = s.sheet := rfl
@[simp] theorem State.putFn_crw (s : State) (b : FnBlock) (r : FnReg) : (s.putFn b r).crw = s.crw := rfl
@[simp] theorem State.putFn_fmt (s : State) (b : FnBlock) (r : FnReg) : (s.putFn b r).fmt = s.fmt := rfl
@[simp] theorem State.putFn_vec (s : State) (b : FnBlock) (r : FnReg) : (s.putFn b r).vec = s.vec := rfl
@[simp] theorem State.putFn_mem (s : State) (b : FnBlock) (r : FnReg) : (s.putFn b r).mem = s.mem := rfl
@[simp] theorem State.putFn_headers (s : State) (b : FnBlock) (r : FnReg) : (s.putFn b r).headers = s.headers := rfl
@[simp] theorem State.putFn_tmv (s : State) (b : FnBlock) (r : FnReg) : (s.putFn b r).tmv = s.tmv := rfl
@[simp] theorem State.putFn_tir (s : State) (b : FnBlock) (r : FnReg) : (s.putFn b r).tir = s.tir := rfl
@[simp] theorem State.putFn_mdv (s : State) (b : FnBlock) (r : FnReg) : (s.putFn b r).mdv = s.mdv := rfl
@[simp] theorem State.putFn_bnk (s : State) (b : FnBlock) (r : FnReg) : (s.putFn b r).bnk = s.bnk := rfl
@[simp] theorem State.putFn_upd (s : State) (b : FnBlock) (r : FnReg) : (s.putFn b r).upd = s.upd := rfl
@[simp] theorem State.putFn_lnk (s : State) (b : FnBlock) (r : FnReg) : (s.putFn b r).lnk = s.lnk := rfl
@[simp] theorem State.putFn_fol (s : State) (b : FnBlock) (r : FnReg) : (s.putFn b r).fol = s.fol := rfl
@[simp] theorem State.putFn_twn (s : State) (b : FnBlock) (r : FnReg) : (s.putFn b r).twn = s.twn := rfl
@[simp] theorem State.putFn_tim (s : State) (b : FnBlock) (r : FnReg) : (s.putFn b r).tim = s.tim := rfl
@[simp] theorem State.putFn_pwr (s : State) (b : FnBlock) (r : FnReg) : (s.putFn b r).pwr = s.pwr := rfl
@[simp] theorem State.putFn_sec (s : State) (b : FnBlock) (r : FnReg) : (s.putFn b r).sec = s.sec := rfl
@[simp] theorem State.putFn_atn (s : State) (b : FnBlock) (r : FnReg) : (s.putFn b r).atn = s.atn := rfl
@[simp] theorem State.putFn_rst (s : State) (b : FnBlock) (r : FnReg) : (s.putFn b r).rst = s.rst := rfl
@[simp] theorem State.putFn_bst (s : State) (b : FnBlock) (r : FnReg) : (s.putFn b r).bst = s.bst := rfl
@[simp] theorem State.putFn_mgt (s : State) (b : FnBlock) (r : FnReg) : (s.putFn b r).mgt = s.mgt := rfl

/-! ## State.setFnState -/

@[simp] theorem State.setFnState_pending (s : State) (b : FnBlock) (f : FnState) :
    (s.setFnState b f).pending = s.pending := rfl
@[simp] theorem State.setFnState_held (s : State) (b : FnBlock) (f : FnState) : (s.setFnState b f).held = s.held := rfl
@[simp] theorem State.setFnState_fresh (s : State) (b : FnBlock) (f : FnState) :
    (s.setFnState b f).fresh = s.fresh := rfl
@[simp] theorem State.setFnState_sent (s : State) (b : FnBlock) (f : FnState) : (s.setFnState b f).sent = s.sent := rfl
@[simp] theorem State.setFnState_cause (s : State) (b : FnBlock) (f : FnState) :
    (s.setFnState b f).cause = s.cause := rfl
@[simp] theorem State.setFnState_mask (s : State) (b : FnBlock) (f : FnState) : (s.setFnState b f).mask = s.mask := rfl
@[simp] theorem State.setFnState_cleared (s : State) (b : FnBlock) (f : FnState) :
    (s.setFnState b f).cleared = s.cleared := rfl
@[simp] theorem State.setFnState_fn (s : State) (b : FnBlock) (f : FnState) :
    (s.setFnState b f).fn = s.fn.put b { s.fn.get b with state := f } := rfl
@[simp] theorem State.setFnState_sys (s : State) (b : FnBlock) (f : FnState) : (s.setFnState b f).sys = s.sys := rfl
@[simp] theorem State.setFnState_flash (s : State) (b : FnBlock) (f : FnState) :
    (s.setFnState b f).flash = s.flash := rfl
@[simp] theorem State.setFnState_bea (s : State) (b : FnBlock) (f : FnState) : (s.setFnState b f).bea = s.bea := rfl
@[simp] theorem State.setFnState_cnd (s : State) (b : FnBlock) (f : FnState) : (s.setFnState b f).cnd = s.cnd := rfl
@[simp] theorem State.setFnState_staged (s : State) (b : FnBlock) (f : FnState) :
    (s.setFnState b f).staged = s.staged := rfl
@[simp] theorem State.setFnState_cast (s : State) (b : FnBlock) (f : FnState) : (s.setFnState b f).cast = s.cast := rfl
@[simp] theorem State.setFnState_sheet (s : State) (b : FnBlock) (f : FnState) :
    (s.setFnState b f).sheet = s.sheet := rfl
@[simp] theorem State.setFnState_crw (s : State) (b : FnBlock) (f : FnState) : (s.setFnState b f).crw = s.crw := rfl
@[simp] theorem State.setFnState_fmt (s : State) (b : FnBlock) (f : FnState) : (s.setFnState b f).fmt = s.fmt := rfl
@[simp] theorem State.setFnState_vec (s : State) (b : FnBlock) (f : FnState) : (s.setFnState b f).vec = s.vec := rfl
@[simp] theorem State.setFnState_mem (s : State) (b : FnBlock) (f : FnState) : (s.setFnState b f).mem = s.mem := rfl
@[simp] theorem State.setFnState_headers (s : State) (b : FnBlock) (f : FnState) :
    (s.setFnState b f).headers = s.headers := rfl
@[simp] theorem State.setFnState_tmv (s : State) (b : FnBlock) (f : FnState) : (s.setFnState b f).tmv = s.tmv := rfl
@[simp] theorem State.setFnState_tir (s : State) (b : FnBlock) (f : FnState) : (s.setFnState b f).tir = s.tir := rfl
@[simp] theorem State.setFnState_mdv (s : State) (b : FnBlock) (f : FnState) : (s.setFnState b f).mdv = s.mdv := rfl
@[simp] theorem State.setFnState_bnk (s : State) (b : FnBlock) (f : FnState) : (s.setFnState b f).bnk = s.bnk := rfl
@[simp] theorem State.setFnState_upd (s : State) (b : FnBlock) (f : FnState) : (s.setFnState b f).upd = s.upd := rfl
@[simp] theorem State.setFnState_lnk (s : State) (b : FnBlock) (f : FnState) : (s.setFnState b f).lnk = s.lnk := rfl
@[simp] theorem State.setFnState_fol (s : State) (b : FnBlock) (f : FnState) : (s.setFnState b f).fol = s.fol := rfl
@[simp] theorem State.setFnState_twn (s : State) (b : FnBlock) (f : FnState) : (s.setFnState b f).twn = s.twn := rfl
@[simp] theorem State.setFnState_tim (s : State) (b : FnBlock) (f : FnState) : (s.setFnState b f).tim = s.tim := rfl
@[simp] theorem State.setFnState_pwr (s : State) (b : FnBlock) (f : FnState) : (s.setFnState b f).pwr = s.pwr := rfl
@[simp] theorem State.setFnState_sec (s : State) (b : FnBlock) (f : FnState) : (s.setFnState b f).sec = s.sec := rfl
@[simp] theorem State.setFnState_atn (s : State) (b : FnBlock) (f : FnState) : (s.setFnState b f).atn = s.atn := rfl
@[simp] theorem State.setFnState_rst (s : State) (b : FnBlock) (f : FnState) : (s.setFnState b f).rst = s.rst := rfl
@[simp] theorem State.setFnState_bst (s : State) (b : FnBlock) (f : FnState) : (s.setFnState b f).bst = s.bst := rfl
@[simp] theorem State.setFnState_mgt (s : State) (b : FnBlock) (f : FnState) : (s.setFnState b f).mgt = s.mgt := rfl

/-! ## State.putPort -/

@[simp] theorem State.putPort_pending (s : State) (p : Nat) (v : Port) : (s.putPort p v).pending = s.pending := rfl
@[simp] theorem State.putPort_held (s : State) (p : Nat) (v : Port) : (s.putPort p v).held = s.held := rfl
@[simp] theorem State.putPort_fresh (s : State) (p : Nat) (v : Port) : (s.putPort p v).fresh = s.fresh := rfl
@[simp] theorem State.putPort_sent (s : State) (p : Nat) (v : Port) : (s.putPort p v).sent = s.sent := rfl
@[simp] theorem State.putPort_cause (s : State) (p : Nat) (v : Port) : (s.putPort p v).cause = s.cause := rfl
@[simp] theorem State.putPort_mask (s : State) (p : Nat) (v : Port) : (s.putPort p v).mask = s.mask := rfl
@[simp] theorem State.putPort_cleared (s : State) (p : Nat) (v : Port) : (s.putPort p v).cleared = s.cleared := rfl
@[simp] theorem State.putPort_fn (s : State) (p : Nat) (v : Port) : (s.putPort p v).fn = s.fn := rfl
@[simp] theorem State.putPort_sys (s : State) (p : Nat) (v : Port) : (s.putPort p v).sys = s.sys := rfl
@[simp] theorem State.putPort_flash (s : State) (p : Nat) (v : Port) : (s.putPort p v).flash = s.flash := rfl
@[simp] theorem State.putPort_bea (s : State) (p : Nat) (v : Port) : (s.putPort p v).bea = s.bea := rfl
@[simp] theorem State.putPort_cnd (s : State) (p : Nat) (v : Port) : (s.putPort p v).cnd = s.cnd := rfl
@[simp] theorem State.putPort_staged (s : State) (p : Nat) (v : Port) : (s.putPort p v).staged = s.staged := rfl
@[simp] theorem State.putPort_cast (s : State) (p : Nat) (v : Port) : (s.putPort p v).cast = s.cast := rfl
@[simp] theorem State.putPort_sheet (s : State) (p : Nat) (v : Port) : (s.putPort p v).sheet = s.sheet := rfl
@[simp] theorem State.putPort_crw (s : State) (p : Nat) (v : Port) : (s.putPort p v).crw = s.crw := rfl
@[simp] theorem State.putPort_fmt (s : State) (p : Nat) (v : Port) : (s.putPort p v).fmt = s.fmt := rfl
@[simp] theorem State.putPort_vec (s : State) (p : Nat) (v : Port) : (s.putPort p v).vec = s.vec := rfl
@[simp] theorem State.putPort_mem (s : State) (p : Nat) (v : Port) : (s.putPort p v).mem = s.mem := rfl
@[simp] theorem State.putPort_headers (s : State) (p : Nat) (v : Port) : (s.putPort p v).headers = s.headers := rfl
@[simp] theorem State.putPort_tmv (s : State) (p : Nat) (v : Port) : (s.putPort p v).tmv = s.tmv := rfl
@[simp] theorem State.putPort_tir (s : State) (p : Nat) (v : Port) : (s.putPort p v).tir = s.tir := rfl
@[simp] theorem State.putPort_mdv (s : State) (p : Nat) (v : Port) : (s.putPort p v).mdv = s.mdv := rfl
@[simp] theorem State.putPort_bnk (s : State) (p : Nat) (v : Port) : (s.putPort p v).bnk = s.bnk := rfl
@[simp] theorem State.putPort_upd (s : State) (p : Nat) (v : Port) : (s.putPort p v).upd = s.upd := rfl
@[simp] theorem State.putPort_lnk (s : State) (p : Nat) (v : Port) :
    (s.putPort p v).lnk = { s.lnk with ports := s.lnk.ports.set! p v } := rfl
@[simp] theorem State.putPort_fol (s : State) (p : Nat) (v : Port) : (s.putPort p v).fol = s.fol := rfl
@[simp] theorem State.putPort_twn (s : State) (p : Nat) (v : Port) : (s.putPort p v).twn = s.twn := rfl
@[simp] theorem State.putPort_tim (s : State) (p : Nat) (v : Port) : (s.putPort p v).tim = s.tim := rfl
@[simp] theorem State.putPort_pwr (s : State) (p : Nat) (v : Port) : (s.putPort p v).pwr = s.pwr := rfl
@[simp] theorem State.putPort_sec (s : State) (p : Nat) (v : Port) : (s.putPort p v).sec = s.sec := rfl
@[simp] theorem State.putPort_atn (s : State) (p : Nat) (v : Port) : (s.putPort p v).atn = s.atn := rfl
@[simp] theorem State.putPort_rst (s : State) (p : Nat) (v : Port) : (s.putPort p v).rst = s.rst := rfl
@[simp] theorem State.putPort_bst (s : State) (p : Nat) (v : Port) : (s.putPort p v).bst = s.bst := rfl
@[simp] theorem State.putPort_mgt (s : State) (p : Nat) (v : Port) : (s.putPort p v).mgt = s.mgt := rfl

/-! ## State.quiet -/

@[simp] theorem State.quiet_pending (s : State) (u : State) : (s.quiet u).pending = s.pending := rfl
@[simp] theorem State.quiet_held (s : State) (u : State) : (s.quiet u).held = s.held := rfl
@[simp] theorem State.quiet_fresh (s : State) (u : State) : (s.quiet u).fresh = s.fresh := rfl
@[simp] theorem State.quiet_sent (s : State) (u : State) : (s.quiet u).sent = u.sent := rfl
@[simp] theorem State.quiet_cause (s : State) (u : State) : (s.quiet u).cause = s.cause := rfl
@[simp] theorem State.quiet_mask (s : State) (u : State) : (s.quiet u).mask = s.mask := rfl
@[simp] theorem State.quiet_cleared (s : State) (u : State) : (s.quiet u).cleared = s.cleared := rfl
@[simp] theorem State.quiet_fn (s : State) (u : State) : (s.quiet u).fn = s.fn := rfl
@[simp] theorem State.quiet_sys (s : State) (u : State) : (s.quiet u).sys = s.sys := rfl
@[simp] theorem State.quiet_flash (s : State) (u : State) : (s.quiet u).flash = s.flash := rfl
@[simp] theorem State.quiet_bea (s : State) (u : State) : (s.quiet u).bea = s.bea := rfl
@[simp] theorem State.quiet_cnd (s : State) (u : State) : (s.quiet u).cnd = s.cnd := rfl
@[simp] theorem State.quiet_staged (s : State) (u : State) : (s.quiet u).staged = s.staged := rfl
@[simp] theorem State.quiet_cast (s : State) (u : State) : (s.quiet u).cast = s.cast := rfl
@[simp] theorem State.quiet_sheet (s : State) (u : State) : (s.quiet u).sheet = s.sheet := rfl
@[simp] theorem State.quiet_crw (s : State) (u : State) : (s.quiet u).crw = s.crw := rfl
@[simp] theorem State.quiet_fmt (s : State) (u : State) : (s.quiet u).fmt = s.fmt := rfl
@[simp] theorem State.quiet_vec (s : State) (u : State) : (s.quiet u).vec = s.vec := rfl
@[simp] theorem State.quiet_mem (s : State) (u : State) : (s.quiet u).mem = s.mem := rfl
@[simp] theorem State.quiet_headers (s : State) (u : State) : (s.quiet u).headers = s.headers := rfl
@[simp] theorem State.quiet_tmv (s : State) (u : State) : (s.quiet u).tmv = s.tmv := rfl
@[simp] theorem State.quiet_tir (s : State) (u : State) : (s.quiet u).tir = s.tir := rfl
@[simp] theorem State.quiet_mdv (s : State) (u : State) : (s.quiet u).mdv = s.mdv := rfl
@[simp] theorem State.quiet_bnk (s : State) (u : State) : (s.quiet u).bnk = s.bnk := rfl
@[simp] theorem State.quiet_upd (s : State) (u : State) : (s.quiet u).upd = s.upd := rfl
@[simp] theorem State.quiet_lnk (s : State) (u : State) : (s.quiet u).lnk = u.lnk := rfl
@[simp] theorem State.quiet_fol (s : State) (u : State) : (s.quiet u).fol = s.fol := rfl
@[simp] theorem State.quiet_twn (s : State) (u : State) : (s.quiet u).twn = s.twn := rfl
@[simp] theorem State.quiet_tim (s : State) (u : State) : (s.quiet u).tim = s.tim := rfl
@[simp] theorem State.quiet_pwr (s : State) (u : State) : (s.quiet u).pwr = s.pwr := rfl
@[simp] theorem State.quiet_sec (s : State) (u : State) :
    (s.quiet u).sec = { s.sec with reqs := u.sec.reqs, answers := u.sec.answers } := rfl
@[simp] theorem State.quiet_atn (s : State) (u : State) : (s.quiet u).atn = u.atn := rfl
@[simp] theorem State.quiet_rst (s : State) (u : State) : (s.quiet u).rst = s.rst := rfl
@[simp] theorem State.quiet_bst (s : State) (u : State) : (s.quiet u).bst = s.bst := rfl
@[simp] theorem State.quiet_mgt (s : State) (u : State) : (s.quiet u).mgt = s.mgt := rfl

/-! ## Registers after an update -/

theorem Blk.idx_inj {a b : Blk} (h : a.idx = b.idx) : a = b := by
  cases a <;> cases b <;> first | rfl | (exact absurd h (by decide))

/-- A cause register after a write of one. -/
theorem causeOf_putCause (s : State) (b c : Blk) (v : Word) :
    (s.putCause b v).causeOf c = if b = c then v else s.causeOf c := by
  unfold State.causeOf
  rw [State.putCause_cause]
  split
  · rename_i e; subst e; exact Vector.getElem_set_self b.idx.isLt
  · rename_i e
    exact Vector.getElem_set_ne b.idx.isLt c.idx.isLt (fun k => e (Blk.idx_inj (Fin.ext k)))

/-- A mask register after a write of one. -/
theorem maskOf_putMask (s : State) (b c : Blk) (v : Word) :
    (s.putMask b v).maskOf c = if b = c then v else s.maskOf c := by
  unfold State.maskOf
  rw [State.putMask_mask]
  split
  · rename_i e; subst e; exact Vector.getElem_set_self b.idx.isLt
  · rename_i e
    exact Vector.getElem_set_ne b.idx.isLt c.idx.isLt (fun k => e (Blk.idx_inj (Fin.ext k)))

/-- Raising a cause sets its bit and leaves every other block's causes. -/
theorem causeOf_raise (s : State) (b c : Blk) (n : Nat) :
    (s.raise b n).causeOf c = if b = c then s.causeOf b ||| ((1 : Word) <<< n) else s.causeOf c :=
  causeOf_putCause s b c _

/-- The mask registers stand when a cause is written. -/
theorem maskOf_putCause (s : State) (b c : Blk) (v : Word) : (s.putCause b v).maskOf c = s.maskOf c := rfl

/-- The cause registers stand when a mask is written. -/
theorem causeOf_putMask (s : State) (b c : Blk) (v : Word) : (s.putMask b v).causeOf c = s.causeOf c := rfl

/-- A function register after a write of one. -/
theorem fn_get_put (f : FnRegs) (b c : FnBlock) (r : FnReg) : (f.put b r).get c = if b = c then r else f.get c := by
  cases b <;> cases c <;> rfl

/-- A function's state after a write of one. -/
theorem fnState_setFnState (s : State) (b c : FnBlock) (f : FnState) :
    (s.setFnState b f).fnState c = if b = c then f else s.fnState c := by
  unfold State.fnState
  rw [State.setFnState_fn, fn_get_put]
  split
  · rfl
  · rfl

/-- What is sent stands under an update of the attention pin. -/
theorem settleAttn_only (s : State) : { s.settleAttn with atn := s.atn } = s := rfl

/-- A cause's write moves nothing but the cause, which record it opens, and the attention pin. -/
theorem putCause_only (s : State) (b : Blk) (v : Word) :
    { s.putCause b v with cause := s.cause, cleared := s.cleared, atn := s.atn } = s := rfl

/-- Writing a cause other than zero opens no record. -/
theorem cleared_putCause (s : State) (b : Blk) {v : Word} (h : v ≠ 0) : (s.putCause b v).cleared = s.cleared := if_neg h

/-- A word with a bit set is not zero. -/
theorem or_bit_ne_zero (w : Word) {n : Nat} (h : n < 64) : w ||| ((1 : Word) <<< n) ≠ 0 := by
  intro e
  have := congrArg (fun v : Word => v.getLsbD n) e
  simp [h] at this

/-- Raising a cause opens no record. -/
theorem cleared_raise (s : State) (b : Blk) {n : Nat} (h : n < 64) : (s.raise b n).cleared = s.cleared :=
  cleared_putCause s b (or_bit_ne_zero _ h)

/-- A port after a write of one. -/
theorem port_putPort (s : State) (p : Nat) (v : Port) (h : p < s.lnk.ports.size) : (s.putPort p v).port p = v := by
  unfold State.port State.putPort
  simp [h]

/-! ## Memory after a byte's write -/

theorem putByte_only (s : State) (p : Nat) (b : Byte) :
    { s.putByte p b with mem := s.mem, mdv := s.mdv } = s := by
  unfold State.putByte
  dsimp only
  split <;> rfl

end Sys2Proof.Machine
end

