-- ==== Sys2Proof/Laws/Shared.lean ====
section
/-! SUPPORT. What the shared frames of the commands do: a request of the host, a word of the section queues, an
instruction of a bank program. A statement about one command starts from these. -/

-- One proof after the other: side by side they want more threads than the memory of a check holds.
set_option Elab.async false

namespace Sys2Proof.Machine

/-! ## Requests of the host (R366 to R369) -/

/-- A request on a port that is down changes nothing. -/
theorem hostReq_down {s : State} {act : State → State} (h : (s.port 7).isUp = false) : hostReq s act = .next s := by
  unfold hostReq whenB
  rw [h]
  rfl

/-- A request that a session may make has its effect. -/
theorem sessionReq_served {op need : Nat} {addr : Word} {act : State → State} {s : State} (up : (s.port 7).isUp = true)
    (open_ : s.sec.session.isSome = true) (may : need ≤ s.priv.toNat) :
    sessionReq op need addr true act s = .next (act s.hostIn) := by
  have hs : s.hostIn.sec.session = s.sec.session := rfl
  have hp : s.hostIn.priv = s.priv := rfl
  have n : s.sec.session.isNone = false := by cases e : s.sec.session <;> simp_all
  unfold sessionReq hostReq whenB State.allowed
  rw [up, if_pos rfl]
  dsimp only
  rw [hs, hp, n, decide_eq_true may]
  rfl

/-- A request below its privilege is answered PRIV and has no effect of its own. -/
theorem sessionReq_refused {op need : Nat} {addr : Word} {act : State → State} {s : State}
    (up : (s.port 7).isUp = true) (open_ : s.sec.session.isSome = true) (below : s.priv.toNat < need) :
    sessionReq op need addr true act s = .next (s.hostIn.refusePriv op need addr) := by
  have hs : s.hostIn.sec.session = s.sec.session := rfl
  have hp : s.hostIn.priv = s.priv := rfl
  have n : s.sec.session.isNone = false := by cases e : s.sec.session <;> simp_all
  unfold sessionReq hostReq whenB State.allowed
  rw [up, if_pos rfl]
  dsimp only
  rw [hs, hp, n, decide_eq_false (Nat.not_le.mpr below)]
  rfl

/-- A request without a session is answered NOSESSION. -/
theorem sessionReq_closed {op need : Nat} {addr : Word} {ok : Bool} {act : State → State} {s : State}
    (up : (s.port 7).isUp = true) (closed : s.sec.session = none) :
    sessionReq op need addr ok act s = .next (s.hostIn.status op 5 addr) := by
  have hs : s.hostIn.sec.session = s.sec.session := rfl
  unfold sessionReq hostReq whenB
  rw [up, if_pos rfl]
  dsimp only
  rw [hs, closed]
  rfl

/-- A register write that is served: answered OK, then done. -/
theorem hostWriteWith_served {off : BitVec 24} {v : Word} {act : State → State} {s : State} {need : Nat}
    (h : s.hostMay need off) (aligned : off.toNat % 8 = 0) (level : s.writeNeed off v ≤ need) :
    hostWriteWith off v act s = .next (act (s.hostIn.status 2 0 (off.setWidth 64))).settleAttn := by
  obtain ⟨up, ses, may, open_, _⟩ := h
  have g : s.hostIn.gated off = false := open_
  have a : (off.toNat % 8 == 0) = true := by rw [aligned]; rfl
  unfold hostWriteWith
  dsimp only
  rw [a, sessionReq_served up ses (Nat.le_trans level may), g]
  rfl

/-- A register write below its privilege: answered PRIV, nothing written. -/
theorem hostWriteWith_refused {off : BitVec 24} {v : Word} {act : State → State} {s : State}
    (up : (s.port 7).isUp = true) (ses : s.sec.session.isSome = true) (aligned : off.toNat % 8 = 0)
    (below : s.priv.toNat < s.writeNeed off v) :
    hostWriteWith off v act s = .next (s.hostIn.refusePriv 2 (s.writeNeed off v) (off.setWidth 64)) := by
  have a : (off.toNat % 8 == 0) = true := by rw [aligned]; rfl
  unfold hostWriteWith
  dsimp only
  rw [a, sessionReq_refused up ses below]

/-- A register read that is served. -/
theorem hostRead_served {off : BitVec 24} {s : State} (h : s.hostMay (readNeed off) off) (aligned : off.toNat % 8 = 0) :
    hostRead off s = .next ((s.hostIn.respond 1 0 (off.setWidth 64) [] (leBytes 8 (s.hostIn.readReg off).toNat)).afterRead
      off) := by
  obtain ⟨up, ses, may, open_, _⟩ := h
  have g : s.hostIn.gated off = false := open_
  have a : (off.toNat % 8 == 0) = true := by rw [aligned]; rfl
  unfold hostRead
  dsimp only
  rw [a, sessionReq_served up ses may, g]
  rfl

/-- A privilege that serves a request serves a lower one. -/
theorem hostMay_mono {s : State} {m n : Nat} {off : BitVec 24} (h : s.hostMay n off) (le : m ≤ n) : s.hostMay m off :=
  ⟨h.1, h.2.1, Nat.le_trans le h.2.2.1, h.2.2.2⟩

/-! ## Words of the section queues (R42, R69, R87) -/

/-- A word that may issue leaves its queues and has its effect. -/
theorem arrayCmd_issues {opc : BitVec 8} {a : ArrayArgs} {effect refuse : QEnt → State → State} {s : State} {e : QEnt}
    (h : s.goes opc a effect e) : arrayCmd opc a effect refuse s = .next (effect e (s.taken (secsOf a.sec) e)) := by
  unfold arrayCmd
  rw [h.1]
  dsimp only
  rw [if_pos h.2]

/-- A word that reads lines of T3 which have not come, or touches a page in move, waits, and the lines are fetched. -/
theorem arrayCmd_fetches {opc : BitVec 8} {a : ArrayArgs} {effect refuse : QEnt → State → State} {s : State} {e : QEnt}
    (h : s.issuing opc a = some e) (k : (s.tried (secsOf a.sec) e effect).clear = false) :
    arrayCmd opc a effect refuse s = .next (s.fetch e.seq (s.tried (secsOf a.sec) e effect).lines) := by
  unfold arrayCmd
  rw [h]
  dsimp only
  rw [k, if_neg (by decide)]

/-- With no aperture in use and no page in move, a word that may issue does. -/
theorem goes_local {opc : BitVec 8} {a : ArrayArgs} {effect : QEnt → State → State} {s : State} {e : QEnt}
    (h : s.issuing opc a = some e) (aps : s.lnk.aps = []) (still : s.tmv.moving = []) : s.goes opc a effect e := by
  refine ⟨h, ?_⟩
  unfold State.tried
  rw [aps, still]
  rfl

/-- A word that must wait changes nothing. -/
theorem arrayCmd_waits {opc : BitVec 8} {a : ArrayArgs} {effect refuse : QEnt → State → State} {s : State}
    (h : s.mustWait opc a) : arrayCmd opc a effect refuse s = .next s := by
  unfold arrayCmd
  rw [h.1]
  dsimp only
  rw [h.2]

/-! ## Instructions of a bank program (R227, R232, R237) -/

/-- An instruction in place runs: what its action answers decides. -/
theorem bankCmd_at {op : BitVec 6} {bank : Nat} {body : Body} {act : BankCore → BankRun → State → BankAct} {s : State}
    {r : BankRun} (h : s.atBank bank r (op ++ body)) :
    bankCmd op bank body act s = match act (s.core bank) r s with
      | .go d t => .next (t.putCore bank d.counted)
      | .fault code row => .next (s.bankFault bank r code row)
      | .wait => .next s
      | .finish v => .next (s.endProgram bank r (some v) false) := by
  obtain ⟨hr, hs, hp, hb, hw⟩ := h
  unfold bankCmd
  dsimp only
  rw [hr]
  dsimp only
  rw [hs, if_neg (by decide), if_neg (Nat.not_le.mpr hp), if_neg (Nat.not_le.mpr hb)]
  refine (if_pos hw).trans ?_
  cases act (s.core bank) r s <;> rfl

/-- A bank with no program answers an instruction with nothing. -/
theorem bankCmd_idle {op : BitVec 6} {bank : Nat} {body : Body} {act : BankCore → BankRun → State → BankAct} {s : State}
    (h : (s.core bank).run = none) : bankCmd op bank body act s = .next s := by
  unfold bankCmd
  dsimp only
  rw [h]

/-! ## Conditions -/

/-- A command whose event can occur has its effect. -/
theorem whenB_true {b : Bool} {s t : State} (h : b = true) : whenB b s t = .next t := by rw [h]; rfl

/-- A command whose event cannot occur changes nothing. -/
theorem whenB_false {b : Bool} {s t : State} (h : b = false) : whenB b s t = .next s := by rw [h]; rfl

end Sys2Proof.Machine
end

