-- ==== Sys2Proof/Laws/Slots.lean ====
section
/-! SUPPORT. Slots: where the bytes of a slot inside one page of T1 lie, and how many bytes a slot's image has. -/

-- One proof after the other: side by side they want more threads than the memory of a check holds.
set_option Elab.async false

namespace Sys2Proof.Machine

/-! ## Where a slot lies -/

theorem mapM_total {α β : Type} {f : α → Option β} {g : α → β} (l : List α) (h : ∀ a ∈ l, f a = some (g a)) :
    l.mapM f = some (l.map g) := by
  induction l with
  | nil => rfl
  | cons a t ih =>
    rw [List.mapM_cons, h a (List.mem_cons_self ..), ih (fun b m => h b (List.mem_cons_of_mem _ m))]
    rfl

/-- The canonical addresses of `n` bytes from `a`. -/
def runAt (a n : Nat) : List Nat := (List.range n).map (fun i => a + i)

theorem runAt_length (a n : Nat) : (runAt a n).length = n := by simp [runAt]

theorem mem_runAt {a n q : Nat} (h : q ∈ runAt a n) : a ≤ q ∧ q < a + n := by
  unfold runAt at h
  obtain ⟨i, m, e⟩ := List.mem_map.mp h
  have := List.mem_range.mp m
  omega

/-- Bytes inside one U-page whose place is in T1 lie one after the other. -/
theorem translRun_t1 {s : State} {u n p : Nat} (place : s.paddr (0x10000 * (u / 0x10000)) = some p)
    (inside : u % 0x10000 + n ≤ 0x10000) (low : t1Base ≤ p) (high : p + 0x10000 ≤ t1End) :
    s.translRun u n = some (runAt (p + u % 0x10000) n) := by
  unfold State.translRun runAt
  refine mapM_total _ (fun i m => ?_)
  have hi := List.mem_range.mp m
  have e1 : (u + i) / 0x10000 - u / 0x10000 = 0 := by omega
  have e2 : (u + i) % 0x10000 = u % 0x10000 + i := by omega
  have e3 : (s.pagesAt u n).getD 0 none = some p := by
    unfold State.pagesAt
    simp [List.range_succ_eq_map, place]
  simp only [e1, e2, e3]
  unfold State.canon
  rw [if_neg (by omega), if_pos (by omega)]
  rw [Nat.add_assoc]

theorem t1_not_t2 {q : Nat} (h : q < t1End) : isT2 q = false := by
  unfold isT2
  simp only [Bool.and_eq_false_iff, decide_eq_false_iff_not]
  left
  unfold t1End at h
  unfold t2Base
  omega

theorem t1_not_t3 {q : Nat} (h : q < t1End) : isT3 q = false := by
  unfold isT3
  simp only [Bool.and_eq_false_iff, decide_eq_false_iff_not]
  left
  unfold t1End at h
  unfold t3Base
  omega

theorem dropsWrite_t1 {s : State} {q : Nat} (h : q < t1End) : s.dropsWrite q = false := by
  unfold State.dropsWrite twinAp
  rw [t1_not_t3 h]
  simp

theorem windowHit_t1 {s : State} {l : List Nat} (h : ∀ q ∈ l, q < t1End) : s.windowHit l = none := by
  unfold State.windowHit
  split
  · rfl
  · refine List.find?_eq_none.mpr (fun q m => ?_)
    rw [t1_not_t2 (h q m)]
    simp

theorem low_not_t2 {p : Nat} (h : p < t2Base) : isT2 p = false := by
  unfold isT2
  rw [decide_eq_false (Nat.not_le.mpr h)]
  rfl

/-- Outside T2 there are no column words. -/
theorem mergeCols_low {s : State} {l : List Nat} (h : ∀ q ∈ l, isT2 q = false) : s.mergeCols l = [] := by
  have e : l.filter (fun p => s.syndAt p != 0) = [] := by
    refine List.filter_eq_nil_iff.mpr (fun q m => ?_)
    unfold State.syndAt
    rw [h q m]
    simp
  unfold State.mergeCols State.badCols
  rw [e]
  split <;> rfl

/-- A slot inside one page of T1 may be written, unless a cast keeps the page read-only. -/
theorem slotOpen_t1 {s : State} {u n p : Nat} (place : s.paddr (0x10000 * (u / 0x10000)) = some p) (some_ : 0 < n)
    (inside : u % 0x10000 + n ≤ 0x10000) (low : t1Base ≤ p) (high : p + 0x10000 ≤ t1End)
    (open_ : s.readOnlyPage (u / 0x10000) = false) : s.slotOpen u n (runAt (p + u % 0x10000) n) := by
  have below : ∀ q ∈ runAt (p + u % 0x10000) n, q < t1End := fun q m => by have := mem_runAt m; omega
  refine ⟨translRun_t1 place inside low high, fun q m => dropsWrite_t1 (below q m), windowHit_t1 below, open_, ?_,
    fun q m t => ?_, mergeCols_low (fun q m => low_not_t2 (by have := below q m; unfold t1End at this; unfold t2Base; omega))⟩
  · have : (u + n - 1) / 0x10000 = u / 0x10000 := by omega
    rw [this]; exact open_
  · rw [t1_not_t3 (below q m)] at t; cases t

/-! ## How long a slot's image is -/

theorem leBytes_length (n v : Nat) : (leBytes n v).length = n := by
  induction n generalizing v with
  | zero => rfl
  | succ n ih => simp [leBytes, ih]

theorem packElems_length (w : Nat) (l : List Nat) : (packElems w l).length = l.length * w / 8 := leBytes_length _ _

theorem slotElems_length (f : Fm) (bs : List Byte) : (slotElems f bs).length = 1024 := by simp [slotElems]

/-- A slot without scales or foil is as long as its format says. -/
theorem packSlot_length {f : Fm} {d0 d1 : Nat → Option Nat} {l : List Num} (h : l.length = 1024) :
    (packSlot f false 0 d0 d1 l).1.length = dataBytes f.width := by
  unfold packSlot
  simp only [ne_eq, not_true_eq_false, if_false, Bool.false_eq_true, packElems_length, List.length_map,
    List.length_zipIdx, h]
  unfold dataBytes
  omega

theorem accOf_length (h : Word) (l : List Int) : (accOf h l).vals.length = l.length := rfl

theorem acc_length (s : State) (c t : Nat) : (s.acc c t).vals.length = 1024 := by
  unfold State.acc
  dsimp only
  split <;> rw [accOf_length, List.length_map, slotElems_length]

theorem values_length (a : Acc) : a.values.length = a.vals.length := by
  unfold Acc.values
  split
  · simp
  · split <;> simp

/-- The image of a tile as an A128 slot. -/
theorem accSlot_length {a : Acc} (h : a.vals.length = 1024) : a.slot.length = 16448 := by
  unfold Acc.slot
  simp [packElems_length, leBytes_length, h]

/-- An output slot in which some elements are kept is as long as its format says. -/
theorem mergeElems_length {d : Desc} {draw : Nat → Option Nat} {old : List Byte} {l : List (Option Num)}
    (h : l.length = 1024) : (mergeElems d draw old l).1.length = dataBytes d.fm.width := by
  unfold mergeElems
  simp only [packElems_length, List.length_map, List.length_zip, List.length_zipIdx, slotElems_length, h,
    Nat.min_self]
  unfold dataBytes
  omega

theorem bytes_length {a : Acc} (h : a.vals.length = 1024) : a.bytes.length ≤ 16384 := by
  unfold Acc.bytes
  split <;> simp [packElems_length, h]

theorem addProducts_length (a : Acc) (n : Nat) (ps : List (List Num)) (h : a.vals.length = 1024) (hp : ps.length = 1024) :
    (a.addProducts n ps).vals.length = 1024 := by
  unfold Acc.addProducts
  simp [h, hp]

/-! ## What a write leaves of the translation -/

/-- Everything but memory bytes and the check bits of T2 is as before. -/
def OnlyBytes (s g : State) : Prop := { g with mem := s.mem, mdv := { g.mdv with diff := s.mdv.diff } } = s

theorem onlyBytes_refl (s : State) : OnlyBytes s s := rfl

theorem onlyBytes_trans {a b c : State} (h : OnlyBytes a b) (k : OnlyBytes b c) : OnlyBytes a c := by
  unfold OnlyBytes at *
  rw [← h, ← k]

theorem putByte_onlyBytes (s : State) (p : Nat) (b : Byte) : OnlyBytes s (s.putByte p b) := by
  unfold OnlyBytes State.putByte
  dsimp only
  split <;> rfl

theorem putBytes_onlyBytes (l : List (Nat × Byte)) : ∀ s : State, OnlyBytes s (s.putBytes l) := by
  induction l with
  | nil => exact onlyBytes_refl
  | cons e t ih => exact fun s => onlyBytes_trans (putByte_onlyBytes s e.1 e.2) (ih _)

theorem putRun_onlyBytes (l : List Byte) : ∀ (s : State) (p : Nat), OnlyBytes s (s.putRun p l) := by
  induction l with
  | nil => exact fun s _ => onlyBytes_refl s
  | cons b t ih => exact fun s p => onlyBytes_trans (putByte_onlyBytes s p b) (ih _ _)

theorem putBytes_other (l : List (Nat × Byte)) : ∀ (s : State) (q : Nat), (∀ e ∈ l, e.1 ≠ q) →
    (s.putBytes l).byte q = s.byte q := by
  induction l with
  | nil => exact fun _ _ _ => rfl
  | cons e t ih =>
    intro s q h
    show ((s.putByte e.1 e.2).putBytes t).byte q = _
    rw [ih _ q (fun x m => h x (List.mem_cons_of_mem _ m)), byte_putByte,
      if_neg (fun c => h e (List.mem_cons_self ..) c.symm)]

theorem putRun_other (l : List Byte) : ∀ (s : State) (p q : Nat), (q < p ∨ p + l.length ≤ q) →
    (s.putRun p l).byte q = s.byte q := by
  induction l with
  | nil => exact fun _ _ _ _ => rfl
  | cons b t ih =>
    intro s p q h
    have hl : (b :: t).length = t.length + 1 := rfl
    show ((s.putByte p b).putRun (p + 1) t).byte q = _
    rw [ih _ _ q (by omega), byte_putByte, if_neg (by omega)]

/-- Two states translate alike: they differ in bytes alone, or in tile headers, and their tier maps read alike. -/
structure SameMap (s g : State) : Prop where
  rest : { g with mem := s.mem, mdv := { g.mdv with diff := s.mdv.diff }, headers := s.headers } = s
  map  : ∀ c k, s.cast = some c → k < c.tmap.count → g.imageWord (c.tmap.addr + 8 * k) = s.imageWord (c.tmap.addr + 8 * k)

theorem sameMap_refl (s : State) : SameMap s s := ⟨rfl, fun _ _ _ _ => rfl⟩

theorem sameMap_trans {a b c : State} (h : SameMap a b) (k : SameMap b c) : SameMap a c := by
  have cast : b.cast = a.cast := by
    have k := congrArg (fun x : State => x.cast) h.rest
    exact k
  refine ⟨?_, fun i n hi hn => (k.map i n (cast.trans hi) hn).trans (h.map i n hi hn)⟩
  have r := k.rest
  have q := h.rest
  rw [← q, ← r]

/-- Bytes written clear of the tier map. -/
theorem sameMap_of {s g : State} (h : OnlyBytes s g)
    (clear_ : ∀ c k i, s.cast = some c → k < c.tmap.count → i < 8 →
      g.readByte (unstripe (c.tmap.addr + 8 * k + i)) = s.readByte (unstripe (c.tmap.addr + 8 * k + i))) : SameMap s g := by
  refine ⟨?_, fun c k hc hk => ?_⟩
  · have hh : g.headers = s.headers := by
      have k := congrArg (fun x : State => x.headers) h
      exact k
    rw [← hh]
    exact h
  · unfold State.imageWord
    have e : (List.range 8).map (fun i => g.readByte (unstripe (c.tmap.addr + 8 * k + i)))
        = (List.range 8).map (fun i => s.readByte (unstripe (c.tmap.addr + 8 * k + i))) :=
      List.map_congr_left (fun i m => clear_ c k i hc hk (List.mem_range.mp m))
    rw [e]

theorem unstripe_high (u : Nat) : t2Base ≤ unstripe u := by
  unfold unstripe
  dsimp only
  generalize devSize * (u / 4096 % 24) = x
  omega

/-- A byte reads alike where it stands and the code does. -/
theorem readByte_of {s g : State} {p : Nat} (b : g.byte p = s.byte p) (m : g.mdv = s.mdv) : g.readByte p = s.readByte p := by
  unfold State.readByte State.syndAt State.unsealedAt State.rowUnsealed State.hiddenSeal State.lostAt
  simp only [b, m]

/-- A byte reads as it stands where no column word is in error. -/
theorem readByte_clean {s : State} {p : Nat} (h : s.mdv.diff = []) : s.readByte p = s.byte p := by
  unfold State.readByte
  rw [h]
  rfl

theorem putByte_mdv {s : State} {p : Nat} (b : Byte) (h : p < t2Base) : (s.putByte p b).mdv = s.mdv := by
  unfold State.putByte
  rw [low_not_t2 h]
  rfl

theorem putBytes_mdv (l : List (Nat × Byte)) : ∀ s : State, (∀ e ∈ l, e.1 < t2Base) → (s.putBytes l).mdv = s.mdv := by
  induction l with
  | nil => exact fun _ _ => rfl
  | cons e t ih =>
    intro s h
    exact (ih (s.putByte e.1 e.2) (fun x m => h x (List.mem_cons_of_mem _ m))).trans
      (putByte_mdv e.2 (h e (List.mem_cons_self ..)))

theorem putRun_mdv (l : List Byte) : ∀ (s : State) (p : Nat), p + l.length ≤ t2Base → (s.putRun p l).mdv = s.mdv := by
  induction l with
  | nil => exact fun _ _ _ => rfl
  | cons b t ih =>
    intro s p h
    have hl : (b :: t).length = t.length + 1 := rfl
    exact (ih (s.putByte p b) (p + 1) (by omega)).trans (putByte_mdv b (by omega))

/-- Where no column word is in error, a write leaves none. -/
theorem putByte_clean {s : State} (p : Nat) (b : Byte) (h : s.mdv.diff = []) : (s.putByte p b).mdv.diff = [] := by
  unfold State.putByte
  dsimp only
  split
  · show smPut 0 s.mdv.diff (colOf p) 0 = []
    rw [h]; rfl
  · exact h

theorem putRun_clean (l : List Byte) : ∀ (s : State) (p : Nat), s.mdv.diff = [] → (s.putRun p l).mdv.diff = [] := by
  induction l with
  | nil => exact fun _ _ h => h
  | cons b t ih => exact fun s p h => ih _ _ (putByte_clean p b h)

theorem putBytes_clean (l : List (Nat × Byte)) : ∀ s : State, s.mdv.diff = [] → (s.putBytes l).mdv.diff = [] := by
  induction l with
  | nil => exact fun _ h => h
  | cons e t ih => exact fun s h => ih _ (putByte_clean e.1 e.2 h)

/-- Where no column word is in error, a write stores its bytes and that is all (R214). -/
theorem storeBytes_clean {s : State} {e : ErrSource} {u : Option Nat} {l : List (Nat × Byte)} (h : s.mdv.diff = []) :
    s.storeBytes e u l = s.putBytes l := by
  unfold State.storeBytes
  rw [h]
  rfl

/-- Bytes written below T2. -/
theorem sameMap_putBytes {s : State} {l : List (Nat × Byte)} (low : ∀ e ∈ l, e.1 < t2Base) : SameMap s (s.putBytes l) :=
  sameMap_of (putBytes_onlyBytes l s) (fun c k i _ _ _ => readByte_of (putBytes_other l s _ (fun e m h => by
    have := low e m
    have := unstripe_high (c.tmap.addr + 8 * k + i)
    omega)) (putBytes_mdv l s low))

/-- A run of bytes written below T2. -/
theorem sameMap_putRun {s : State} {p : Nat} {l : List Byte} (low : p + l.length ≤ t2Base) : SameMap s (s.putRun p l) :=
  sameMap_of (putRun_onlyBytes l s p) (fun c k i _ _ _ => readByte_of (putRun_other l s p _ (by
    have := unstripe_high (c.tmap.addr + 8 * k + i)
    omega)) (putRun_mdv l s p low))

/-- Writing a G-buffer tile changes that tile and its header alone. -/
theorem sameMap_putAcc {s g : State} (h : SameMap s g) {c t : Nat} {a : Acc} (len : a.vals.length = 1024)
    (place : gBase c t + 16384 ≤ t1Base) : SameMap s (g.putAcc c t a) := by
  have hl := bytes_length len
  have hb : t1Base ≤ t2Base := by decide
  have k : SameMap g (g.putRun (gBase c t) a.bytes) := sameMap_putRun (by omega)
  have head : SameMap (g.putRun (gBase c t) a.bytes) (g.putAcc c t a) := ⟨rfl, fun _ _ _ _ => rfl⟩
  exact sameMap_trans h (sameMap_trans k head)

/-! ## Translation in such states -/

theorem sameMap_cast {s g : State} (h : SameMap s g) : g.cast = s.cast := by
    have k := congrArg (fun x : State => x.cast) h.rest
    exact k
theorem sameMap_lnk {s g : State} (h : SameMap s g) : g.lnk = s.lnk := by
    have k := congrArg (fun x : State => x.lnk) h.rest
    exact k

theorem paddr_same {s g : State} (h : SameMap s g) (u : Nat) : g.paddr u = s.paddr u := by
  have ht : g.tmv = s.tmv := by
    have k := congrArg (fun x : State => x.tmv) h.rest
    exact k
  have e : ∀ k, g.mapEntry k = s.mapEntry k := fun k => by
    unfold State.mapEntry
    rw [ht, sameMap_cast h]
    split
    · rename_i c _ hc
      split
      · exact h.map c k hc (by assumption)
      · rfl
    · rename_i c _ hc
      split
      · exact h.map c k hc (by assumption)
      · rfl
    · rfl
  unfold State.paddr
  simp only [e]

theorem aperture_same {s g : State} (h : SameMap s g) (a : Nat) : g.aperture a = s.aperture a := by
  unfold State.aperture
  rw [sameMap_lnk h]

theorem canon_same {s g : State} (h : SameMap s g) (p : Nat) : g.canon p = s.canon p := by
  have hr : g.rst = s.rst := by
    have k := congrArg (fun x : State => x.rst) h.rest
    exact k
  unfold State.canon State.sizCores State.fenced State.apOpen
  simp only [aperture_same h, hr]

theorem alone_same {s g : State} (h : SameMap s g) : g.alone = s.alone := by
  have ht : g.twn = s.twn := by
    have k := congrArg (fun x : State => x.twn) h.rest
    exact k
  unfold State.alone
  rw [ht]

theorem apWritable_same {s g : State} (h : SameMap s g) (p : Nat) : g.apWritable p = s.apWritable p := by
  unfold State.apWritable
  rw [aperture_same h]

theorem translRun_same {s g : State} (h : SameMap s g) (u n : Nat) : g.translRun u n = s.translRun u n := by
  unfold State.translRun State.pagesAt
  simp only [paddr_same h, canon_same h]

theorem transl_same {s g : State} (h : SameMap s g) (u : Nat) : g.transl u = s.transl u := by
  unfold State.transl
  simp only [paddr_same h, canon_same h]

theorem slotOpen_same {s g : State} (h : SameMap s g) {u n : Nat} {ps : List Nat} (o : s.slotOpen u n ps)
    (low : ∀ q ∈ ps, isT2 q = false) : g.slotOpen u n ps := by
  have hb : g.bnk = s.bnk := by
    have k := congrArg (fun x : State => x.bnk) h.rest
    exact k
  have hm : g.mdv.override = s.mdv.override := by
    have k := congrArg (fun x : State => x.mdv.override) h.rest
    exact k
  have hc : g.cnd = s.cnd := by
    have k := congrArg (fun x : State => x.cnd) h.rest
    exact k
  have hs : g.staged = s.staged := by
    have k := congrArg (fun x : State => x.staged) h.rest
    exact k
  have ro : ∀ k, g.readOnlyPage k = s.readOnlyPage k := fun k => by
    unfold State.readOnlyPage State.theCast
    rw [hc, hs, sameMap_cast h]
  have dw : ∀ q, g.dropsWrite q = s.dropsWrite q := fun q => by
    unfold State.dropsWrite
    rw [alone_same h]
  have wh : g.windowHit ps = s.windowHit ps := by
    unfold State.windowHit State.inWindow
    rw [hm, hb]
  exact ⟨(translRun_same h u n).trans o.1, fun q m => (dw q).trans (o.2.1 q m), wh.trans o.2.2.1, (ro _).trans o.2.2.2.1,
    (ro _).trans o.2.2.2.2.1,
    fun q m t => (apWritable_same h q).trans (o.2.2.2.2.2.1 q m t), mergeCols_low low⟩

theorem needFails_same {s g : State} (h : SameMap s g) (q : Need) : g.needFails q = s.needFails q := by
  unfold State.needFails State.firstLost State.lostU State.roSlot State.dropsWrite State.slotRefused
  have r : ∀ p, g.refusedLine p = s.refusedLine p := fun p => by unfold State.refusedLine; rw [sameMap_lnk h]
  simp only [paddr_same h, canon_same h, apWritable_same h, alone_same h, translRun_same h, sameMap_lnk h, funext r]

end Sys2Proof.Machine
end

