-- ==== Sys2Proof/Tests/Slice0.lean ====
section
/-! SUPPORT. The project's own tests: an ill-formed command for each check of `Instr.wf`, the spec's worked values, and for
each statement states that meet its hypotheses (`witness_<statement>`), clause by clause. -/

namespace Sys2Proof.Tests

-- One proof after the other: side by side, the evaluations of the kernel want more threads than memory holds.
set_option Elab.async false

open Sys2Proof.Machine

/-! ## Small states -/

/-- A port that is up. -/
def portUp : Port := { Port.off with state := 4, width := 8, known := true, neigh := 7, looped := true }

/-- READY, every port up, an OWNER session open, LNK and MDV in RUN. -/
def live : State :=
  { State.reset with
    sys := { Sys.atReset with ready := true }
    lnk := { Lnk.atReset with ports := Vector.replicate 8 portUp, take := true }
    fn := { FnRegs.atReset with lnk := ⟨.run, 1, 1, false⟩, mdv := ⟨.run, 1, 1, false⟩ }
    sec := { Sec.atReset with session := some ⟨0, 3, 1, []⟩ }
    rst := { Rst.atReset with active := 0 } }

/-- The same with a session of less privilege. -/
def asPriv (p : BitVec 2) : State := { live with sec := { live.sec with session := some ⟨0, p, 1, []⟩ } }

/-- The host may do anything in `live`. -/
theorem live_may (n : Nat) (off : BitVec 24) (h : n ≤ 3) : live.hostMay n off := ⟨rfl, rfl, h, rfl, nofun⟩

/-- A cast whose segments lie in the U-page 16, of two moulds. -/
def img : CastImg :=
  { base := 0x100000, bytes := 65536, flags := 0, firstMould := 0, firstStep := 5, seed := 9, ccode := ⟨0x101000, 64⟩
    awords := ⟨0x102000, 16⟩, tmap := ⟨0x103000, 64⟩, migr := ⟨0x104000, 4⟩
    moulds := [⟨0, 1000, false, false⟩, ⟨8, 1000, true, false⟩], desc := [], eprog := [], bprog := [], quota := []
    slots := [], fmtt := [] }

/-- Memory with the tier map of `img`: U-page 0 in T2, U-page 1 in T3 through aperture 32, U-page 2 in T1, the others
unmapped; and with `w` as the first instruction. -/
def imgMem (w : BitVec 32) : List Host.Cell :=
  ((((State.reset.putImageWord 0x101000 (w.setWidth 64)).putImageWord 0x103000 (0x1000005 * 64 + 1)).putImageWord
    0x103008 (0x12000000 * 64 + 1)).putImageWord 0x103010 (0x4000 * 64 + 1)).mem

/-- A running cast whose first instruction is `w`, every general register 3; aperture 32 is open for writing. -/
def running (w : BitVec 32) : State :=
  { live with
    cast := some img
    tmv := { Tmv.atReset with map := .running }
    fn := { live.fn with cnd := ⟨.run, 1, 1, false⟩, ary := ⟨.run, 1, 1, false⟩, tmv := ⟨.run, 1, 1, false⟩ }
    cnd := { Cnd.atReset with adm := .running, part := 1, g := Vector.replicate 32 3 }
    lnk := { live.lnk with aps := [(32, 0xC000000000000000)] }
    mem := imgMem w }

/-- Whether the instruction stands at the PC. -/
def atPc (s : State) (w : BitVec 32) : Bool :=
  decide (s.cast = some img) && s.mayExecute && !s.cnd.past && decide (s.cnd.pc.toNat < 64)
    && decide (s.ccodeAt img s.cnd.pc.toNat = w)

theorem at_word {s : State} {w : BitVec 32} (h : atPc s w = true) : s.atWord w := by
  unfold atPc at h
  simp only [Bool.and_eq_true, Bool.not_eq_true', decide_eq_true_eq] at h
  exact ⟨img, h.1.1.1.1, h.1.1.1.2, h.1.1.2, h.1.2, h.2⟩

/-- A check that holds along a list. -/
theorem along {α : Type} {l : List α} {p : α → Prop} (f : α → Bool) (h : ∀ m, f m = true → p m) (e : l.all f = true) :
    ∀ m ∈ l, p m := fun m i => h m (List.all_eq_true.mp e m i)

/-- A state with the Conductor changed. -/
def withCnd (s : State) (f : Cnd → Cnd) : State := { s with cnd := f s.cnd }

/-- Fields RD, RS1, RS2 and FN, and fields RD, RS1 and IMM, of an instruction (R62). -/
def bodyA (rd rs1 rs2 : BitVec 5) (fn : BitVec 11) : Body := rd ++ rs1 ++ rs2 ++ fn
def bodyI (rd rs1 : BitVec 5) (imm : BitVec 16) : Body := rd ++ rs1 ++ imm


/-! ## The Conductor -/

/-- `running` with the Conductor changed. -/
def runningC (w : BitVec 32) (f : Cnd → Cnd) : State := withCnd (running w) f

/-- An instruction of format I or A that is in place. -/
def inPlace (m : BitVec 6) (b : Body) : Bool := atPc (running (cword m b)) (cword m b)

theorem witness_ConductorRegisterInstructions :
    inPlace 0x01 (bodyA 1 2 3 0xF) = true ∧ aluTable 0xF 3 3 = some 3
    ∧ [(0x02 : BitVec 6), 0x03, 0x04, 0x05, 0x07].all (fun m => inPlace m (bodyI 31 0 0xFFFF)) = true
    ∧ [(0x003F : BitVec 16), 0x403F, 0x803F].all (fun n =>
        inPlace 0x06 (bodyI 0 1 n) && decide (fldN (bodyI 0 1 n) 6 8 = 0)) = true
    ∧ [(0x08 : BitVec 6), 0x09].all (fun m => inPlace m (bodyI 1 3 0xFFFF)) = true
    ∧ fldN (bodyI 1 3 0xFFFF) 18 3 = 0 := by and_intros <;> decide +kernel

theorem witness_ConductorSpecialAndSummaryRegisters :
    [(0 : BitVec 16), 1, 2, 3, 4, 5, 6, 7].all (fun k => inPlace 0x0D (bodyI 1 0 k)
      && decide (iRs1 (bodyI 1 0 k) = 0 ∧ fldN (bodyI 1 0 k) 6 10 = 0 ∧ fldN (bodyI 1 0 k) 0 6 = k.toNat)) = true
    ∧ (running 0).cast = some img
    ∧ (let b := bodyI 1 0 15
      inPlace 0x0C b = true ∧ iRs1 b = 0 ∧ fldN b 4 12 = 0 ∧ (running (cword 0x0C b)).pendingSm 15 = 0)
    ∧ (let b := bodyI 0 1 15
      inPlace 0x0E b = true ∧ iRd b = 0 ∧ fldN b 4 12 = 0 ∧ (running (cword 0x0E b)).pendingSm 15 = 0)
    ∧ (let b := bodyI 0 0 0xFFFF
      inPlace 0x0F b = true ∧ iRd b = 0 ∧ iRs1 b = 0 ∧ ∀ m : BitVec 4, (running (cword 0x0F b)).pendingSm m = 0)
    ∧ (∀ m : Bool, let w := cword (if m then 0x0C else 0x0E) 0
      let s := runningC w (fun c => { c with deliv := [⟨0, 1, .replace, none⟩] })
      atPc s w = true ∧ s.pendingSm 0 ≠ 0)
    ∧ (let w := cword 0x0F (bodyI 0 0 1)
      let s := runningC w (fun c => { c with deliv := [⟨0, 1, .replace, none⟩] })
      atPc s w = true ∧ bitAt (iImm (bodyI 0 0 1)) 0 = true ∧ s.pendingSm 0 ≠ 0) := by and_intros <;> decide +kernel

/-- A load or store at U-address `3 + k`. -/
def memBody (k : BitVec 16) : Body := bodyI 1 1 k

/-- `running` with U-page `n` in move. -/
def moving (s : State) (n : Nat) : State := { s with tmv := { s.tmv with moving := [⟨n, 0, 0, false, 0⟩] } }

/-- An instruction of the load or store kind that stands at the PC of `s` with `memBody k`. -/
def accesses (m : Bool) (k : BitVec 16) (f : State → State) : Bool :=
  let w := cword (if m then 0x0A else 0x0B) (memBody k)
  atPc (f (running w)) w && !(f (running w)).meetsMove 0x10000 8

/-- U-page 3 lies behind twin aperture 2 under ALONE. -/
def onAlone (s : State) : State :=
  { s with mem := (s.putImageWord 0x103018 (0x10200000 * 64 + 1)).mem
           cnd := { s.cnd with g := Vector.replicate 32 0x30003 }
           twn := { s.twn with pair := .single, set := Epoched.at 0x10000 } }

/-- The general registers point to U-page `n`. -/
def atPage (n : Nat) (s : State) : State :=
  withCnd s (fun c => { c with g := Vector.replicate 32 (BitVec.ofNat 64 (0x10000 * n + 3)) })

/-- The line of T3 that a store to U-page 1 changes has been read. -/
def lineRead (s : State) : State :=
  let s := atPage 1 s
  { s with lnk := { s.lnk with got := [(conductorKey, 0x120000000000, true)] } }

theorem witness_ConductorLoadsAndStores :
    (accesses true 5 id = true ∧ accesses false 5 id = true
      ∧ (let s := running 0
        s.behindTwin 8 = false ∧ s.translRun 8 8 = some ((List.range 8).map (0x10000050008 + ·))
        ∧ s.transl 8 = some 0x10000050008 ∧ isT3 0x10000050008 = false
        ∧ s.slotOpen 8 8 ((List.range 8).map (0x10000050008 + ·))
        ∧ partLines ((List.range 8).map (0x10000050008 + ·)) = [] ∧ s.mdv.uncorr = none))
    ∧ (accesses true 5 (atPage 1) = true ∧ accesses false 5 lineRead = true
      ∧ (let s := lineRead (running 0)
        let ps := (List.range 8).map (0x120000000008 + ·)
        s.behindTwin 0x10008 = false ∧ s.translRun 0x10008 8 = some ps ∧ s.transl 0x10008 = some 0x120000000008
        ∧ isT3 0x120000000008 = true ∧ s.slotOpen 0x10008 8 ps ∧ partLines ps = [0x120000000000]
        ∧ s.refusedTo conductorKey [0x120000000000] = false ∧ s.missing conductorKey [0x120000000000] = []))
    ∧ (let s := runningC 0 (fun c => { c with wait := .load 31 0xFFF8 })
      s.running .cnd = true ∧ s.loadPending = false ∧ s.meetsMove 0xFFF8 8 = false
        ∧ s.readU 0xFFF8 8 = some (List.replicate 8 0))
    ∧ (accesses false 5 onAlone = true ∧ (onAlone (running 0)).writeRun 0x30008 8 = some (List.replicate 8 none)
      ∧ (onAlone (running 0)).readOnlyPage 3 = false
      ∧ accesses true 5 onAlone = true ∧ (onAlone (running 0)).behindTwin 0x30008 = true)
    ∧ (accesses false 5 (atPage 1) = true ∧ (let s := atPage 1 (running 0)
      s.storeLines 0x10008 = [0x120000000000] ∧ s.refusedTo conductorKey [0x120000000000] = false
        ∧ s.missing conductorKey [0x120000000000] ≠ []))
    ∧ (∀ m : Bool, let w := cword (if m then 0x0A else 0x0B) (memBody 5)
      let s := moving (running w) 0
      atPc s w = true ∧ s.meetsMove 8 8 = true ∧ s.refusedTo conductorKey (s.storeLines 8) = false)
    ∧ (accesses true 4 id = true ∧ accesses false 4 id = true
        ∧ ((3 : Word) + (4 : BitVec 16).signExtend 64).toNat % 8 ≠ 0)
    ∧ (accesses true 5 (atPage 3) = true ∧ accesses false 5 (atPage 3) = true
      ∧ (let s := atPage 3 (running 0)
        s.translRun 0x30008 8 = none ∧ s.behindTwin 0x30008 = false ∧ s.writeRun 0x30008 8 = none)) := by
  unfold State.slotOpen
  and_intros <;> decide +kernel

/-- A BRF of g1 against g2 with this condition and offset. -/
def brfBody (cond : BitVec 3) (off : BitVec 13) : Body := (1 : BitVec 5) ++ (2 : BitVec 5) ++ cond ++ off
/-- A LOOP. -/
def loopBody (count : BitVec 12) (len : BitVec 14) : Body := count ++ len

theorem witness_ConductorBranchesAndLoops :
    (inPlace 0x10 (brfBody 1 62) = true ∧ fldN (brfBody 1 62) 13 3 = 1)
    ∧ (inPlace 0x10 (brfBody 0 62) = true ∧ 0 + 1 + fldN (brfBody 0 62) 0 13 < (running 0).ccodeCount)
    ∧ (inPlace 0x10 (brfBody 0 63) = true ∧ (running 0).ccodeCount ≤ 0 + 1 + fldN (brfBody 0 63) 0 13)
    ∧ (∀ o : Bool, let w := cword 0x10 (brfBody 6 (if o then 1 else 4))
      let s := runningC w (fun c => { c with loops := [⟨0, 5, if o then 4 else 2⟩] })
      atPc s w = true ∧ (if o then 2 < 5 else 1 + fldN (brfBody 6 4) 0 13 = 5))
    ∧ (∀ o : Bool, let w := cword 0x10 (brfBody 6 (if o then 4 else 5))
      atPc (runningC w (fun c => { c with loops := [⟨0, 5, 1⟩] })) w = true)
    ∧ (let w := cword 0x10 (brfBody 6 4)
      atPc (runningC w (fun c => { c with loops := [⟨0, 5, 1⟩, ⟨0, 5, 2⟩] })) w = true
        ∧ reaches [⟨0, 5, 1⟩, ⟨0, 5, 2⟩] 5 0 [⟨0, 5, 1⟩])
    ∧ (let w := cword 0x10 (brfBody 6 63)
      atPc (runningC w (fun c => { c with loops := [⟨0, 5, 1⟩] })) w = true ∧ 0 + 1 + 63 ≠ 5
        ∧ (running 0).ccodeCount ≤ 0 + 1 + 63)
    ∧ (let w := cword 0x11 (loopBody 0 4)
      atPc (runningC w (fun c => { c with loops := [⟨0, 5, 1⟩] })) w = true ∧ reaches [⟨0, 5, 1⟩] 5 5 [])
    ∧ (inPlace 0x10 (brfBody 7 0) = true ∧ fldN (brfBody 7 0) 13 3 = 7)
    ∧ inPlace 0x11 (loopBody 3 0) = true
    ∧ (inPlace 0x11 (loopBody 3 64) = true ∧ (running 0).ccodeCount < 0 + 1 + 64)
    ∧ inPlace 0x11 (loopBody 0 63) = true ∧ 0 + 1 + 63 ≤ (running 0).ccodeCount
    ∧ (∀ n : Bool, let w := cword 0x11 (loopBody 4095 63)
      atPc (runningC w (fun c => { c with loops := List.replicate (if n then 3 else 4) ⟨0, 64, 2⟩ })) w = true) := by
  and_intros <;> first | decide +kernel | simp [reaches]

/-- `runningC` at a beat. -/
def atBeat (n : Word) (w : BitVec 32) (f : Cnd → Cnd) : State := { runningC w f with bea := { Bea.atReset with count := n } }

theorem witness_ConductorWaits :
    inPlace 0x12 0 = true ∧ inPlace 0x12 0x3FFFFFF = true
    ∧ [(4 : Word), 5].all (fun n => (atBeat n 0 (fun c => { c with wait := .waitB 5 })).running .cnd) = true
    ∧ [(2 : Word), 3, 4].all (fun n => atPc (atBeat n (cword 0x13 (bodyI 0 1 0)) id) (cword 0x13 (bodyI 0 1 0))
        && decide ((atBeat n (cword 0x13 (bodyI 0 1 0)) id).cnd.run + (atBeat n 0 id).g (iRs1 (bodyI 0 1 0)) = 3)) = true
    ∧ [(2 : Word), 3, 4].all (fun n => (atBeat n 0 (fun c => { c with wait := .waitA 3 })).running .cnd) = true
    ∧ (let b := bodyI 0x1E 0 0
      inPlace 0x14 b = true ∧ fldN b 8 14 = 0 ∧ (fld b 23 3 : BitVec 3) = 7 ∧ bitAt b 22 = true
        ∧ (∀ i : Fin 3, ((running 0).sheet.queue i).length ≤ 0)
        ∧ ¬ ({ (running 0).sheet with qH := [⟨0, 0, 0, none, []⟩] } : Sheet).qH.length ≤ 0) := by
  and_intros <;> decide +kernel

/-- A NOP word, and an SBAR of F, B and H. -/
def nopWord : AWord := arrayWord 0xFF ⟨3, 0, 0, 0, 0, 0⟩

/-- The memory of `running` with `w` as the first two entries of AWORDS. -/
def withAwords (s : State) (w : AWord) : State :=
  { s with mem := ((((s.putImageWord 0x102000 (fld w 0 64)).putImageWord 0x102008 (fld w 64 64)).putImageWord
      0x1020F0 (fld w 0 64)).putImageWord 0x1020F8 (fld w 64 64)).mem }

/-- The checks of `acceptsAfter 0`, where no summary is asked. -/
def accepted (s : State) (w : AWord) : Bool :=
  decide (enqueueCheck s.cnd.part w = none) && !wSumm w && decide (s.sheet.qF.length < 128)
    && decide (s.sheet.qB.length < 128) && decide (s.sheet.qH.length < 64)

theorem accepts_of {s : State} {w : AWord} (h : accepted s w = true) : s.acceptsAfter 0 w := by
  unfold accepted at h
  simp only [Bool.and_eq_true, decide_eq_true_eq, Bool.not_eq_true'] at h
  obtain ⟨⟨⟨⟨hc, hs⟩, hF⟩, hB⟩, hH⟩ := h
  refine ⟨hc, fun i hi _ => ?_, fun e => by rw [hs] at e; cases e⟩
  rcases (by omega : i = 0 ∨ i = 1 ∨ i = 2) with e | e | e <;> subst e
  · exact hF
  · exact hB
  · exact hH

theorem witness_ConductorEnqueues :
    (∀ k : Bool, let s := withAwords (runningC (cword 0x18 (bodyI 0 1 (if k then 12 else 13)))
        (fun c => { c with g := Vector.replicate 32 3 })) nopWord
      atPc s (cword 0x18 (bodyI 0 1 (if k then 12 else 13))) = true ∧ s.awordAt img 15 = nopWord
        ∧ accepted s nopWord = true)
    ∧ (let s := withAwords (runningC (cword 0x19 (bodyI 1 1 12)) id) nopWord
      atPc s (cword 0x19 (bodyI 1 1 12)) = true
        ∧ accepted s (fld nopWord 32 96 ++ (fld (3 : Word) 0 32 : BitVec 32)) = true)
    ∧ (let s := withAwords (runningC (cword 0x1A (bodyI 0 0 1)) id) nopWord
      atPc s (cword 0x1A (bodyI 0 0 1)) = true ∧ s.awordAt img 0 = nopWord ∧ accepted s nopWord = true
        ∧ wOpc nopWord ≠ 0xC3)
    ∧ (let b := bodyI 0 1 1
      atPc (runningC (cword 0x1A b) (fun c => { c with g := Vector.replicate 32 16 })) (cword 0x1A b) = true)
    ∧ (let b := bodyA 0 1 2 0
      let s := runningC (cword 0x1B b) (fun c => { c with g := Vector.replicate 32 0xFFC0000000000000 })
      atPc s (cword 0x1B b) = true ∧ iRd b = 0 ∧ iFn b = 0
        ∧ accepted s ((0xFFC0000000000000 : Word) ++ (0xFFC0000000000000 : Word)) = true)
    ∧ (let b := bodyA 0 1 2 0
      inPlace 0x1B b = true ∧ enqueueCheck 1 ((3 : Word) ++ (3 : Word)) = some 2)
    ∧ (let b := bodyA 0 1 2 0
      let s0 := runningC (cword 0x1B b) (fun c => { c with g := Vector.replicate 32 0xFFC0000000000000 })
      let s : State := { s0 with sheet := { s0.sheet with qH := List.replicate 64 ⟨0, 0, 0, none, []⟩ } }
      atPc s (cword 0x1B b) = true ∧ enqueueCheck 1 ((0xFFC0000000000000 : Word) ++ (0xFFC0000000000000 : Word)) = none
        ∧ ¬ s.sheet.qH.length < 64)
    ∧ (let s := runningC 0 (fun c => { c with wait := .enqOne nopWord })
      s.running .cnd = true ∧ accepted s nopWord = true) := by
  and_intros <;> decide +kernel

/-- The queue of section H is full. -/
def fullH (s : State) : State := { s with sheet := { s.sheet with qH := List.replicate 64 ⟨0, 0, 0, none, []⟩ } }

/-- The checks of `stallsOn` for a word of section H. -/
theorem stalls_of {s : State} {w : AWord} (h : enqueueCheck s.cnd.part w = none) (ho : wOpc w ≠ 0xC1) (hs : wSec w = 3)
    (hq : (fullH s).sheet.qH.length = 64) : (fullH s).stallsOn w := by
  refine ⟨h, .inl ⟨2, by omega, ?_, ?_⟩⟩
  · unfold takenBy; rw [if_neg ho, hs]; decide
  · show ¬ (fullH s).sheet.qH.length + 0 < 64
    rw [hq]; decide

/-- Every wait of an enqueue: refused, with no room, past AWORDS, at the first word and after one that is taken. -/
theorem witness_ConductorEnqueues_refused :
    (let b := bodyI 0 1 0;
      atPc (runningC (cword 0x18 b) (fun c => { c with g := Vector.replicate 32 1 })) (cword 0x18 b) = true
        ∧ iRd b = 0 ∧ (running (cword 0x18 b)).awordAt img 1 = 0 ∧ enqueueCheck 1 (0 : AWord) = some 2)
    ∧ (let b := bodyI 1 0 15
      atPc (running (cword 0x19 b)) (cword 0x19 b) = true
        ∧ enqueueCheck 1 ((fld (0 : AWord) 32 96 : BitVec 96) ++ (3 : BitVec 32)) = some 2)
    ∧ (let b := bodyI 1 0 16
      atPc (running (cword 0x19 b)) (cword 0x19 b) = true ∧ img.awords.count ≤ (0 : Word).toNat + 16)
    ∧ (let b := bodyI 0 0 2
      let s := withAwords (running (cword 0x1A b)) nopWord
      atPc s (cword 0x1A b) = true ∧ iRd b = 0 ∧ (s.g (iRs1 b)).toNat = 0 ∧ s.awordAt img 0 = nopWord
        ∧ accepted s nopWord = true ∧ s.awordAt img 1 = 0)
    ∧ (let b := bodyI 0 1 2
      let s := withAwords (runningC (cword 0x1A b) (fun c => { c with g := Vector.replicate 32 15 })) nopWord
      atPc s (cword 0x1A b) = true ∧ (s.g (iRs1 b)).toNat = 15 ∧ s.awordAt img 15 = nopWord
        ∧ accepted s nopWord = true ∧ img.awords.count ≤ 16)
    ∧ (let b := bodyI 0 0 2
      let s := withAwords (running (cword 0x1A b)) nopWord
      atPc (fullH s) (cword 0x1A b) = true ∧ s.awordAt img 0 = nopWord ∧ enqueueCheck s.cnd.part nopWord = none
        ∧ wOpc nopWord ≠ 0xC1 ∧ wSec nopWord = 3 ∧ (fullH s).sheet.qH.length = 64)
    ∧ (let s := withAwords (runningC 0 (fun c => { c with wait := .enqRun 0 1 })) nopWord
      s.running .cnd = true ∧ s.awordAt img 0 = nopWord ∧ accepted s nopWord = true) := by
  and_intros <;> decide +kernel

theorem witness_MouldTransfers :
    (inPlace 0x20 1 = true ∧ fldN (1 : Body) 12 14 = 0 ∧ (running 0).mouldAt 1 = some ⟨8, 1000, true, false⟩)
    ∧ (inPlace 0x20 2 = true ∧ (running 0).mouldAt 2 = none)
    ∧ atPc (runningC (cword 0x20 1) (fun c => { c with loops := [⟨0, 5, 1⟩] })) (cword 0x20 1) = true
    ∧ (∀ k : Bool, let b : Body := (1 : BitVec 4) ++ (if k then (0 : BitVec 4) else 15) ++ (0 : BitVec 18) ||| 1
      inPlace 0x21 b = true ∧ bitAt b 17 = false ∧ fldN b 12 5 = 0
        ∧ (running 0).pendingSm 15 = 0 ∧ (running 0).mouldAt (fldN b 0 12) = some ⟨8, 1000, true, false⟩)
    ∧ (runningC 0 (fun c => { c with deliv := [⟨0, 1, .replace, none⟩] })).pendingSm 0 ≠ 0
    ∧ mbrTable 1 0 3 = some ((0 : Word).toNat = 0) ∧ mbrTable 2 0 3 = some ((0 : Word).toNat ≠ 0)
    ∧ (let b : Body := (2 : BitVec 4) ++ (0 : BitVec 22)
      inPlace 0x21 b = true ∧ fldN b 22 4 = 2 ∧ ¬ (0 : Word).toNat ≠ 0)
    ∧ (let b : Body := (1 : BitVec 4) ++ (0 : BitVec 22) ||| 2
      inPlace 0x21 b = true ∧ fldN b 22 4 = 1 ∧ (running 0).mouldAt (fldN b 0 12) = none
        ∧ atPc (runningC (cword 0x21 b) (fun c => { c with loops := [⟨0, 5, 1⟩] })) (cword 0x21 b) = true)
    ∧ (let b := bodyI 0 1 0
      atPc (runningC (cword 0x22 b) (fun c => { c with loops := [⟨0, 5, 1⟩] })) (cword 0x22 b) = true
        ∧ iRd b = 0 ∧ fldN b 12 4 = 0)
    ∧ (let b : Body := 0
      inPlace 0x21 b = true ∧ bitAt b 17 = false ∧ fldN b 22 4 = 0)
    ∧ (∀ k : Bool, let b := bodyI 0 1 (if k then 0 else 4095)
      atPc (runningC (cword 0x22 b) (fun c => { c with g := Vector.replicate 32 1 })) (cword 0x22 b) = true
        ∧ iRd b = 0 ∧ fldN b 12 4 = 0 ∧ ((running 0).mouldAt (fldN b 0 12 + 1)).isSome = k) := by
  and_intros <;> first | decide +kernel | rfl

/-- A Conductor that is stopping, with nothing left in the queues. -/
def stoppingState (ending : BitVec 4) : State :=
  (runningC 0 (fun c => { c with ending := ending })).setFnState .cnd .stopping

theorem witness_CastEnds :
    inPlace 0x23 0 = true ∧ (running 0).cnd.loops = []
    ∧ (inPlace 0x24 0xFFFF = true ∧ iRd 0xFFFF = 0 ∧ iRs1 0xFFFF = 0)
    ∧ [(0x23 : BitVec 6), 0x24].all (fun m =>
        atPc (runningC (cword m 0) (fun c => { c with loops := [⟨0, 5, 1⟩] })) (cword m 0)) = true
    ∧ [((0x23 : BitVec 6), (1 : Body)), (0x01, 0x10)].all (fun f => inPlace f.1 f.2
        && conductorForms.any (fun p => p.2.1 == f.1 && !p.2.2 f.2)) = true
    ∧ [(0 : BitVec 32), 0x54000000, 0x94000000].all (fun w =>
        atPc (running w) w && conductorForms.all (fun q => fldN w 26 6 != q.2.1.toNat)) = true
    ∧ ([(64 : BitVec 24), 65].all (fun n => (runningC 0 (fun c => { c with pc := n })).mayExecute
        && decide (img.ccode.count ≤ n.toNat)) = true)
    ∧ (runningC 0 (fun c => { c with past := true })).mayExecute = true
    ∧ [(1 : BitVec 4), 2].all (fun e => decide ((stoppingState e).fnState .cnd = .stopping) && (stoppingState e).drained)
        = true
    ∧ (let s := stoppingState 1
      let s : State := { s with sheet := { s.sheet with qH := [⟨0, 0, 0, none, []⟩] } }
      s.fnState .cnd = .stopping ∧ s.drained = false) := by
  and_intros <;> decide +kernel

theorem witness_SummariesAndCompletions :
    (∀ k : Bool, let d : Delivery := ⟨15, 2, .orInto, if k then some 1 else none⟩
      let l : List Delivery := [⟨3, 1, .replace, none⟩]
      (runningC 0 (fun c => { c with deliv := l ++ d :: [] })).cnd.deliv = l ++ d :: [] ∧ ∀ x ∈ l, x.sm ≠ d.sm)
    ∧ (∀ k : Bool, let w : Issued := ⟨7, 0x01, 1, if k then .none else .resume, []⟩
      ({ Sheet.atReset with issued := [w] } : Sheet).issued.find? (fun x => x.seq == w.seq) = some w) := by
  and_intros <;> decide +kernel

/-! ## Beat time, casts and functions -/

/-- `live` with the beat receiver changed. -/
def withBea (f : Bea → Bea) : State := { live with bea := f Bea.atReset }

theorem witness_BeatReceiver :
    (∀ k : Bool, let s := withBea (fun b => { b with started := true, loadPend := if k then none else some 9, alarm := 1 })
      s.mainOn = true ∧ s.discards none = false ∧ s.mayLoad = true ∧ s.cnd.quench = false
        ∧ s.rst.arrayPend = false ∧ s.sheet.switch = none ∧ s.bea.alarm ≠ 0)
    ∧ (let s : State := { withBea (fun b => { b with started := true, loadPend := some 9 }) with
          cnd := { Cnd.atReset with adm := .running } }
      s.mainOn = true ∧ s.discards none = false ∧ s.mayLoad = false)
    ∧ (withBea id).discards (some ⟨101, 0, none, 0, 0⟩) = true ∧ (withBea id).discards (some ⟨100, 0, none, 0, 0⟩) = false
    ∧ live.cnd.quench = false ∧ live.rst.arrayPend = false ∧ (live.port 7).isUp = true
    ∧ (∀ k : Bool, let s := withBea (fun b => { b with missed := 3, fallCur := if k then 2 else 0 })
      s.mainOn = true ∧ s.bea.srcAct ≠ 0 ∧ s.bea.hold = false ∧ 3 ≤ s.bea.missed
        ∧ (if k then s.bea.fallCur ≠ 0 ∧ s.bea.fallCur ≠ s.bea.srcAct ∧ s.bea.lost = false else s.bea.fallCur = 0))
    ∧ (let s := withBea (fun b => { b with hold := true, heldBeats := 10000 })
      s.bea.hold = true ∧ s.bea.holdExp = false ∧ fldN s.bea.ctrl 16 16 ≤ s.bea.heldBeats)
    ∧ (let s := withBea (fun b => { b with lost := true, hold := true, fallCur := 2 })
      s.mainOn = true ∧ s.bea.lost = true ∧ s.bea.hold = true ∧ s.bea.fallCur ≠ 0 ∧ s.bea.fallCur ≠ s.bea.srcCur)
    ∧ live.mayLoad = true := by and_intros <;> decide +kernel

theorem witness_BeatReceiver_host : live.hostMay 2 0x020018 ∧ live.hostMay 1 0x020028 :=
  ⟨live_may _ _ (by decide), live_may _ _ (by decide)⟩

/-- A cast whose admission is under way. -/
def admitting : State := { live with cnd := { Cnd.atReset with adm := .admitting } }

/-- A cast that waits for its start beat. -/
def waitingCast : State := { live with
  staged := some img
  cnd := { Cnd.atReset with adm := .admitted, run := 9 }
  bea := { Bea.atReset with count := 9 }
  fn := { live.fn with ary := ⟨.stopped, 1, 1, false⟩, tmv := ⟨.stopped, 1, 1, false⟩ } }

theorem witness_CastAdmissionAndStart_host :
    live.hostMay 1 0x030000 ∧ live.hostMay 2 0x030008 ∧ (asPriv 1).hostMay 1 0x030008 :=
  ⟨live_may _ _ (by decide), live_may _ _ (by decide), rfl, rfl, by decide, rfl, nofun⟩

theorem witness_CastAdmissionAndStart :
    live.noCast = true ∧ admitting.noCast = false ∧ live.fnState .cnd = .stopped ∧ live.sys.ps = 0
    ∧ live.sys.entering = none
    ∧ (let s : State := { asPriv 1 with mem := (State.reset.putImageWord 8 0x600000000).mem }
      s.priv = 1 ∧ s.fnState .cnd = .stopped ∧ s.noCast = true ∧ s.flagsNeedOperator = true)
    ∧ admitting.sys.ps = 0 ∧ admitting.running .mdv = true ∧ admitting.check3 0 = false ∧ admitting.sound
    ∧ admitting.rst.arrayBusy = false ∧ waitingCast.rst.arrayBusy = false
    ∧ (let s : State := { admitting with mdv := { admitting.mdv with diff := [(colOf (unstripe 0), 3)] } }
      s.cnd.adm = .admitting ∧ s.imageDouble s.cnd.castBase.toNat 4096 = true)
    ∧ (waitingCast.staged = some img ∧ waitingCast.cnd.adm = .admitted ∧ waitingCast.cnd.run.toNat ≤ waitingCast.bea.count.toNat
      ∧ img.moulds[img.firstMould]? = some ⟨0, 1000, false, false⟩ ∧ waitingCast.fn.ary.mayGo = true
      ∧ waitingCast.fn.tmv.mayGo = true) := by
  unfold State.sound
  and_intros <;> decide +kernel

/-! ### A whole image -/

/-- Bytes from `a` upward. -/
def run : Nat → List Byte → List Host.Cell
  | _, [] => []
  | a, b :: t => (a, b) :: run (a + 1) t

/-- The cells of a 4 KiB block, by their place in it. -/
def block (a : Nat) (l : List Host.Cell) : List Host.Cell := l.map (fun e => (unstripe a + e.1, e.2))

/-- The memory of an image at address 0 of one mould, with the FLAGS, the rows asked for, the CHECK of its first segment,
HDR_CHECK and the mould as given. The bytes after the entry of each segment bring the CRC of its block to zero. -/
def imageCells (flags : List Host.Cell) (rows : Byte) (check : List Host.Cell) (hdr : List Byte)
    (mould : List Host.Cell) : List Host.Cell :=
  block 0 (run 0 [89, 78, 67, 65, 83, 84, 48, 49, 1] ++ [(0xA, 3)] ++ flags ++ [(0x12, 1), (0x18, 232), (0x19, 3),
    (0x26, 78), (0x27, 89), (0x28, rows), (0x30, 36), (0x38, 8), (0xB0, 1)] ++ run 0xC0 hdr
    ++ [(0x100, 1), (0x104, 1), (0x109, 16), (0x111, 16)] ++ check ++ [(0x120, 6), (0x124, 1), (0x129, 32), (0x131, 16),
    (0x140, 9), (0x144, 1), (0x149, 48), (0x151, 16)])
  ++ block 0x1000 ((3, 140) :: run 8 [155, 159, 6, 127, 34, 166, 31, 92])
  ++ block 0x2000 ([(0, 1), (4, 1), (7, 32)] ++ run 8 [71, 171, 131, 95, 24, 71, 114, 61])
  ++ block 0x3000 mould

/-- A mould of 1,000 beats, from instruction 0. -/
def mould1000 : List Host.Cell := [(4, 232), (5, 3), (8, 2)] ++ run 0x10 [39, 59, 252, 164, 236, 186, 21, 180]

/-- The admission of an image at address 0 under way. -/
def imageState (m : List Host.Cell) : State := { admitting with mem := m, cnd := { admitting.cnd with run := 9 } }

/-- An image in which nothing fails. -/
def soundImage : State := imageState (imageCells [] 24 [] [0x6D, 0xB5, 0x92, 0x51, 0x0C, 0x2A, 0x52, 0x84] mould1000)
/-- That image with a start beat that has passed. -/
def lateImage : State := { soundImage with cnd := { soundImage.cnd with run := 0 } }
/-- The image with MIRROR. -/
def mirrorImage : State :=
  imageState (imageCells [(0xC, 1)] 24 [] [0x1E, 0x8D, 0xAF, 0x88, 0x6D, 0x55, 0x5A, 0xD8] mould1000)
/-- The image that asks for 25 rows. -/
def largeImage : State := imageState (imageCells [] 25 [] [0x17, 0x19, 0xE7, 0x83, 0xE5, 0xC7, 0x92, 0xC0] mould1000)
/-- The image with a wrong CHECK. -/
def brokenImage : State :=
  imageState (imageCells [] 24 [(0x118, 1)] [0xA5, 0x4B, 0x49, 0x82, 0x08, 0xB1, 0x55, 0x89] mould1000)
/-- The image with a mould of no beats. -/
def beatlessImage : State :=
  imageState (imageCells [] 24 [] [0x6D, 0xB5, 0x92, 0x51, 0x0C, 0x2A, 0x52, 0x84]
    ((8, 2) :: run 0x10 [220, 154, 124, 178, 106, 195, 221, 16]))

/-- `k` of a number that is worked out first. -/
def strict {α : Type} (n : Nat) (k : Nat → α) : α :=
  match n with
  | 0 => k 0
  | m + 1 => k (m + 1)

/-- `n` bits of the CRC-64, on numbers. -/
def crcBits : Nat → Nat → Nat
  | 0, c => c
  | n + 1, c =>
    strict (if 0x8000000000000000 ≤ c then Nat.xor (2 * c % 2 ^ 64) 0x42F0E1EBA9EA3693 else 2 * c) (crcBits n)

/-- The CRC-64 of bytes, on numbers. -/
def crcOf : List Byte → Nat → Nat
  | [], c => c
  | b :: t, c => strict (crcBits 8 (Nat.xor c (b.toNat * 2 ^ 56))) (crcOf t)

theorem strict_eq {α : Type} (n : Nat) (k : Nat → α) : strict n k = k n := by cases n <;> rfl

theorem crcBits_eq (n : Nat) (c : Word) : crcBits n c.toNat = (times crc64Bit n c).toNat := by
  induction n generalizing c with
  | zero => rfl
  | succ n ih =>
    rw [crcBits, strict_eq, times, ← ih]
    congr 1
    unfold crc64Bit bitAt
    have m : c.getLsbD 63 = decide (0x8000000000000000 ≤ c.toNat) := c.msb_eq_decide
    rw [m]
    by_cases h : 0x8000000000000000 ≤ c.toNat
    · simp only [h, decide_true, if_true, BitVec.toNat_xor, BitVec.toNat_shiftLeft, Nat.shiftLeft_eq]
      rw [Nat.mul_comm 2]
      rfl
    · simp only [h, decide_false, if_false, Bool.false_eq_true, BitVec.toNat_shiftLeft, Nat.shiftLeft_eq]
      omega

theorem crcOf_eq (l : List Byte) (c : Word) : crcOf l c.toNat = (crc64 c l).toNat := by
  induction l generalizing c with
  | nil => rfl
  | cons b t ih =>
    have e : Nat.xor c.toNat (b.toNat * 2 ^ 56) = (c ^^^ (b.setWidth 64 <<< 56)).toNat := by
      have hb := b.isLt
      rw [BitVec.toNat_xor, BitVec.toNat_shiftLeft, BitVec.toNat_setWidth, Nat.shiftLeft_eq,
        Nat.mod_eq_of_lt (by omega : b.toNat < 2 ^ 64), Nat.mod_eq_of_lt (by omega)]
      rfl
    rw [crcOf, strict_eq, e, crcBits_eq, ih]
    rfl

/-- Nothing of T2 is lost or in error. -/
def clean (s : State) : Bool := s.mdv.lost.isEmpty && s.mdv.diff.isEmpty

theorem image_byte {s : State} {u : Nat} (h : clean s = true) (hu : u < t2Size) :
    s.imageByte u = smGet 0 s.mem (unstripe u) := by
  simp only [clean, Bool.and_eq_true] at h
  rw [State.imageByte, if_pos hu, State.readByte, if_pos h.2, State.byte, State.hidden, h.1, Bool.true_or, if_pos rfl]
  exact BitVec.xor_zero

/-- Nothing is listed in `n` bytes from `lo`. -/
def clearIn (m : SMap Byte) (lo n : Nat) : Bool := m.all (fun e => !(decide (lo ≤ e.1) && decide (e.1 < lo + n)))

theorem read_clear {m : SMap Byte} {lo n p : Nat} (h : clearIn m lo n = true) (hp : lo ≤ p ∧ p < lo + n) :
    smGet 0 m p = 0 := by
  induction m with
  | nil => rfl
  | cons e t ih =>
    obtain ⟨k, v⟩ := e
    simp only [clearIn, List.all_cons, Bool.and_eq_true] at h
    have hk : p ≠ k := by
      intro e
      subst e
      simp [hp] at h
    simp only [smGet, hk, if_false]
    exact ih h.2

/-- A stretch of the image inside one 4 KiB block where nothing is listed. -/
theorem image_clear {s : State} {u n i : Nat} (hl : clean s = true) (hu : u % 4096 + n ≤ 4096)
    (h : clearIn s.mem (unstripe u) n = true) (hi : i < n) : s.imageByte (u + i) = 0 := by
  have e : unstripe (u + i) = unstripe u + i := by
    have h1 : (u + i) / 4096 = u / 4096 := by omega
    have h2 : (u + i) % 4096 = u % 4096 + i := by omega
    simp only [unstripe, h1, h2, Nat.add_assoc]
  by_cases q : u + i < t2Size
  · rw [image_byte hl q, e, read_clear h ⟨by omega, by omega⟩]
  · rw [State.imageByte, if_neg q]

/-- Zeros after a beginning whose CRC is zero keep it zero. -/
theorem crc_clear {s : State} {u k : Nat} (h : crc64 0 (s.imageBytes u k) = 0) :
    ∀ n, (∀ i, i < n → s.imageByte (u + k + i) = 0) → crc64 0 (s.imageBytes u (k + n)) = 0
  | 0, _ => h
  | n + 1, hz => by
    have ih := crc_clear h n (fun i hi => hz i (by omega))
    have e : s.imageBytes u (k + (n + 1)) = s.imageBytes u (k + n) ++ [0] := by
      unfold State.imageBytes
      rw [← Nat.add_assoc, List.range_succ, List.map_append, List.map_singleton, ← Nat.add_assoc, hz n (by omega)]
    rw [e, crc64, List.foldl_append]
    rw [crc64] at ih
    rw [ih]
    decide

/-- A segment of one block whose CRC is zero after its first `k` bytes, with nothing after them. -/
theorem seg_ok {s : State} {e : SegEntry} {c k : Nat} {z : Nat × Nat} (hl : clean s = true)
    (hk : segKind e.type = some z) (hb : e.bytes = 4096) (hc : e.check = 0)
    (h0 : (e.zeros && decide (e.count ≤ z.2) && e.offset % 4096 == 0
      && e.bytes == (e.count * z.1 + 4095) / 4096 * 4096
      && decide (4096 ≤ e.offset) && decide (e.offset + e.bytes ≤ c)) = true)
    (hk4 : k ≤ 4096) (hs : crc64 0 (s.imageBytes e.offset k) = 0)
    (hz : clearIn s.mem (unstripe (e.offset + k)) (4096 - k) = true) : s.segOk 0 c e = true := by
  obtain ⟨z1, z2⟩ := z
  simp only [Bool.and_eq_true, beq_iff_eq, decide_eq_true_eq] at h0
  have r := crc_clear hs (4096 - k) (fun i hi => image_clear hl (by omega) hz hi)
  rw [show k + (4096 - k) = 4096 by omega] at r
  unfold State.segOk
  rw [hk]
  rw [hb] at h0
  simp only [Nat.zero_add, hb, hc, r, Bool.and_eq_true, Bool.or_eq_true, beq_iff_eq, decide_eq_true_eq]
  exact ⟨⟨⟨⟨⟨h0.1.1.1.1.1, h0.1.1.1.1.2⟩, h0.1.1.1.2⟩, h0.1.1.2⟩, .inr ⟨h0.1.2, h0.2⟩⟩, rfl⟩

/-- The keys rise, from `a` upward. -/
def rising : Nat → SMap Byte → Bool
  | _, [] => true
  | a, e :: t => decide (a ≤ e.1) && rising (e.1 + 1) t

/-- `n` bytes from `a` upward, of a map whose keys rise from `a`. -/
def readRun : Nat → Nat → SMap Byte → List Byte
  | 0, _, _ => []
  | n + 1, a, [] => 0 :: readRun n a []
  | n + 1, a, e :: t => if e.1 = a then e.2 :: readRun n (a + 1) t else 0 :: readRun n (a + 1) (e :: t)

theorem read_below {m : SMap Byte} {a b : Nat} (h : rising b m = true) (hb : a < b) : smGet 0 m a = 0 := by
  induction m generalizing b with
  | nil => rfl
  | cons e t ih =>
    obtain ⟨k, v⟩ := e
    simp only [rising, Bool.and_eq_true, decide_eq_true_eq] at h
    rw [smGet, if_neg (by omega)]
    exact ih h.2 (by omega)

theorem readRun_eq {n a : Nat} {m : SMap Byte} (h : rising a m = true) :
    readRun n a m = (List.range n).map (fun i => smGet 0 m (a + i)) := by
  induction n generalizing a m with
  | zero => rfl
  | succ n ih =>
    rw [List.range_succ_eq_map, List.map_cons, List.map_map]
    cases m with
    | nil =>
      rw [readRun, ih (a := a) (m := []) rfl]
      rfl
    | cons e t =>
      obtain ⟨k, v⟩ := e
      simp only [rising, Bool.and_eq_true, decide_eq_true_eq] at h
      by_cases e : k = a
      · subst e
        rw [readRun, if_pos rfl, ih h.2]
        refine List.cons_eq_cons.mpr ⟨by simp [smGet], List.map_congr_left fun i _ => ?_⟩
        show smGet 0 t (k + 1 + i) = smGet 0 ((k, v) :: t) (k + (i + 1))
        rw [smGet, if_neg (by omega), (by omega : k + (i + 1) = k + 1 + i)]
      · have r : rising (a + 1) ((k, v) :: t) = true := by
          simp only [rising, Bool.and_eq_true, decide_eq_true_eq]
          exact ⟨by omega, h.2⟩
        rw [readRun, if_neg e, ih r]
        refine List.cons_eq_cons.mpr ⟨(read_below r (by omega)).symm, List.map_congr_left fun i _ => ?_⟩
        show smGet 0 ((k, v) :: t) (a + 1 + i) = smGet 0 ((k, v) :: t) (a + (i + 1))
        rw [(by omega : a + (i + 1) = a + 1 + i)]

/-- Check 3 of those images: the reserved bytes from 0x300 are not listed. -/
theorem check3_of {s : State} {H : List Byte} (hl : clean s = true)
    (hz : clearIn s.mem (unstripe 0x300) 3328 = true) (hr : rising (unstripe 0) s.mem = true)
    (hH : readRun 0x300 (unstripe 0) s.mem = H)
    (h : (let f (u n : Nat) := (H.drop u).take n
      leNat (f 10 2) == 3 && leNat (f 0 8) == 0x31305453_41434E59 && leNat (f 8 2) == 1
        && decide (leNat (f 12 4) < 8) && leNat (f 0x18 4) == 1000 && (f 0xC8 56).all (· == 0)
        && (f 0x160 416).all (· == 0)
        && crcOf (f 0 0xC0 ++ List.replicate 8 0 ++ f 0xC8 0x238) 0 == leNat (f 0xC0 8)
        && baseOk 0 (leNat (f 0x10 8))) = true) :
    s.check3 0 = true := by
  have z : s.imageZero 0x300 3328 = true := by
    unfold State.imageZero
    rw [List.all_eq_true]
    intro i hi
    rw [image_clear hl (by decide) hz (List.mem_range.mp hi)]
    rfl
  have b (u n : Nat) (hu : u + n ≤ 0x300) : s.imageBytes u n = (H.drop u).take n := by
    rw [← hH, readRun_eq hr]
    refine List.ext_getElem (by simp [State.imageBytes]; omega) fun i h1 _ => ?_
    have hi : i < n := by simpa [State.imageBytes] using h1
    have e : unstripe (u + i) = unstripe 0 + (u + i) := by
      have h1 : (u + i) / 4096 = 0 := by omega
      have h2 : (u + i) % 4096 = u + i := by omega
      simp only [unstripe, h1, h2]
    simp only [State.imageBytes, List.getElem_map, List.getElem_range, List.getElem_take, List.getElem_drop]
    rw [image_byte hl (by unfold t2Size; omega), e]
  have e : crcOf (s.headerBytes 0) 0 = (crc64 0 (s.headerBytes 0)).toNat := crcOf_eq _ 0
  have o (u n : Nat) (hu : u + n ≤ 0x300) (a : ((H.drop u).take n).all (· == 0) = true) : s.imageZero u n = true := by
    rw [← b u n hu, State.imageBytes, List.all_map] at a
    exact a
  simp only [Bool.and_eq_true, beq_iff_eq, decide_eq_true_eq] at h
  obtain ⟨⟨⟨⟨⟨⟨⟨⟨n, h1⟩, h2⟩, h3⟩, h4⟩, h5⟩, h6⟩, h7⟩, h8⟩ := h
  rw [← b _ _ (by decide)] at n h1 h2 h3 h4 h8
  rw [← b _ _ (by decide), ← b _ _ (by decide), ← b _ _ (by decide)] at h7
  have n : s.imageNum 10 2 = 3 := n
  have h7 : crcOf (s.headerBytes 0) 0 = s.imageNum 0xC0 8 := h7
  unfold State.check3
  simp only [Nat.zero_add, z, n, Bool.and_eq_true, beq_iff_eq, decide_eq_true_eq]
  exact ⟨⟨⟨⟨⟨⟨⟨⟨⟨⟨h1, h2⟩, by decide⟩, by decide⟩, h3⟩, h4⟩, o _ _ (by decide) h5⟩, o _ _ (by decide) h6⟩, trivial⟩,
    e.symm.trans h7⟩, h8⟩

/-- Check 5 of those images. -/
theorem check5_of {s : State} (hl : clean s = true)
    (h : (decide (s.segs 0 = [⟨1, 1, 0x1000, 0x1000, 0, true⟩, ⟨6, 1, 0x2000, 0x1000, 0, true⟩,
        ⟨9, 1, 0x3000, 0x1000, 0, true⟩])
      && s.imageNum 0x10 8 == 0x10000 && crc64 0 (s.imageBytes 0x1000 16) == 0
      && crc64 0 (s.imageBytes 0x2000 16) == 0 && crc64 0 (s.imageBytes 0x3000 24) == 0
      && clearIn s.mem (unstripe 0x1010) 4080 && clearIn s.mem (unstripe 0x2010) 4080
      && clearIn s.mem (unstripe 0x3018) 4072) = true) : s.check5 0 = true := by
  simp only [Bool.and_eq_true, beq_iff_eq, decide_eq_true_eq] at h
  obtain ⟨⟨⟨⟨⟨⟨⟨hg, hc⟩, h1⟩, h2⟩, h3⟩, z1⟩, z2⟩, z3⟩ := h
  unfold State.check5
  simp only [Nat.zero_add, hg, hc, List.all_cons, List.all_nil, Bool.and_true, Bool.and_eq_true]
  exact ⟨⟨⟨seg_ok hl rfl rfl rfl rfl (by decide) h1 z1, seg_ok hl rfl rfl rfl rfl (by decide) h2 z2,
    seg_ok hl rfl rfl rfl rfl (by decide) h3 z3⟩, by decide⟩, by decide⟩

/-- A wrong CHECK fails check 5. -/
theorem check5_wrong {s : State} {e : SegEntry} {t : List SegEntry} {k : Nat} (hl : clean s = true)
    (hg : s.segs 0 = e :: t) (hb : e.bytes = 4096) (hc : e.check ≠ 0) (hk : k ≤ 4096)
    (ho : (e.offset + k) % 4096 + (4096 - k) ≤ 4096)
    (hs : crc64 0 (s.imageBytes e.offset k) = 0)
    (hz : clearIn s.mem (unstripe (e.offset + k)) (4096 - k) = true) : s.check5 0 = false := by
  have r := crc_clear hs (4096 - k) (fun i hi => image_clear hl ho hz hi)
  rw [show k + (4096 - k) = 4096 by omega] at r
  have b : s.segOk 0 (s.imageNum 0x10 8) e = false := by
    unfold State.segOk
    split
    · rfl
    · rw [Nat.zero_add, hb, r]
      have : ((0 : Word).toNat == e.check) = false := by
        rw [beq_eq_false_iff_ne]
        exact fun h => hc h.symm
      rw [this, Bool.and_false]
  unfold State.check5
  simp only [Nat.zero_add, hg, List.all_cons, b, Bool.false_and]

theorem sound_check3 : soundImage.check3 0 = true ∧ mirrorImage.check3 0 = true ∧ lateImage.check3 0 = true :=
  ⟨check3_of rfl (by decide +kernel) (by decide +kernel) rfl (by decide +kernel),
    check3_of rfl (by decide +kernel) (by decide +kernel) rfl (by decide +kernel),
    check3_of rfl (by decide +kernel) (by decide +kernel) rfl (by decide +kernel)⟩

theorem faulty_check3 : largeImage.check3 0 = true ∧ brokenImage.check3 0 = true ∧ beatlessImage.check3 0 = true :=
  ⟨check3_of rfl (by decide +kernel) (by decide +kernel) rfl (by decide +kernel),
    check3_of rfl (by decide +kernel) (by decide +kernel) rfl (by decide +kernel),
    check3_of rfl (by decide +kernel) (by decide +kernel) rfl (by decide +kernel)⟩

theorem sound_check5 : soundImage.check5 0 = true ∧ mirrorImage.check5 0 = true ∧ beatlessImage.check5 0 = true
    ∧ lateImage.check5 0 = true :=
  ⟨check5_of rfl (by decide +kernel), check5_of rfl (by decide +kernel), check5_of rfl (by decide +kernel), check5_of rfl (by decide +kernel)⟩

/-- The admission checks, each failing at an image that passes those before it; the twin and the start beat; and an image
that passes all. -/
theorem witness_CastAdmissionAndStart_checks :
    [soundImage, lateImage, mirrorImage, largeImage, brokenImage, beatlessImage].all (fun s =>
      s.cnd.adm == .admitting && s.sys.ps == 0 && s.sys.entering.isNone && s.running .mdv && s.cnd.castBase == 0
        && s.mdv.diff == [] && s.mdv.unsealed == [] && s.mdv.lost == [] && !s.rst.arrayBusy) = true
    ∧ (largeImage.check3 0 = true ∧ largeImage.check4 0 = false)
    ∧ (brokenImage.check3 0 = true ∧ brokenImage.check4 0 = true ∧ brokenImage.check5 0 = false)
    ∧ (beatlessImage.check3 0 = true ∧ beatlessImage.check4 0 = true ∧ beatlessImage.check5 0 = true
      ∧ beatlessImage.check6 (beatlessImage.imageAt 0) = false)
    ∧ (mirrorImage.check3 0 = true ∧ mirrorImage.check4 0 = true ∧ mirrorImage.check5 0 = true
      ∧ mirrorImage.check6 (mirrorImage.imageAt 0) = true ∧ bitAt (mirrorImage.imageAt 0).flags 0 = true
      ∧ mirrorImage.twn.pair ≠ .soldered ∧ mirrorImage.alone = false)
    ∧ (lateImage.check3 0 = true ∧ lateImage.check4 0 = true ∧ lateImage.check5 0 = true
      ∧ lateImage.check6 (lateImage.imageAt 0) = true ∧ lateImage.check7 (lateImage.imageAt 0) = true
      ∧ lateImage.cnd.run.toNat ≤ lateImage.bea.count.toNat)
    ∧ (soundImage.check3 0 = true ∧ soundImage.check4 0 = true ∧ soundImage.check5 0 = true
      ∧ soundImage.check6 (soundImage.imageAt 0) = true ∧ soundImage.check7 (soundImage.imageAt 0) = true
      ∧ soundImage.bea.count.toNat < soundImage.cnd.run.toNat) := by
  refine ⟨by decide +kernel, ⟨faulty_check3.1, ?_⟩, ⟨faulty_check3.2.1, ?_, ?_⟩, ⟨faulty_check3.2.2, ?_,
    sound_check5.2.2.1, ?_⟩, ⟨sound_check3.2.1, ?_, sound_check5.2.1, ?_, ?_, ?_, ?_⟩,
    ⟨sound_check3.2.2, ?_, sound_check5.2.2.2, ?_, ?_, ?_⟩, sound_check3.1, ?_, sound_check5.1,
    ?_, ?_, ?_⟩
  case refine_3 =>
    exact check5_wrong (k := 16) (e := ⟨1, 1, 0x1000, 0x1000, 1, true⟩)
      (t := [⟨6, 1, 0x2000, 0x1000, 0, true⟩, ⟨9, 1, 0x3000, 0x1000, 0, true⟩]) rfl (by decide +kernel) rfl (by decide)
      (by decide) (by decide) (by decide +kernel) (by decide +kernel)
  all_goals decide +kernel

/-! ### Function registers -/

/-- `live` with the function register of a block changed. -/
def withFn (b : FnBlock) (r : FnReg) : State := live.putFn b r

theorem witness_EpochWrites :
    [FnBlock.cnd, .ary, .tmv, .mdv, .lnk, .fol, .twn, .pwr].all (fun b =>
      let s := withFn b ⟨.stopped, 0xFFFF, 0xFFFF, false⟩
      decide ((s.fn.get b).state = .stopped) && decide ((0 : BitVec 16) ≠ (s.fn.get b).epoch)
        && decide ((0 : BitVec 16) = (s.fn.get b).applied + 1) && !s.epochBarred b && !s.gated (fnOff b)) = true
    ∧ (let s : State := { withFn .twn ⟨.stopped, 4, 4, false⟩ with twn := { Twn.atReset with set := ⟨3, 2, some 1⟩ } }
      (3 : BitVec 16) = (s.fn.get .twn).applied - 1 ∧ s.hasBefore .twn = true ∧ (s.fn.get .twn).mixed = false)
    ∧ (let s := withCnd (withFn .cnd ⟨.stopped, 3, 3, false⟩) (fun c => { c with prior := true })
      (2 : BitVec 16) = (s.fn.get .cnd).applied - 1 ∧ s.hasBefore .cnd = true)
    ∧ (let s := withFn .lnk ⟨.stopped, 5, 4, true⟩
      (4 : BitVec 16) ≠ (s.fn.get .lnk).epoch ∧ (4 : BitVec 16) = (s.fn.get .lnk).applied ∧ (s.fn.get .lnk).mixed = true)
    ∧ (let s := withFn .lnk ⟨.run, 5, 5, false⟩
      (6 : BitVec 16) ≠ (s.fn.get .lnk).epoch ∧ (s.fn.get .lnk).state ≠ .stopped)
    ∧ (7 : BitVec 16) ≠ 5 + 1 := by and_intros <;> decide +kernel

theorem witness_EpochWrites_host (b : FnBlock) (r : FnReg) : (withFn b r).hostMay 2 (fnOff b) :=
  ⟨rfl, rfl, (by decide : 2 ≤ 3), rfl, nofun⟩

theorem witness_GoAndStop :
    (withFn .ary ⟨.stopped, 1, 1, false⟩).fn.ary.mayGo = true ∧ (withFn .ary ⟨.stopped, 2, 1, true⟩).fn.ary.mayGo = false
    ∧ [FnBlock.ary, .tmv, .lnk, .fol, .twn, .pwr].all (fun b => (withFn b ⟨.run, 1, 1, false⟩).running b) = true
    ∧ live.sheet.switch = none ∧ live.running .ary = false ∧ live.running .mdv = true ∧ live.noCast = true ∧ live.loadMap = true
    ∧ admitting.noCast = false ∧ (running 0).cnd.adm = .running ∧ (running 0).running .cnd = true
    ∧ (let s := withCnd ({ running 0 with fn := { (running 0).fn with cnd := ⟨.stopped, 1, 1, false⟩ } })
          (fun c => { c with why := 2 })
      s.cnd.adm = .running ∧ s.cnd.why = 2 ∧ s.fn.cnd.mayGo = true)
    ∧ live.cnd.why ≠ 2 := by and_intros <;> decide +kernel

theorem witness_GoAndStop_host (b : FnBlock) : live.hostMay 1 (fnOff b) ∧ live.hostMay 2 0x030078
    ∧ (running 0).hostMay 1 0x0300F8 := ⟨live_may _ _ (by decide), live_may _ _ (by decide), rfl, rfl, by decide, rfl, nofun⟩

/-! ## Array words -/

/-- The entry of a word that was enqueued fifth. -/
def ent (opc : BitVec 8) (a : ArrayArgs) : QEnt := ⟨arrayWord opc a, 0, 5, none, []⟩

/-- `s` with a word at the heads of its sections' queues. -/
def queued (s : State) (opc : BitVec 8) (a : ArrayArgs) : State :=
  let q (i : Nat) : List QEnt := if bitAt (secsOf a.sec) i then [ent opc a] else []
  { s with sheet := { s.sheet with qF := q 0, qB := q 1, qH := q 2 } }

/-- The word stands at the heads of its sections' queues and may issue; there is no line of T3 to wait for, and no page in
move. -/
def due (s : State) (opc : BitVec 8) (a : ArrayArgs) : Bool :=
  decide (s.issuing opc a = some (ent opc a)) && s.lnk.aps.isEmpty && s.tmv.moving.isEmpty

/-- Such a word goes, whatever its effect. -/
theorem due_goes {s : State} {opc : BitVec 8} {a : ArrayArgs} (h : due s opc a = true)
    (effect : QEnt → State → State) : s.goes opc a effect (ent opc a) := by
  unfold due at h
  simp only [Bool.and_eq_true, decide_eq_true_eq] at h
  refine ⟨h.1.1, ?_⟩
  rw [State.tried, if_pos (Bool.and_eq_true_iff.mpr ⟨h.1.2, h.2⟩)]
  rfl

/-- A descriptor of one tile at `u`: format, layout, AMODE, and how many cores take part. -/
def mkDesc (u tf layout amode tq : Nat) : Wide :=
  BitVec.ofNat 256 (u + 2 ^ 48 * tf + 2 ^ 52 + 2 ^ 61 * layout + 2 ^ 64 + 2 ^ 80 + 2 ^ 96 + 2 ^ 112 * tq
    + 2 ^ 218 * amode)

/-- Tiles in the U-page 2, which lives in T1: FP8 operands, a BF16 result, an A128 result, a vector of FP32 factors, and
a result with no core. -/
def descs : List Wide :=
  [mkDesc 0x20000 3 0 0 1, mkDesc 0x20400 3 0 0 1, mkDesc 0x20800 1 0 3 1, mkDesc 0x21000 10 0 3 1,
   mkDesc 0x26000 0 3 0 1, mkDesc 0x20800 1 0 3 0, mkDesc 0x21000 10 0 3 0, mkDesc 0x27000 1 0 3 1]

/-- The cells of a descriptor table. -/
def tableCells (l : List Wide) : List Host.Cell :=
  ((l.flatMap (fun d => leBytes 32 d.toNat)).zipIdx.map (fun p => (descBase + p.2, p.1))).filter (fun e => e.2 != 0)

/-- `running` with these descriptors in the table and no aperture open. -/
def tiled : State :=
  { running 0 with
    cast := some { img with desc := descs }, mem := tableCells descs ++ imgMem 0, lnk := live.lnk }

/-- The fields of a matrix word on those descriptors, with the result `z`, and a scale of 1 for ASCORE. -/
def matArgs (op : MatOp) (flg : BitVec 8) (z : Nat) : ArrayArgs :=
  ⟨0, 0, flg, if op.kind.useX then (if op.kind.factors then 4 else 0) else 0, if op.kind.prod then 1 else 0,
    BitVec.ofNat 32 z ||| if op.kind = .ascore then 0x3F800000 else 0⟩

/-- The result descriptor that a matrix opcode can have: with one core, or with none. -/
def matZ (op : MatOp) (cores : Bool) : Nat :=
  match op.kind with
  | .tacc | .gload => if cores then 3 else 6
  | _ => if cores then 2 else 5

/-- The word is refused. -/
def matRefused (sec : BitVec 2) (p : (ArrayArgs → Instr) × BitVec 8 × MatOp) : Bool :=
  let a : ArrayArgs := { matArgs p.2.2 0 2 with sec := sec, b := 0x10001 }
  let s := queued tiled p.2.1 a
  due s p.2.1 a && (matChecks p.2.2 a (s.taken (secsOf sec) (ent p.2.1 a))).isSome

/-- The word passes its checks, over cores or over a zero extent. -/
def matPasses (cores : Bool) (p : (ArrayArgs → Instr) × BitVec 8 × MatOp) : Bool :=
  let a := matArgs p.2.2 0 (matZ p.2.2 cores)
  let s := queued tiled p.2.1 a
  let s1 := s.taken 3 (ent p.2.1 a)
  due s p.2.1 a && decide (matChecks p.2.2 a s1 = none) && (matJob p.2.2 a s1).zeroWork != cores

theorem witness_MatrixWordsIssue :
    matrixWords.all (matRefused 0) = true ∧ matrixWords.all (matRefused 1) = true ∧ matrixWords.all (matRefused 2) = true
    ∧ matrixWords.all (matPasses true) = true ∧ matrixWords.all (matPasses false) = true := by
  and_intros <;> decide +kernel

/-- A matrix word on one core, as the statement meets it. -/
def matCase (opc : BitVec 8) (op : MatOp) (z : Nat) (flg : BitVec 8) : State × MatJob × CoreAt :=
  let a := matArgs op flg z
  let s1 := (queued tiled opc a).taken 3 (ent opc a)
  let j := matJob op a s1
  (s1, j, s1.coreAt j.sect 0)

/-- The hypotheses that the clauses of `MatrixTileResults` share, with those of its operands and its Z slot. -/
def matMeets (opc : BitVec 8) (op : MatOp) (z : Nat) : Bool :=
  let a := matArgs op 0 z
  let (s1, j, c) := matCase opc op z 0
  due (queued tiled opc a) opc a && decide (matChecks op a s1 = none)
    && decide (j.m = 1 ∧ j.n = 1 ∧ j.p = 1 ∧ j.z.tq = 1) && !j.clr
    && (!op.kind.prod || (decide (j.k = 1) && j.z.amode != 2 && !s1.needFails (rNeed j.x (j.x.slotAt c 0 0 0))
      && !s1.needFails (rNeed j.y (j.y.slotAt c 0 0 0))))
    && (!op.kind.factors || !s1.needFails (rNeed j.x (j.x.vecSlot c 0)))
    && !s1.needFails (rNeed j.z (j.z.slotAt c 0 0 0))

theorem witness_MatrixTileResults : matrixWords.all (fun p => matMeets p.2.1 p.2.2 (matZ p.2.2 true)) = true := by
  decide +kernel

/-- What makes the Z slot of a word that writes its tile out open, and 1,024 BF16 elements long. -/
def zOpen (s1 : State) (d : Desc) (z : Int) : Bool :=
  let u := z.toNat
  decide (s1.paddr (0x10000 * (u / 0x10000)) = some 0x40000000) && decide (u % 0x10000 + 2048 ≤ 0x10000)
    && !s1.readOnlyPage (u / 0x10000) && decide (d.fm = .bf16) && !d.mx && decide (d.foil = 0)
    && !d.slagm && decide (d.size = 2048)
    && decide (s1.needFails ⟨z, d.size, true, d.index, false⟩ = false)

/-- Such a slot is open, and what is packed into it fits. -/
theorem zOpen_meets {s1 : State} {d : Desc} {z : Int} (h : zOpen s1 d z = true) :
    ∃ ps, s1.slotOpen z.toNat d.size ps ∧ ps.length = 2048 ∧ (∀ q ∈ ps, isT2 q = false)
      ∧ (∀ d0 d1 l, l.length = 1024 → (packSlot d.fm d.mx 0 d0 d1 l).1.length = ps.length) := by
  unfold zOpen at h
  simp only [Bool.and_eq_true, decide_eq_true_eq, Bool.not_eq_true'] at h
  obtain ⟨⟨⟨⟨⟨⟨⟨⟨place, inside⟩, ro⟩, fm⟩, mx⟩, -⟩, -⟩, sz⟩, -⟩ := h
  refine ⟨runAt (0x40000000 + z.toNat % 0x10000) 2048, ?_, runAt_length .., fun q m => ?_, ?_⟩
  · rw [sz]; exact slotOpen_t1 place (by decide) inside (by decide) (by decide) ro
  · have := mem_runAt m
    exact low_not_t2 (by unfold t2Base; omega)
  · intro d0 d1 l hl
    rw [mx, packSlot_length hl, fm, runAt_length]; rfl

theorem witness_MatrixTileResults_store :
    [((0x0E : BitVec 8), (⟨.gstore, false, false⟩ : MatOp)), (0x21, ⟨.arows, false, false⟩),
      (0x20, ⟨.ascore, false, true⟩)].all (fun p =>
      let (s1, j, c) := matCase p.1 p.2 2 0
      zOpen s1 j.z (j.z.slotAt c 0 0 0)) = true := by decide +kernel

theorem witness_MatrixTileResults_values (s : State) (c t : Nat) : (s.acc c t).values.length = 1024 := by
  rw [values_length, acc_length]

/-- A geometry of one tile: 32 positions in a row, a kernel of one tap, `groups` groups. -/
def mkGeo (groups : Nat) : Wide :=
  BitVec.ofNat 256 (32 + 2 ^ 16 + 2 ^ 32 + 2 ^ 64 * groups + 2 ^ 80 + 2 ^ 84 + 2 ^ 88 + 2 ^ 92 + 2 ^ 96 + 2 ^ 100
    + 2 ^ 104 + 2 ^ 108 + 2 ^ 112 + 2 ^ 116 + 2 ^ 120 + 2 ^ 124 + 2 ^ 132 + 2 ^ 138)

/-- For the convolution words: input, kernel, result, one group, 32 groups, weights of VDW, a result with a fixed anchor,
the two results with no core. For the vector words: a stream, a stream with no core, an element output, a result
vector. -/
def convDescs : List Wide :=
  [mkDesc 0x20000 3 2 0 1, mkDesc 0x20400 3 2 0 1, mkDesc 0x20800 1 2 3 1, mkGeo 1, mkGeo 32, mkDesc 0x21000 3 3 0 1,
   mkDesc 0x21800 1 2 1 1, mkDesc 0x20800 1 2 3 0, mkDesc 0x21800 1 2 1 0, mkDesc 0x22000 3 0 0 1,
   mkDesc 0x22000 3 0 0 0, mkDesc 0x22400 1 0 0 1, mkDesc 0x23000 1 3 1 1]

/-- `running` with these descriptors, no aperture open, and two element programs: load and store, load and reduce to one sum. -/
def unitState : State :=
  { running 0 with
    cast := some { img with desc := convDescs }
    vec := { (running 0).vec with
      prog := [(0, 0x01100000), (1, 0x02010000), (2, 0xFF000000), (3, 0x01100000), (4, 0x58210000), (5, 0xFF000000)]
      loaded := 6 }
    mem := tableCells convDescs ++ imgMem 0
    lnk := live.lnk }

/-- The fields of a word of the convolution and vector classes on those descriptors. -/
def unitArgs (opc : BitVec 8) (cores : Bool) (flg : BitVec 8) : ArrayArgs :=
  if opc = 0x62 then ⟨0, 0, flg, 0xFFFF0000, 0x00040005, if cores then 6 else 8⟩
  else if opc = 0x48 ∨ opc = 0x49 then ⟨0, 0, flg, 0, 0xFFFFFFFF, if cores then 0x00030006 else 0x00030008⟩
  else if opc = 0x60 then ⟨0, 0, flg, if cores then 0xFFFF0009 else 0xFFFF000A, 0xFFFF000B, 0x0000FFFF⟩
  else if opc = 0x61 then ⟨0, 0, flg, if cores then 0xFFFF0009 else 0xFFFF000A, 0xFFFFFFFF, 0x0003000C⟩
  else ⟨0, 0, flg, 0, 0xFFFF0001, if cores then 0x00030002 else 0x00030007⟩

/-- The word is refused. -/
def unitRefused (p : UnitWord) : Bool :=
  let a : ArrayArgs := { unitArgs p.opc true 0 with sec := 3 }
  let s := queued unitState p.opc a
  due s p.opc a && (p.checks a (s.taken 4 (ent p.opc a))).isSome

/-- The word passes its checks, over cores or over a zero extent. -/
def unitPasses (cores : Bool) (p : UnitWord) : Bool :=
  let a := unitArgs p.opc cores 0
  let s := queued unitState p.opc a
  let s1 := s.taken 3 (ent p.opc a)
  due s p.opc a && decide (p.checks a s1 = none) && p.zero a s1 != cores

theorem witness_ConvolutionAndVectorWordsIssue :
    (unitWords.take 4).all unitRefused = true ∧ (unitWords.drop 4).all unitRefused = true
    ∧ (unitWords.take 4).all (unitPasses true) = true ∧ (unitWords.drop 4).all (unitPasses true) = true
    ∧ (unitWords.take 4).all (unitPasses false) = true ∧ (unitWords.drop 4).all (unitPasses false) = true := by
  and_intros <;> decide +kernel

/-- The words that `ConvolutionResults` names first, and those it names second. -/
def convWords : List (BitVec 8 × Bool × Bool) :=
  [(0x40, false, false), (0x41, false, true), (0x42, true, false), (0x43, true, true)]
def laneWords : List (BitVec 8 × (ArrayArgs → LaneConv) × (ArrayArgs → State → LaneJob)) :=
  [(0x62, fun _ => .vdw, vdwJob), (0x48, poolKind, fun a => planeJob (poolKind a) a),
   (0x49, resampleKind, fun a => planeJob (resampleKind a) a)]

/-- A convolution word as the statement meets it. -/
def convCase (p : BitVec 8 × Bool × Bool) (flg : BitVec 8) : State × ConvJob :=
  let a := unitArgs p.1 true flg
  let s1 := (queued unitState p.1 a).taken 3 (ent p.1 a)
  (s1, convJob p.2.1 p.2.2 a s1)

/-- One result tile of the word, whose operands and result can be reached. -/
def convReaches (flg : BitVec 8) (p : BitVec 8 × Bool × Bool) : Bool :=
  let a := unitArgs p.1 true flg
  let (s1, j) := convCase p flg
  let c := s1.coreAt j.sect 0
  let r : ResTile := ⟨j.gb, 0, 0, 0⟩
  due (queued unitState p.1 a) p.1 a && decide (convChecks p.2.1 p.2.2 a s1 = none)
    && !j.zeroWork && (j.wout == decide (flg ≠ 0)) && decide (j.cores s1 = [c])
    && decide (j.g.m = 1 ∧ j.g.n = 1 ∧ j.p = 1 ∧ j.kTiles = 1 ∧ j.z.amode ≠ 2) && j.active r c && j.bias.isNone
    && (j.kNeeds r 0 c).all (fun q => !s1.needFails q) && !j.clr && !j.byElement
    && zOpen s1 j.z (j.z.slotAt c (j.g.firstTile c) (j.g.firstChan c) 0)

/-- The same for a word of the lanes. -/
def laneReaches (p : BitVec 8 × (ArrayArgs → LaneConv) × (ArrayArgs → State → LaneJob)) : Bool :=
  let a := unitArgs p.1 true 0
  let s1 := (queued unitState p.1 a).taken 3 (ent p.1 a)
  let j := p.2.2 a s1
  let c := s1.coreAt j.sect 0
  let r : ResTile := ⟨0, 0, 0, 0⟩
  due (queued unitState p.1 a) p.1 a && decide (laneChecks (p.2.1 a) j a s1 = none)
    && !j.zeroWork && decide ((s1.coresOf j.sect j.z.tq).filter (fun c => !j.g.outsideFrame j.outExt c) = [c])
    && decide (j.g.m = 1 ∧ j.g.n = 1 ∧ j.x.tp = 1) && j.active r c && j.bias.isNone
    && ((j.xSlots r c).map (rNeed j.x) ++ (j.wSlots r c).map (rNeed j.w)).all (fun q => !s1.needFails q)
    && !j.byElement && zOpen s1 j.z (j.z.slotAt c (j.g.firstTile c) (j.g.firstChan c) 0)

theorem witness_ConvolutionResults :
    (convWords.take 2).all (convReaches 0) = true ∧ (convWords.drop 2).all (convReaches 0) = true
    ∧ (convWords.take 2).all (convReaches 0x10) = true ∧ (convWords.drop 2).all (convReaches 0x10) = true
    ∧ (laneWords.take 1).all laneReaches = true ∧ (laneWords.drop 1).all laneReaches = true := by
  and_intros <;> decide +kernel

/-- The products of a K-tile are those of 1,024 elements. -/
theorem products_length (j : ConvJob) (r : ResTile) (k : Nat) (c : CoreAt) (s : State) :
    (j.products r k c s).1.length = 1024 := by
  unfold ConvJob.products
  dsimp only
  split <;> simp

/-- After the product of a tile the slot is still open, and what is packed into it fits. -/
theorem witness_ConvolutionResults_store {s1 : State} {j : ConvJob} {r : ResTile} {c : CoreAt} {z : Int} {ae : Int}
    (place : gBase c.c j.gb + 16384 ≤ t1Base) (h : zOpen s1 j.z z = true) :
    let base := if j.add then s1 else s1.putAcc c.c j.gb (Acc.cleared j.f32 ae)
    let g := base.putAcc c.c j.gb
      ({ base.acc c.c j.gb with f32 := j.f32 }.addProducts 32 (j.products r 0 c base).1)
    g.needFails ⟨z, j.z.size, true, j.z.index, false⟩ = false ∧ ∃ ps, g.slotOpen z.toNat j.z.size ps
      ∧ ∀ d0 d1, (packSlot j.z.fm j.z.mx 0 d0 d1 (j.trimmed r c (g.acc c.c j.gb).values)).1.length = ps.length := by
  intro base g
  have b : SameMap s1 base := by
    show SameMap s1 (if j.add then _ else _)
    split
    · exact sameMap_refl s1
    · exact sameMap_putAcc (sameMap_refl s1) List.length_replicate place
  have t : SameMap s1 g := sameMap_putAcc b (addProducts_length _ _ _ (acc_length ..) (products_length ..)) place
  obtain ⟨ps, o, -, low, f⟩ := zOpen_meets h
  refine ⟨?_, ps, slotOpen_same t o low, fun d0 d1 => f d0 d1 _ ?_⟩
  · rw [needFails_same t]
    unfold zOpen at h
    simp only [Bool.and_eq_true, decide_eq_true_eq] at h
    exact h.2
  · unfold ConvJob.trimmed
    rw [List.length_map, List.length_zipIdx, values_length, acc_length]

theorem witness_VectorResults :
    [true, false].all (fun ered =>
      let opc : BitVec 8 := if ered then 0x61 else 0x60
      let a := unitArgs opc true 0
      let s1 := (queued unitState opc a).taken 3 (ent opc a)
      let j := vecOf ered a s1
      let c := s1.coreAt j.sect 0
      let d := s1.desc (if ered then 12 else 11)
      due (queued unitState opc a) opc a && decide (vecChecks ered a s1 = none)
        && decide (j.tr = 1 ∧ j.tc = 1 ∧ j.p = 1) && decide (s1.coresOf j.sect j.limit = [c])
        && decide (j.loads = [(0, 0)]) && decide (j.stream 0 = some (s1.desc 9))
        && !s1.needFails (rNeed (s1.desc 9) (j.loadSlot 0 (s1.desc 9) ⟨0, 0, 0, 0⟩ c))
        && zOpen s1 d (d.slotAt c 0 0 0)
        && (if ered then
              decide (j.output 1 = some d ∧ j.stores = [] ∧ j.reds = [⟨0, 2⟩] ∧ j.indexed = false ∧ j.acc = false)
                && decide (slotGroups (j.groups 2) 0 = [0])
            else decide (j.output 0 = some d ∧ j.stores = [0]))) = true := by decide +kernel

/-- What an element output and a result vector are packed into fits. -/
theorem witness_VectorResults_fits {s1 : State} {d : Desc} {z : Int} (h : zOpen s1 d z = true) :
    ∃ ps, s1.slotOpen z.toNat d.size ps
      ∧ (∀ draw old (f : Nat → Option Machine.Num), (mergeElems d draw old ((List.range 1024).map f)).1.length = ps.length)
      ∧ (∀ red step ae (g : Grp), (resultBytes s1 d step z.toNat red false false ae [g]).1.length = ps.length) := by
  obtain ⟨ps, o, len, -, -⟩ := zOpen_meets h
  unfold zOpen at h
  simp only [Bool.and_eq_true, decide_eq_true_eq, Bool.not_eq_true'] at h
  obtain ⟨⟨⟨⟨⟨⟨-, fm⟩, mx⟩, foil⟩, -⟩, -⟩, -⟩ := h
  have w : dataBytes d.fm.width = ps.length := by rw [fm, len]; rfl
  refine ⟨ps, o, fun draw old f => ?_, fun red step ae g => ?_⟩
  · rw [mergeElems_length (by simp), w]
  · unfold resultBytes
    simp only [Bool.false_eq_true, if_false, fm, mx, foil, reduceCtorEq, bne_self_eq_false, Bool.or_self]
    rw [mergeElems_length (by rw [List.length_append, List.length_replicate]; rfl), w]

/-- A state with the Sheet changed. -/
def withSheet (s : State) (f : Sheet → Sheet) : State := { s with sheet := f s.sheet }

/-- A word of section `sec` without fields. -/
def plainArgs (sec : BitVec 2) : ArrayArgs := ⟨sec, 0, 0, 0, 0, 0⟩

/-- The Sheet split into sections. -/
def splitSheet (h : Sheet) : Sheet := { h with set := Epoched.at { h.set.current with part := 2 } }

/-- A partition switch nine beats after its table began. -/
def switching (applied : Bool) : State :=
  { withSheet (running 0) (fun h => { h with switch := some ⟨5, 2, false, some 1, false, false, 3⟩ }) with
    bea := { Bea.atReset with count := 10 }
    fn := { (running 0).fn with ary := ⟨.stopping, if applied then 4 else 5, 3, true⟩ } }

theorem witness_BeatWords :
    [(0 : BitVec 2), 1, 2, 3].all (fun sec =>
        decide ((queued (running 0) 0xFF (plainArgs sec)).issuing 0xFF (plainArgs sec) = some (ent 0xFF (plainArgs sec))))
      = true
    ∧ live.mustWait 0xFF (plainArgs 0)
    ∧ [(0 : Word), 4].all (fun n =>
        let a : ArrayArgs := { plainArgs 3 with b := 4 }
        let s : State := { queued (running 0) 0xC0 a with bea := { Bea.atReset with count := 4 + n } }
        decide (s.issuing 0xC0 a = some (ent 0xC0 a)) && decide ((s.cnd.run + (a.a ++ a.b)).toNat ≤ s.bea.count.toNat))
      = true
    ∧ (3 : Nat) < ((running 0).cnd.run + ((0 : BitVec 32) ++ (4 : BitVec 32))).toNat
    ∧ (let a : ArrayArgs := { plainArgs 0 with c := 3 }
      let s := queued (running 0) 0xC1 a
      s.sheet.set.current.part = 1 ∧ s.headOf 3 = some (ent 0xC1 a) ∧ s.headOf 4 = none ∧ s.sheet.issued = []
        ∧ s.sheet.sbars = [])
    ∧ [(1 : BitVec 3), 2, 4, 3, 7].all (fun h =>
        let a : ArrayArgs := { plainArgs 0 with c := 7 }
        let q (i : Nat) : List QEnt := if bitAt h i then [ent 0xC1 a] else []
        let s := withSheet (running 0) (fun h => { splitSheet h with qF := q 0, qB := q 1, qH := q 2 })
        s.sheet.set.current.part == 2 && [((1 : BitVec 3), 0), (2, 1), (4, 2)].all (fun g =>
          decide (s.headOf g.1 = if bitAt h g.2 then some (ent 0xC1 a) else none))) = true
    ∧ (let a : ArrayArgs := { plainArgs 0 with c := 5 }
      let s := withSheet (running 0) (fun h => { splitSheet h with
        qH := [ent 0xC1 a], issued := [⟨(ent 0xC1 a).seq, 0xC1, 1, .none, []⟩], sbars := [⟨(ent 0xC1 a).seq, 5, 1⟩] })
      s.headOf 1 = none ∧ s.headOf 2 = none ∧ s.headOf 4 = some (ent 0xC1 a))
    ∧ (running 0).sheet.switch = none
    ∧ (∀ k : Bool, let b : SbarHeld := ⟨5, 7, if k then 7 else 3⟩
      let s := withSheet (running 0) (fun h => { h with sbars := [b] })
      s.sheet.sbars.find? (fun x => x.seq == b.seq) = some b ∧ (k = true ↔ b.got = b.need) ∧ s.mdv.uncorr = none)
    ∧ (∀ k : Bool, let a : ArrayArgs := { plainArgs 0 with c := 2 }
      let s := withSheet (queued (running 0) 0xC3 a) (fun h => { h with
        issued := if k then [⟨3, 0xFF, 3, .none, []⟩] else [] })
      s.issuing 0xC3 a = some (ent 0xC3 a) ∧ (k = true ↔ ∃ x ∈ s.sheet.issued, x.seq ≠ 5 ∧ x.secs &&& 3 ≠ 0))
    ∧ (∀ k : Bool, (switching k).sheet.switch = some ⟨5, 2, false, some 1, false, false, 3⟩
      ∧ 9 ≤ (switching k).bea.count.toNat - (1 : Word).toNat ∧ (switching k).fn.ary.mixed = true) := by
  and_intros <;> decide +kernel

/-- A word that may not issue, and a reserved opcode of every class. -/
theorem witness_MatrixWordsIssue_waiting :
    live.mustWait 0x01 (plainArgs 0)
    ∧ [((0x10 : BitVec 8), (0x01 : BitVec 8)), (0x4F, 0x40), (0x6F, 0x60), (0x83, 0x80), (0xA2, 0xA0), (0xA8, 0xA4),
        (0xBF, 0xB0), (0xDF, 0xD0)].all (fun p =>
        let s := queued (running 0) p.1 (plainArgs 3)
        decide (s.issuing p.2 (plainArgs 3) = none) && decide (s.reservedDue p.2.toNat = some (4, ent p.1 (plainArgs 3))))
      = true := by and_intros <;> decide +kernel

/-- An FBAR with its instance, as FBAR enqueues it. -/
def barState (a : ArrayArgs) : State :=
  let s := queued (running 0) 0xC2 a
  { s with fn := { s.fn with fol := ⟨.run, 1, 1, false⟩ }
           fol := { s.fol with insts := [Inst.numbered 1 0 5 (.barrier 7) (arrayWord 0xC2 a)] } }

/-- The same with the collective unit stopped. -/
def barStopped (a : ArrayArgs) : State :=
  { barState a with fn := { (barState a).fn with fol := ⟨.stopped, 1, 1, false⟩ } }

/-- A held FBAR planned for beat 10. -/
def held (r : Option (Word × Word)) (warned : Bool) : FbarHeld := ⟨5, 3, 1, 10, 7, 8, r, warned⟩

/-- A state at beat `n` with a held FBAR, BEA_BAR 4 (exchange) and 20 (warning). -/
def barHeld (n : Word) (b : FbarHeld) : State :=
  { withSheet (running 0) (fun h => { h with fbars := [b] }) with
    bea := { Bea.atReset with count := n, bar := 0x1404 } }

theorem witness_FabricBarrier :
    (let a : ArrayArgs := { plainArgs 0 with a := 1, b := 10, c := 7 };
      (barState a).issuing 0xC2 a = some (ent 0xC2 a) ∧ (barState a).barMayStart (ent 0xC2 a) = true
      ∧ (barStopped a).issuing 0xC2 a = some (ent 0xC2 a) ∧ (barStopped a).barMayStart (ent 0xC2 a) = false)
    ∧ (∀ late : Bool, let b := held (some (if late then 12 else 3, 9)) false
      let due := max (max b.planned.toNat ((if late then 12 else 3) + fldN (barHeld 0 b).bea.bar 0 8)) 9
      (barHeld 0 b).sheet.fbars.find? (fun x => x.seq == b.seq) = some b ∧ due = (if late then 16 else 10)
        ∧ (barHeld 16 b).bea.count.toNat = 16 ∧ (barHeld 9 b).bea.count.toNat < due)
    ∧ (held none false).result = none
    ∧ (∀ n : Bool, let b := held none false
      let s := barHeld (if n then 30 else 29) b
      b.warned = false ∧ fldN s.bea.bar 8 32 ≠ 0 ∧ b.planned.toNat + fldN s.bea.bar 8 32 = 30
        ∧ s.bea.count.toNat = if n then 30 else 29) := by and_intros <;> decide +kernel

/-- A TCOPY of one tile, bit for bit and converted. -/
def copyArgs (sec : BitVec 2) (x z : BitVec 32) : ArrayArgs := ⟨sec, 0, 0, x, 0, z⟩

theorem witness_TileCopies :
    ((queued tiled 0x80 { copyArgs 3 0 2 with b := 1 }).issuing 0x80 { copyArgs 3 0 2 with b := 1 }).isSome = true
    ∧ (copyChecks { copyArgs 3 0 2 with b := 1 } tiled).isSome = true
    ∧ [((3 : BitVec 2), (0 : BitVec 32), (2 : BitVec 32)), (0, 0, 2), (1, 2, 7), (3, 0, 5)].all (fun p =>
      let a := copyArgs p.1 p.2.1 p.2.2
      let s := queued tiled 0x80 a
      let s1 := s.taken (secsOf a.sec) (ent 0x80 a)
      let j := copyJob a s1
      let c := if p.1 = 3 then hubAt else s1.coreAt (sectOf p.1) 0
      due s 0x80 a && decide (copyChecks a s1 = none)
        && (if p.2.2 = 5 then j.z.tq == 0 else
          decide ((if a.sec = 3 then [hubAt] else s1.coresOf (sectOf a.sec) j.z.tq) = [c])
          && decide (j.z.tr = 1 ∧ j.z.tc = 1 ∧ j.z.tp = 1) && !s1.needFails (rNeed j.x (j.x.slotAt c 0 0 0))
          && zOpen s1 j.z (j.z.slotAt c 0 0 0)
          && decide (j.x.size = j.z.size ∨ j.x.tf ≠ j.z.tf))) = true := by and_intros <;> decide +kernel

/-! ## The tier manager -/

/-- An image with a tier map of four pages: U-page 3 belongs to account 2 and lives in T1. -/
def imgT : CastImg := { img with tmap := ⟨0x103000, 4⟩, desc := descs, slots := [] }

/-- A running cast with that map, and one MIGRATE entry: U-page 2, one page, to T2. -/
def tierState : State :=
  let s := { running 0 with cast := some imgT }
  let s := s.putImageWord 0x103018 (0x4001 * 64 + 8 + 1)
  (s.putImageWord 0x104000 (2 + 2 ^ 32)).putImageWord 0x104008 2

/-- The tier manager with a queued move of U-page 2 to tier `t`. -/
def moveTo (t : Nat) (zero : Bool) (f : State → State) : State :=
  f { tierState with tmv := { tierState.tmv with queue := [⟨2, t, zero, 5, 0⟩] } }

/-- MIGRATE of `n` entries. -/
def migrateArgs (n : BitVec 32) (c : BitVec 32) : ArrayArgs := ⟨3, 0, 0x10, 0, n, c⟩

/-- A move of U-page 2 from T2 to T1, where account 5 has all but `free` of the places; U-page 3 is evictable or
not. -/
def crowded (free : Nat) (evictable : Bool) : State :=
  moveTo 1 false (fun s =>
    let s := s.putImageWord 0x103010 (0x4000000 * 64 + 1)
    let s := if evictable then s else s.putImageWord 0x103018 (0x4001 * 64 + 1)
    { s with tir := { s.tir with quota := [(21, 3040 - free)] } })

/-- The same with the move taken from the queue. -/
def unqueued (s : State) : State := { s with tmv := { s.tmv with queue := [] } }

/-- The same queue head with aperture 32 as the pool of T3, open for writing or not. -/
def pooled (writable : Bool) (q : MoveReq) : State :=
  moveTo 3 false (fun s => { s with
    tmv := { s.tmv with queue := [q], cfg := Epoched.at 0x2020A0 }
    lnk := { s.lnk with aps := [(32, if writable then 0xC000000000000000 else 0x8000000000000000)] } })

theorem witness_PageMoves_pool :
    (∀ w : Bool, let s := pooled w ⟨2, 3, false, 5, 0⟩
      let s1 := unqueued s
      s.running .tmv = true ∧ s.castRuns = true ∧ s.sys.ps = 0 ∧ s.pool.isSome = true
        ∧ s.tierOf (eLive (s.tmapAt imgT 2)) ≠ some 3 ∧ s1.mayEnter s1.pages (eAcct (s.tmapAt imgT 2)) 3 = true
        ∧ s1.lowestFree s1.pages 3 = some 0x12000001 ∧ s.placeWritable 0x12000001 = w)
    ∧ (∀ w : Bool, let s := pooled w ⟨1, 3, true, 5, 0⟩
      s.running .tmv = true ∧ s.castRuns = true ∧ s.tierOf (eLive (s.tmapAt imgT 1)) = some 3
        ∧ s.placeWritable (eLive (s.tmapAt imgT 1)) = w) := by and_intros <;> decide +kernel

theorem mem_noDups {a : Nat} {l : List Nat} (h : a ∈ l) : a ∈ noDups l := by
  induction l with
  | nil => cases h
  | cons b t ih =>
    unfold noDups
    split
    · rename_i c
      rcases List.mem_cons.mp h with e | m
      · exact ih (e ▸ List.contains_iff_mem.mp c)
      · exact ih m
    · rcases List.mem_cons.mp h with e | m
      · exact e ▸ List.mem_cons_self ..
      · exact List.mem_cons_of_mem _ (ih m)

/-- The first column word of a place of T2 holds two errors. -/
theorem witness_PageMoves_bad :
    let m : Move := ⟨2, 0x1000000, 0x4000, false, 5⟩
    let s : State := { tierState with
      tmv := { tierState.tmv with moving := [m] }, mdv := { tierState.mdv with diff := [(colOf t2Base, 3)] } }
    s.tmv.moving.find? (fun x => x.upage == m.upage) = some m ∧ s.placePending m.src = false ∧ s.sourceBad m = true := by
  intro m s
  refine ⟨by decide +kernel, by decide +kernel, ?_⟩
  have e : s.mdv.diff.isEmpty = false := rfl
  unfold State.sourceBad State.badCols
  rw [e]
  simp only [Bool.not_false, Bool.and_eq_true, List.any_eq_true, Bool.false_eq_true, if_false]
  refine ⟨⟨rfl, trivial⟩, t2Base, mem_noDups (List.mem_map.mpr ⟨t2Base, List.mem_filter.mpr ⟨?_, by decide +kernel⟩, rfl⟩),
    by decide +kernel⟩
  exact List.mem_filterMap.mpr ⟨0, List.mem_range.mpr (by decide), by decide +kernel⟩

theorem witness_PageMoves :
    (let a := migrateArgs 1 1;
      (queued tierState 0x81 a).issuing 0x81 a = some (ent 0x81 a) ∧ (migrateFlaw imgT a).isSome = true)
    ∧ [(0 : BitVec 32), 1, 4].all (fun n =>
      decide ((queued tierState 0x81 (migrateArgs n 0)).issuing 0x81 (migrateArgs n 0) = some (ent 0x81 (migrateArgs n 0)))
        && decide (migrateFlaw imgT (migrateArgs n 0) = none)) = true
    ∧ tierState.entryMoves imgT 5 0 = [⟨2, 2, false, 5, 0⟩]
    ∧ (moveTo 2 false (fun s => { s with tmv := { s.tmv with moving := [⟨2, 0x4000, 0x4000000, false, 5⟩] } })).tmv.moving
      = [⟨2, 0x4000, 0x4000000, false, 5⟩]
    ∧ (∀ zero : Bool, let s := moveTo 1 zero id
      s.running .tmv = true ∧ s.tmv.moving.length < s.moveLimit ∧ s.tmv.moving = []
        ∧ s.tierOf (eLive (s.tmapAt imgT 2)) = some 1)
    ∧ (let s := moveTo 2 false id
      let s1 : State := { s with tmv := { s.tmv with queue := [] } }
      s.tierOf (eLive (s.tmapAt imgT 2)) ≠ some 2 ∧ s1.mayEnter s1.pages (eAcct (s.tmapAt imgT 2)) 2 = true
        ∧ (s1.lowestFree s1.pages 2).isSome = true)
    ∧ (moveTo 3 false id).pool = none
    ∧ [true, false].all (fun ev =>
      let s := crowded (if ev then 1 else 0) ev
      let s1 := unqueued s
      let el := s.tmapAt imgT 2
      decide (s.tierOf (eLive el) = some 2) && !s1.mayEnter s1.pages (eAcct el) 1
        && (match s1.victim s1.pages 1 2 with
            | some v => ev && s1.mayEnter s1.pages (eAcct v.2) 2 && (s1.lowestFree s1.pages 2).isSome
            | none => !ev)) = true
    ∧ (∀ pend : Bool, let m : Move := ⟨2, if pend then 0x10000000 else 0x4000, 0x4000000, false, 5⟩
      let s : State := { tierState with
        tmv := { tierState.tmv with moving := [m] }
        lnk := { tierState.lnk with trans := if pend then [⟨0, false, 0x100000000000, 0x10000, 0, 0, false, .word 5 .tmv, 0⟩]
          else [] } }
      s.tmv.moving.find? (fun x => x.upage == m.upage) = some m ∧ s.placePending m.src = pend) := by
  and_intros <;> decide +kernel

/-- What decides on places, apart from memory: the same in both states. -/
structure SamePlaces (s t : State) : Prop where
  cast  : t.cast = s.cast
  map   : t.tmv.map = s.tmv.map
  cfg   : t.tmv.cfg = s.tmv.cfg
  moves : t.tmv.moving = s.tmv.moving
  quota : t.tir.quota = s.tir.quota
  size  : t.rst = s.rst
  clean : s.mdv.diff = [] → t.mdv.diff = []

theorem putBytes_places (l : List (Nat × Byte)) (s : State) : SamePlaces s (s.putBytes l) := by
  have h := putBytes_onlyBytes l s
  have a := congrArg (fun x : State => x.cast) h
  have b := congrArg (fun x : State => x.tmv) h
  have c := congrArg (fun x : State => x.tir) h
  have d := congrArg (fun x : State => x.rst) h
  exact ⟨a, congrArg (·.map) b, congrArg (·.cfg) b, congrArg (·.moving) b, congrArg (·.quota) c, d, putBytes_clean l s⟩

/-- What a byte reads after a list of writes depends on what it read before and on the list. -/
theorem putBytes_congr (l : List (Nat × Byte)) : ∀ (s t : State) (q : Nat), s.byte q = t.byte q →
    (s.putBytes l).byte q = (t.putBytes l).byte q := by
  induction l with
  | nil => exact fun _ _ _ h => h
  | cons e r ih =>
    intro s t q h
    refine ih _ _ q ?_
    rw [byte_putByte, byte_putByte, h]

theorem mapped_congr {s t : State} {c : CastImg} (b : ∀ k, k < c.tmap.count → t.tmapAt c k = s.tmapAt c k) :
    t.mapped c = s.mapped c := by
  unfold State.mapped
  have e : (List.range c.tmap.count).map (fun k => (k, t.tmapAt c k))
      = (List.range c.tmap.count).map (fun k => (k, s.tmapAt c k)) :=
    List.map_congr_left (fun k mem => by rw [b k (List.mem_range.mp mem)])
  rw [e]

theorem pages_running {t : State} {c : CastImg} (hc : t.cast = some c) (run : t.tmv.map = .running) :
    t.pages = t.mapped c := by
  unfold State.pages
  simp only [run, hc]

theorem tierOf_congr {s t : State} (h : SamePlaces s t) (p : Nat) : t.tierOf p = s.tierOf p := by
  unfold State.tierOf State.inPool State.pool State.sizCores State.fenced State.tmvCfg
  rw [h.cfg, h.size]

theorem claimUse_congr {s t : State} (h : SamePlaces s t) (l : List (Nat × Word)) (k : Nat) :
    t.claimUse l k = s.claimUse l k := by
  unfold State.claimUse State.claims State.living
  rw [h.moves, h.quota]
  simp only [tierOf_congr h]

theorem crucibleNow_congr {s t : State} (h : SamePlaces s t) (k : Nat) : t.crucibleNow k = s.crucibleNow k := by
  unfold State.crucibleNow State.crucible State.places State.pool State.sizCores State.fenced State.tmvCfg
  rw [h.cfg, h.quota, h.size]

/-- A number is fixed by its quotient and rest. -/
theorem split_inj {d r1 r2 m1 m2 : Nat} (h1 : m1 < d) (h2 : m2 < d) (h : d * r1 + m1 = d * r2 + m2) :
    r1 = r2 ∧ m1 = m2 := by
  have d0 : 0 < d := by omega
  have e1 := Nat.mul_add_div d0 r1 m1
  have e2 := Nat.mul_add_div d0 r2 m2
  rw [Nat.div_eq_of_lt h1] at e1
  rw [Nat.div_eq_of_lt h2] at e2
  have r : r1 = r2 := by rw [h] at e1; omega
  subst r
  exact ⟨rfl, by omega⟩

theorem quot_inj {a b : Nat} (r : a / 4096 % 24 = b / 4096 % 24)
    (m : 4096 * (a / 4096 / 24) + a % 4096 = 4096 * (b / 4096 / 24) + b % 4096) : a = b := by omega

theorem unstripe_inj {a b : Nat} (ha : a < t2Size) (hb : b < t2Size) (h : unstripe a = unstripe b) : a = b := by
  have ha : a < 2061584302080 := ha
  have hb : b < 2061584302080 := hb
  simp only [unstripe, Nat.add_assoc, Nat.add_left_cancel_iff] at h
  have small : ∀ x, x < 2061584302080 → 4096 * (x / 4096 / 24) + x % 4096 < devSize := fun x hx => by
    show _ < 85899345920
    omega
  have p := split_inj (small a ha) (small b hb) h
  exact quot_inj p.1 p.2

theorem striped_canon {s : State} {p : Nat} (lo : 4398046511104 ≤ p) (hi : p < 4398046511104 + t2Size) :
    s.canon p = some (unstripe (p - 4398046511104)) := by
  have size : t2Size = 2061584302080 := rfl
  have h1 : ¬ p < t1Base := by unfold t1Base; omega
  have h2 : ¬ p < t1End := by unfold t1End; omega
  have h3 : isT2 p = false := by
    unfold isT2 t2Base
    rw [size]
    simp only [Bool.and_eq_false_iff, decide_eq_false_iff_not]
    right
    omega
  have h4 : stripeBase ≤ p ∧ p < stripeBase + t2Size := ⟨lo, hi⟩
  unfold State.canon
  rw [if_neg h1, if_neg h2, h3, if_pos h4]
  rfl

/-- The bytes of a striped place are those of its own U-addresses under the load map. -/
theorem striped_bytes {s : State} {k q : Nat} (hk : k < 0x1E00000) (h : q ∈ s.placeBytes (0x4000000 + k)) :
    ∃ i, i < 0x10000 ∧ q = unstripe (0x10000 * k + i) := by
  unfold State.placeBytes at h
  obtain ⟨i, m, e⟩ := List.mem_filterMap.mp h
  have hi := List.mem_range.mp m
  have size : t2Size = 2061584302080 := rfl
  rw [striped_canon (by omega) (by omega)] at e
  injection e with e
  have off : 65536 * (67108864 + k) + i - 4398046511104 = 65536 * k + i := by omega
  exact ⟨i, hi, by rw [← e, off]⟩

theorem t1_bytes {s : State} {p q : Nat} (low : t1Base ≤ 0x10000 * p) (high : 0x10000 * p + 0x10000 ≤ t1End)
    (h : q ∈ s.placeBytes p) : q < t1End := by
  unfold State.placeBytes at h
  obtain ⟨i, m, e⟩ := List.mem_filterMap.mp h
  have hi := List.mem_range.mp m
  unfold State.canon at e
  rw [if_neg (by omega), if_pos (by omega)] at e
  injection e with e
  omega

theorem landed_places (y : State) (mv : Word) (touch : SMap Word) :
    SamePlaces y ({ y with tmv := { y.tmv with moves := mv, touch := touch } } : State).notePeaks := by
  unfold State.notePeaks
  exact ⟨rfl, rfl, rfl, rfl, rfl, rfl, id⟩

theorem landed_byte (y : State) (mv : Word) (touch : SMap Word) (q : Nat) :
    ({ y with tmv := { y.tmv with moves := mv, touch := touch } } : State).notePeaks.byte q = y.byte q := by
  unfold State.byte State.hidden State.lostAt
  rfl

theorem samePlaces_trans {a b c : State} (h : SamePlaces a b) (k : SamePlaces b c) : SamePlaces a c :=
  ⟨k.cast.trans h.cast, k.map.trans h.map, k.cfg.trans h.cfg, k.moves.trans h.moves, k.quota.trans h.quota,
    k.size.trans h.size, fun e => k.clean (h.clean e)⟩

/-- Where a page lands that leaves T1 for the striped place `k`: places are as before, and of the bytes outside that
place only the tier-map entry has moved. -/
theorem landPage_striped {s : State} {c : CastImg} {m : Move} {k : Nat} (hc : s.cast = some c) (hz : m.zero = false)
    (hd : m.dst = 0x4000000 + k) (hk : k < 0x1E00000) (low : t1Base ≤ 0x10000 * m.src)
    (high : 0x10000 * m.src + 0x10000 ≤ t1End) (free : s.bnk.cores = []) (idle : s.bnk.work = none)
    (sound : s.mdv.diff = [])
    (out : ∀ i, i < 8 → c.tmap.addr + 8 * m.upage + i < t2Size ∧ (c.tmap.addr + 8 * m.upage + i) / 0x10000 ≠ k) :
    SamePlaces s (s.landPage m) ∧ ∀ x, x < t2Size → x / 0x10000 ≠ k →
      (s.landPage m).byte (unstripe x) = (s.putLive c m.upage m.dst).byte (unstripe x) := by
  obtain ⟨bs, hbs⟩ : ∃ bs, bs = (s.placeBytes m.src).map s.readByte := ⟨_, rfl⟩
  obtain ⟨l, hl⟩ : ∃ l, l = (s.placeBytes m.dst).zip bs := ⟨_, rfl⟩
  have note : s.noteMem .tier (some (0x10000 * m.upage)) (s.placeBytes m.src) = s := by
    unfold State.noteMem State.noteCode State.badCols State.noteUnsealed
    rw [List.find?_eq_none.mpr (fun q mem => by
      unfold State.unsealedAt
      rw [t1_not_t2 (t1_bytes low high mem)]
      simp)]
    simp only [sound, List.isEmpty_nil, if_true, List.foldl_nil]
  have hit : s.windowHit (s.placeBytes m.dst) = none := by
    unfold State.windowHit
    split
    · rfl
    · refine List.find?_eq_none.mpr (fun q _ => ?_)
      have : s.inWindow (t2Place q).1 (t2Place q).2.1 = false := by
        unfold State.inWindow Bnk.abortWindow
        rw [free, idle]
        rfl
      simp [this]
  have write : s.writePage m.seq m.dst bs = s.putBytes l := by
    unfold State.writePage
    dsimp only
    have np : (pageAp m.dst).isSome = false := by
      unfold pageAp
      rw [if_neg (by omega)]
      rfl
    rw [hit, np, ← hl]
    exact storeBytes_clean sound
  have other : ∀ x, x < t2Size → x / 0x10000 ≠ k → (s.putBytes l).byte (unstripe x) = s.byte (unstripe x) := by
    intro x hx nx
    refine putBytes_other l s _ (fun e mem c => ?_)
    have me : e.1 ∈ s.placeBytes m.dst := (List.of_mem_zip (show (e.1, e.2) ∈ _ from hl ▸ mem)).1
    rw [hd] at me
    obtain ⟨i, hi, e1⟩ := striped_bytes hk me
    have := unstripe_inj hx (by unfold t2Size; omega) (c.symm.trans e1)
    omega
  have entry : (s.putBytes l).tmapAt c m.upage = s.tmapAt c m.upage := by
    unfold State.tmapAt State.imageWord
    have e : (List.range 8).map (fun i => (s.putBytes l).readByte (unstripe (c.tmap.addr + 8 * m.upage + i)))
        = (List.range 8).map (fun i => s.readByte (unstripe (c.tmap.addr + 8 * m.upage + i))) :=
      List.map_congr_left (fun i mem => by
        have o := out i (List.mem_range.mp mem)
        rw [readByte_clean sound, readByte_clean (putBytes_clean l s sound)]
        exact other _ o.1 o.2)
    rw [e]
  have live : ∀ x, x < t2Size → x / 0x10000 ≠ k → ((s.putBytes l).putLive c m.upage m.dst).byte (unstripe x)
      = (s.putLive c m.upage m.dst).byte (unstripe x) := fun x hx nx => by
    unfold State.putLive State.putImageWord
    rw [entry, storeBytes_clean sound, storeBytes_clean (putBytes_clean l s sound)]
    exact putBytes_congr _ _ _ _ (other x hx nx)
  have p1 := putBytes_places l s
  have p2 : SamePlaces (s.putBytes l) ((s.putBytes l).putLive c m.upage m.dst) := by
    unfold State.putLive State.putImageWord
    rw [storeBytes_clean (putBytes_clean l s sound)]
    exact putBytes_places _ _
  unfold State.landPage
  rw [hc]
  simp only [hz, Bool.false_eq_true, if_false, note]
  rw [← hbs, write]
  exact ⟨samePlaces_trans (samePlaces_trans p1 p2) (landed_places ..),
    fun x hx nx => (landed_byte ..).trans (live x hx nx)⟩

/-- The move of the fifth clause: U-page 3 goes from T1 to the striped place 1 of T2. -/
theorem witness_PageMoves_evict :
    let s1 := unqueued (crowded 1 true)
    let v : Nat × Word := (3, s1.tmapAt imgT 3)
    let s2 := s1.landPage ⟨v.1, eLive v.2, 0x4000001, false, 0⟩
    s1.victim s1.pages 1 2 = some v ∧ s1.lowestFree s1.pages 2 = some 0x4000001
      ∧ s1.sourceBad ⟨v.1, eLive v.2, 0x4000001, false, 0⟩ = false ∧ s1.placeWritable 0x4000001 = true
      ∧ s2.claimUse s2.pages 1 < s2.crucibleNow 1 := by
  intro s1 v s2
  refine ⟨by decide +kernel, by decide +kernel, by decide +kernel, by decide +kernel, ?_⟩
  have hc : s1.cast = some imgT := by decide +kernel
  have sound : s1.mdv.diff = [] := by decide +kernel
  have r := landPage_striped (s := s1) (m := ⟨v.1, eLive v.2, 0x4000001, false, 0⟩) (k := 1) hc rfl rfl (by decide)
    (by decide +kernel) (by decide +kernel) (by decide +kernel) (by decide +kernel) sound
    (fun i hi => by
      have e : imgT.tmap.addr = 0x103000 := rfl
      have z : t2Size = 2061584302080 := rfl
      show imgT.tmap.addr + 8 * 3 + i < t2Size ∧ (imgT.tmap.addr + 8 * 3 + i) / 0x10000 ≠ 1
      rw [e]
      omega)
  have p : s2.pages = (s1.putLive imgT 3 0x4000001).mapped imgT := by
    have run : s1.tmv.map = .running := by decide +kernel
    rw [pages_running (r.1.cast.trans hc) (r.1.map.trans run)]
    refine mapped_congr (fun k hk => ?_)
    unfold State.tmapAt State.imageWord
    have sound3 : (s1.putLive imgT 3 0x4000001).mdv.diff = [] := by
      unfold State.putLive State.putImageWord
      rw [storeBytes_clean sound]
      exact putBytes_clean _ _ sound
    have e : (List.range 8).map (fun i => s2.readByte (unstripe (imgT.tmap.addr + 8 * k + i)))
        = (List.range 8).map (fun i => (s1.putLive imgT 3 0x4000001).readByte (unstripe (imgT.tmap.addr + 8 * k + i))) :=
      List.map_congr_left (fun i mem => by
        have hi := List.mem_range.mp mem
        have hk : k < 4 := hk
        have a : imgT.tmap.addr = 0x103000 := rfl
        have z : t2Size = 2061584302080 := rfl
        rw [readByte_clean (r.1.clean sound), readByte_clean sound3]
        exact r.2 _ (by rw [a]; omega) (by rw [a]; omega))
    rw [e]
  rw [claimUse_congr r.1, crucibleNow_congr r.1, p]
  decide +kernel

/-- Slots of one page each: U-page 2, twice, with at most 10 and half as many again; and a slot on an unmapped page. -/
def slotsT : List Slot := [⟨0x0000000200000002, 0x000000320000000A, false, false⟩, ⟨2, 0x000000320000000A, false, false⟩,
  ⟨0x10, 10, false, false⟩]

/-- STEPADM of slots from `first`, `n` of them, with `len` in the header of U-page 2. -/
def stepadm (first n : BitVec 32) (len : Byte) : State × ArrayArgs :=
  let a : ArrayArgs := ⟨3, 0, 0, first, n, 0⟩
  let s := queued { tierState with tir := { tierState.tir with slots := slotsT } } 0x82 a;
  let t : State := { s with mem := (0x40000000, len) :: s.mem };
  (t, a)

theorem witness_StepAdmissionAndRelease :
    (let p := stepadm 0 4 1;
      p.1.issuing 0x82 p.2 = some (ent 0x82 p.2) ∧ (stepadmFlaw p.1.tir.slots p.2).isSome = true)
    ∧ (let p := stepadm 3 0 1;
      p.1.issuing 0x82 p.2 = some (ent 0x82 p.2) ∧ stepadmFlaw p.1.tir.slots p.2 = none)
    ∧ [(1 : Byte), 10, 11, 15, 16].all (fun len =>
      let p := stepadm 0 2 len
      let s1 := p.1.taken 4 (ent 0x82 p.2)
      decide (p.1.issuing 0x82 p.2 = some (ent 0x82 p.2)) && decide (stepadmFlaw p.1.tir.slots p.2 = none)
        && (slotRange p.1.tir.slots 0 2).all (fun q => match s1.slotHeader q.2 with
          | some h => decide (h.1 = len.toNat) && (decide (h.1 ≤ q.2.limit) == decide (len.toNat ≤ 15))
          | none => false)) = true
    ∧ (let p := stepadm 2 1 1;
      let s1 := p.1.taken 4 (ent 0x82 p.2)
      p.1.issuing 0x82 p.2 = some (ent 0x82 p.2) ∧ stepadmFlaw p.1.tir.slots p.2 = none
        ∧ (slotRange p.1.tir.slots 2 1).all (fun q => (s1.slotHeader q.2).isNone) = true)
    ∧ (let s : State := { tierState with tmv := { tierState.tmv with releasing := true } }
      s.cast = some imgT ∧ s.tmv.releasing = true ∧ s.tmv.moving = [] ∧ s.lnk.trans = []) := by
  and_intros <;> decide +kernel

/-- A word whose page is in move. -/
theorem witness_MatrixWordsIssue_moving :
    let p := stepadm 0 1 1
    let s := moving p.1 2
    s.issuing 0x82 p.2 = some (ent 0x82 p.2)
      ∧ (s.tried (secsOf p.2.sec) (ent 0x82 p.2) (stepadmEffect p.2)).clear = false := by
  and_intros <;> decide +kernel

theorem witness_StepAdmissionAndRelease_host : live.hostMay 1 0x080010 := live_may _ _ (by decide)

/-! ## The control space -/

theorem witness_StagedSettings :
    stagedRegs.all (fun r => r.taken live || r.off == 0x0A0000) = true
    ∧ stagedRegs.all (fun r => !r.taken { live with fn := { live.fn with
        ary := ⟨.run, 1, 1, false⟩, tmv := ⟨.run, 1, 1, false⟩, twn := ⟨.run, 1, 1, false⟩, pwr := ⟨.run, 1, 1, false⟩ } })
      = true
    ∧ live.stopped .mdv = false ∧ live.stopped .lnk = false ∧ live.stopped .pwr = true ∧ live.stopped .fol = true
    ∧ [(0x0D0000 : BitVec 24), 0x0D0008, 0x0D0200, 0x0D0300, 0x0D1000].all lnkConfig = true
    ∧ bitAt (live.aperture 32) 63 = false ∧ bitAt ((running 0).aperture 32) 63 = true ∧ live.loadMap = true
    ∧ (running 0).loadMap = false := by and_intros <;> decide +kernel

theorem witness_StagedSettings_host (n : Nat) (off : BitVec 24) (h : n ≤ 2) : live.hostMay n off :=
  live_may _ _ (by omega)

/-- What `merged` asks, as a check. -/
def mergedB (fs : List FieldRange) (v old new : Word) : Bool :=
  fs.all (fun f => decide (fldN new f.lo f.width =
    if f.least ≤ fldN v f.lo f.width ∧ fldN v f.lo f.width ≤ f.most then fldN v f.lo f.width else fldN old f.lo f.width))
    && (List.range 64).all (fun i => fs.any (fun f => decide (f.lo ≤ i ∧ i < f.lo + f.width))
      || bitAt new i == bitAt old i)

theorem merged_of {fs : List FieldRange} {v old new : Word} (h : mergedB fs v old new = true) : merged fs v old new := by
  unfold mergedB at h
  simp only [Bool.and_eq_true, List.all_eq_true, decide_eq_true_eq, List.mem_range, Bool.or_eq_true, List.any_eq_true,
    beq_iff_eq] at h
  refine ⟨h.1, fun i hi out => ?_⟩
  rcases h.2 i hi with ⟨f, m, r⟩ | e
  · have := out f m; omega
  · exact e

/-- For each staged setting a value that differs in one field and merges into itself. -/
theorem witness_HostRegisterAccess_merged :
    (stagedRegs.zip [(1 : Word), 0x80, 1, 1, 0x8000000000000000, 0x100, 1]).all (fun p =>
      let old := p.1.old (asPriv 1)
      mergedB p.1.fs (old ^^^ p.2) old (old ^^^ p.2) && decide (old ^^^ p.2 ≠ old)) = true
    ∧ stagedRegs.length = 7 ∧ (asPriv 1).priv = 1 := by and_intros <;> decide +kernel

theorem asPriv_may {p : BitVec 2} {n : Nat} {off : BitVec 24} (h : n ≤ p.toNat) : (asPriv p).hostMay n off :=
  ⟨rfl, rfl, h, rfl, nofun⟩

theorem witness_HostRegisterAccess :
    [(0x020000 : BitVec 24), 0x1200F8, 0x120100, 0x120178].all (fun off => offsetOk off && decide (readNeed off ≤ 3)) = true
    ∧ rcRegs.all (fun o => decide (o < 2 ^ 24)) = true
    ∧ [Blk.sys, .bea, .mgt].all (fun b => decide (causeWidth b ≠ 0)) = true
    ∧ (asPriv 0).priv = 0 ∧ ((asPriv 0).port 7).isUp = true ∧ (asPriv 0).sec.session.isSome = true
    ∧ 23 ≤ fldN (0x170000 : BitVec 24) 16 8 ∧ 23 ≤ fldN (0xFF0000 : BitVec 24) 16 8
    ∧ (let s : State := { live with sys := { live.sys with ps := 2 } }
      (s.port 7).isUp = true ∧ s.sec.session.isSome = true ∧ 1 ≤ s.priv.toNat ∧ s.gated 0x040000 = true)
    ∧ (let s : State := { live with sec := Sec.atReset }
      (s.port 7).isUp = true ∧ s.sec.session = none)
    ∧ (State.reset.port 7).isUp = false
    ∧ (∀ k : Bool, let s : State := { live with sys := { live.sys with standby := k } }
      s.sys.standby = k)
    ∧ smbusWrites 0x020000 = false := by and_intros <;> decide +kernel

/-- The core window: T0, T1, headers; open when no word is in flight and no test runs. -/
def withCrw (f : Crw → Crw) : State := { live with crw := f live.crw }

/-- The bytes of a host request of 64 bytes in U-space. -/
def hostPs (s : State) (pspace : Bool) (addr : Nat) : List Nat := ((s.hostRun pspace addr 64).getD []).filterMap s.canon

/-- A request may be served: addresses that exist, nothing that waits, tests or is closed. -/
def hostFree (s : State) (pspace : Bool) (addr : Nat) : Bool :=
  (match s.hostRun pspace addr 64 with
    | some l => l.all (fun q => !s.closedAt true q && !s.closedAt false q)
    | none => false)
    && !s.memWaits .hostRead pspace (BitVec.ofNat 64 addr) 64 && !s.memWaits .hostWrite pspace (BitVec.ofNat 64 addr) 64
    && (s.hostLines pspace (BitVec.ofNat 64 addr) 64).isEmpty && (hostPs s pspace addr).all (fun q => !s.testedAt q)
    && requestOk (BitVec.ofNat 64 addr) 64

/-- The pages of a host write with a slot whose buffer is in use. -/
def busySlot (s : State) : State := { s with tir := { s.tir with slots := [⟨2, 10, true, false⟩] } }

theorem witness_HostWindows :
    fldN (863 : Word) 0 10 < live.sizCores ∧ live.sizCores ≤ fldN (864 : Word) 0 10
    ∧ (withCrw id).crwOpen = true ∧ (withCrw (fun c => { c with store := 2 })).crwOpen = true
    ∧ (running 0).crwOpen = false
    ∧ (let s : State := { live with sec := Sec.atReset, sys := { live.sys with standby := true } }
      s.sec.session = none ∧ s.sys.standby = true)
    ∧ live.stopped .mdv = false ∧ (withFn .mdv ⟨.stopped, 1, 1, false⟩).stopped .mdv = true
    ∧ hostFree (running 0) false 0x20000 = true ∧ hostFree live true 0x40000000 = true
    ∧ hostFree (running 0) true 0x120000000000 = true ∧ isT3 0x120000000000 = true
    ∧ ((running 0).putUnsealed (rowOf 0x10000050000) true).unsealedAt 0x10000050000 = true ∧ hostFree (running 0) false 0 = true
    ∧ (running 0).imageHit (hostPs (running 0) false 0x20000) = none
    ∧ ((running 0).imageHit [unstripe 0x103000]).isSome = true
    ∧ (hostPs live true 0x40000100000).take 1 = [unstripe 0x100000]
    ∧ (running 0).windowHit (hostPs (running 0) false 0x20000) = none
    ∧ ((running 0).writtenPages false 0x20000 64 (hostPs (running 0) false 0x20000)).all
        (fun k => !(running 0).inputBusy k) = true
    ∧ ((busySlot (running 0)).writtenPages false 0x20000 64 (hostPs (running 0) false 0x20000)).any
        (fun k => (busySlot (running 0)).inputBusy k) = true
    ∧ (running 0).hostRun false 0x30000 64 = none
    ∧ (let s : State := { live with fn := { live.fn with mdv := ⟨.stopped, 1, 1, false⟩ } }
      s.memWaits .hostRead true 0x10000000000 64 = true ∧ s.memWaits .hostWrite true 0x10000000000 64 = true)
    ∧ ((running 0).hostLines true 0x120000000000 32 = [0x120000000000] ∧ requestOk 0x120000000000 32 = true
      ∧ (running 0).memWaits .hostWrite true 0x120000000000 32 = false)
    ∧ (live.hostRun true 0x120000000000 64).isSome = true ∧ live.closedAt true 0x120000000000 = true
    ∧ live.dropsWrite 0x120000000000 = false
    ∧ (let s : State := { live with mdv := { live.mdv with diff := [(colOf t2Base, 3)] } }
      let ps := hostPs s true t2Base
      s.storeBlocked (ps.take 8) = true ∧ s.hostRun true t2Base 8 = some (ps.take 8)
        ∧ s.memWaits .hostWrite true 0x10000000000 8 = false ∧ s.hostLines true 0x10000000000 8 = []) := by
  and_intros <;> decide +kernel

/-! ## Memory devices and bank programs -/

/-- A bank program of three instructions with a window of two rows and a budget of 100. -/
def bankRun : BankRun := ⟨5, 2, 100, 2, 0, 3, 100, 0, 0⟩

/-- Bank 40, the second bank of die 1, at the bank instruction `w`. -/
def bankAt (w : BitVec 32) (f : BankCore → BankCore) : State :=
  { live with
    cast := some { img with bprog := [w, w, w] }
    cnd := { live.cnd with adm := .running }
    bnk := { live.bnk with
      launches := [⟨5, 2, 0, 3, 100, [], 0, [⟨8, 0, 1, 0, .running⟩, ⟨40, 100, 2, 0, .running⟩, ⟨72, 0, 1, 0, .running⟩],
        false⟩]
      cores := [(40, f { BankCore.idle with run := some bankRun, ran := true })] } }

/-- Whether the program on bank 40 stands at `w`. -/
def atBankB (s : State) (r : BankRun) (w : BitVec 32) : Bool :=
  decide ((s.core 40).run = some r) && !s.mdv.stopCores.contains 40 && decide ((s.core 40).pc < r.plen)
    && decide (r.count < r.budget) && decide (s.bprogAt (r.pstart + (s.core 40).pc) = w)

theorem atBank_of {s : State} {r : BankRun} {w : BitVec 32} (h : atBankB s r w = true) : s.atBank 40 r w := by
  unfold atBankB at h
  simp only [Bool.and_eq_true, decide_eq_true_eq, Bool.not_eq_true'] at h
  obtain ⟨⟨⟨⟨h1, h2⟩, h3⟩, h4⟩, h5⟩ := h
  exact ⟨h1, h2, h3, h4, h5⟩

/-- Bank 40 stands at the instruction that it holds. -/
def bankIn (op : BitVec 6) (body : Body) : Bool := atBankB (bankAt (op ++ body) id) bankRun (op ++ body)

/-- `live` with a memory-device register changed. -/
def withMdv (f : Mdv → Mdv) : State := { live with mdv := f live.mdv }

/-- A scrub of row 0 under way, with the check bits of two of its column words off. -/
def scrubbing (d0 d63 : BitVec 10) : State :=
  withMdv (fun m => { m with cfg := Epoched.at 0x1800F0F1, diff := [(colOf t2Base, d0), (colOf (t2Base + 2016), d63)] })

/-- A repair of row 5 of bank 0 under way. -/
def repairing (hard : Bool) : State :=
  { withMdv (fun m => { m with busy := true, repair := if hard then 0x40000000000000A0 else 0xA0 }) with
    fn := { live.fn with mdv := ⟨.stopped, 1, 1, false⟩ } }

theorem witness_MemoryDeviceEvents :
    live.mainOn = true ∧ (live.core 40).run = none
    ∧ (bankAt 0 id).chosen 40 [] = none
    ∧ ((bankAt 0 id).core 40).run.isSome = true ∧ ((bankAt 0 id).core 40).ran = true
    ∧ (bankAt 0 id).chosen 40 [.hostWrite, .hubRead] = some .hubRead
    ∧ (let s : State := { bankAt 0 id with mdv := { live.mdv with postponed := [(40, 8)] } }
      s.chosen 40 [.hubRead, .refreshAtLimit] = some .refreshAtLimit)
    ∧ (let s := scrubbing 0 0
      s.mainOn = true ∧ s.scrubHours ≠ 0 ∧ s.mdv.scrubNext = 0 ∧ s.unsealedAt t2Base = false
        ∧ s.inWindow (t2Place t2Base).1 (t2Place t2Base).2.1 = false)
    ∧ readSyndrome (syndromeOf 0) = .clean
    ∧ (readSyndrome (syndromeOf (smGet 0 (scrubbing 0x003 0).mdv.diff (colOf t2Base))) = .double
      ∧ readSyndrome (syndromeOf (smGet 0 (scrubbing 0x003 0).mdv.diff (colOf (t2Base + 32)))) = .clean)
    ∧ readSyndrome (syndromeOf (smGet 0 (scrubbing 0 0x007).mdv.diff (colOf (t2Base + 2016)))) = .single 7
    ∧ dataBitAt 7 = some 3
    ∧ repairTarget 0x00000000000000A0 = some ⟨0, 5, false⟩ ∧ bitAt (0xA0 : Word) 62 = bitAt live.mdv.repair 62
    ∧ live.sparesAt 0 5 = 4
    ∧ (withMdv (fun m => { m with repairs := List.replicate 4 ⟨0, 1023, false⟩ })).sparesAt 0 5 = 0
    ∧ live.stopped .mdv = false ∧ (withFn .mdv ⟨.stopped, 1, 1, false⟩).stopped .mdv = true
    ∧ (∀ hard : Bool, let s := repairing hard
      s.mdv.busy = true ∧ s.stopped .mdv = true ∧ repairTarget s.mdv.repair = some ⟨0, 5, hard⟩)
    ∧ (95 : BitVec 8).toNat = 95 ∧ ¬ 95 ≤ (94 : BitVec 8).toNat ∧ (0 : Nat) < 24 ∧ 23 < 24 := by
  and_intros <;> decide +kernel

theorem witness_MemoryDeviceEvents_host : live.hostMay 2 0x0A0068 ∧ live.hostMay 3 0x0A0068 :=
  ⟨live_may _ _ (by decide), live_may _ _ (by decide)⟩

/-- An error of the middle of device 3. -/
def anError (src : ErrSource) : UncorrInfo := ⟨src, false, 1920, 7, 3, 0x21, none⟩

theorem witness_UncorrectableErrors :
    live.mainOn = true ∧ (running 0).castSource .bankCore = true ∧ live.castSource .sheet = false
    ∧ (running 0).castSource .remote = false
    ∧ admitting.cnd.adm = .admitting ∧ (running 0).castRuns = true ∧ live.castRuns = false ∧ live.mdv.uncorr = none
    ∧ [(3 : Word), 4].all (fun n =>
      let s : State := { withMdv (fun m => { m with uncorr := some 3 }) with bea := { Bea.atReset with count := n } }
      decide (s.mdv.uncorr = some 3)) = true
    ∧ (anError .foil).source = .foil ∧ (anError .conductor).source ≠ .foil := by and_intros <;> decide +kernel

theorem witness_BankScalarInstructions :
    bankScalarTable.all (fun p => bankIn p.2.1 0x0C1C040) = true
    ∧ bankBranchTable.all (fun p => bankIn p.2.1 0x0C1FFFF) = true ∧ bankRun.plen ≤ 1024
    ∧ [(0x0C : BitVec 6), 0x0D, 0x0E, 0x0F].all (fun op => [(0 : Body), 0x0008000].all (bankIn op)) = true := by
  and_intros <;> decide +kernel

theorem witness_BankWideInstructions :
    bankFpTable.all (fun p => bankIn p.2.1 0x0221040) = true ∧ bankIntTable.all (fun p => bankIn p.2.1 0x0221040) = true
    ∧ [(0x2E : BitVec 6), 0x2F, 0x30, 0x31].all (fun op => [(0x0221040 : Body), 0x0221060].all (bankIn op)) = true := by
  and_intros <;> decide +kernel

/-- Bank 40 at an instruction of format M or R, its registers all `n`. -/
def bankMem (op : BitVec 6) (body : Body) (n : Word) : State :=
  bankAt (op ++ body) (fun c => { c with b := Vector.replicate 16 n })

/-- A copy of row b3 to row b2, and one of the last row to the first. -/
def rowopBody : Body := (1 : BitVec 3) ++ (2 : BitVec 4) ++ (3 : BitVec 4) ++ (0 : BitVec 15)
/-- A chain word, or the load of register w1. -/
def xBody : Body := (1 : BitVec 5) ++ (0 : BitVec 21)

theorem witness_BankMemoryChainAndEnd :
    -- loads and stores: a row of the window, the last row of the bank, a row beyond it
    [(0x10 : BitVec 6), 0x11, 0x12].all (fun op => [(101 : Word), 65535, 65536].all (fun n =>
      let body : Body := (1 : BitVec 5) ++ (4 : BitVec 4) ++ (0 : BitVec 17)
      let s := bankMem op body n
      atBankB s bankRun (op ++ body) && decide (memRow (s.core 40) body = n.toNat)
        && (bankRun.mayWrite (memRow (s.core 40) body) == decide (n = 101)))) = true
    ∧ live.mdv.uncorr = none
    -- a half-word store: no error in its column word, and an uncorrectable one
    ∧ (∀ bad : Bool, let body : Body := (1 : BitVec 5) ++ (4 : BitVec 4) ++ (0 : BitVec 16) ++ (1 : BitVec 1)
      let s0 := bankMem 0x11 body 101
      let s : State := if bad then { s0 with mdv := { s0.mdv with diff := [(colOf (bankAddr 40 101 0), 3)] } } else s0
      let span := (List.range (memSpan (s.core 40) body).2).map (bankAddr 40 101 (memSpan (s.core 40) body).1 + ·)
      atBankB s bankRun ((0x11 : BitVec 6) ++ body) = true ∧ (memSpan (s.core 40) body).2 = 16
        ∧ (s.mergeCols span = [] ↔ bad = false) ∧ s.storeBlocked span = bad)
    ∧ (let s : State := { bankMem 0x12 xBody 101 with mdv := { live.mdv with uncorr := some 3 } }
      atBankB s bankRun ((0x12 : BitVec 6) ++ xBody) = true ∧ s.mdv.uncorr ≠ none)
    -- row operations: in the window, outside it, across subarrays, beyond the bank
    ∧ [((100 : Word), (101 : Word)), (100, 1024), (99, 101), (100, 65536)].all (fun p =>
      let s := bankAt ((0x14 : BitVec 6) ++ rowopBody)
        (fun c => { c with b := (Vector.replicate 16 0).set 2 p.1 |>.set 3 p.2 })
      atBankB s bankRun ((0x14 : BitVec 6) ++ rowopBody)
        && decide (rowNames (s.core 40) rowopBody = [p.1.toNat, p.2.toNat])
        && (bankRun.mayWrite p.1.toNat == decide (p.1 = 100))) = true
    -- the chain
    ∧ (bankIn 0x15 xBody = true ∧ dieOf 40 ≠ 19 ∧ (bankAt 0 id).inLaunch 5 72 = true ∧ bankRun.sent < 64)
    ∧ (let r : BankRun := { bankRun with sent := 64 }
      let s := bankAt ((0x15 : BitVec 6) ++ xBody) (fun c => { c with run := some r })
      atBankB s r ((0x15 : BitVec 6) ++ xBody) = true ∧ ¬ r.sent < 64)
    ∧ (let s := bankAt ((0x16 : BitVec 6) ++ xBody) (fun c => { c with inbox := [(4, 1), (5, 2)] })
      atBankB s bankRun ((0x16 : BitVec 6) ++ xBody) = true ∧ (s.core 40).oldest 5 = some (5, 2) ∧ dieOf 40 ≠ 0)
    ∧ (bankIn 0x16 xBody = true ∧ ((bankAt ((0x16 : BitVec 6) ++ xBody) id).core 40).oldest 5 = none
      ∧ (bankAt ((0x16 : BitVec 6) ++ xBody) id).progAlive 5 (40 - 32) = true)
    ∧ (let s : State := { bankAt ((0x16 : BitVec 6) ++ xBody) id with
        bnk := { (bankAt ((0x16 : BitVec 6) ++ xBody) id).bnk with launches := [] } }
      atBankB s bankRun ((0x16 : BitVec 6) ++ xBody) = true ∧ s.progAlive 5 (40 - 32) = false
        ∧ (s.core 40).flight = [])
    ∧ ((bankAt 0 (fun c => { c with flight := [(5, 1), (5, 2)] })).core 40).flight = [(5, 1), (5, 2)]
    -- the end, the range and the budget
    ∧ bankIn 0x3F 0x0040000 = true
    ∧ (let s := bankAt 0 (fun c => { c with pc := 3 })
      (s.core 40).run = some bankRun ∧ s.mdv.stopCores.contains 40 = false ∧ bankRun.plen ≤ (s.core 40).pc)
    ∧ (let r : BankRun := { bankRun with count := 100 }
      let s := bankAt 0 (fun c => { c with run := some r })
      (s.core 40).run = some r ∧ (s.core 40).pc < r.plen ∧ r.budget ≤ r.count) := by and_intros <;> decide +kernel

/-- A launch record with its bank list at U-address 0x28000, an update record of one tile, then the descriptors of a
GFLUSH: gradient, error terms, two scale vectors, and a gradient with no core. -/
def hubDescs : List Wide :=
  [BitVec.ofNat 256 (0x28000 + 2 ^ 96 + 2 ^ 224 * 100),
   BitVec.ofNat 256 (0x22000 + 2 ^ 64 * 0x24000 + 2 ^ 128 + 2 ^ 160 * 0x3F800000 + 2 ^ 192 * 0x26000),
   mkDesc 0x20000 8 0 0 1, mkDesc 0x20400 8 0 0 1, mkDesc 0x20800 11 3 0 1 + (1 <<< 224),
   mkDesc 0x20C00 11 3 0 1 + (1 <<< 224), mkDesc 0x20000 8 0 0 0]

/-- The bank list: bank 8 with two ingots, bank 40 with one, bank 8 again. The first scale code is `code`. -/
def hubState (code : Byte) : State :=
  { running 0 with
    cast := some { img with desc := hubDescs, bprog := [0xFC000000] }
    lnk := live.lnk
    mem := ([(0x40000800, code), (0x40008000, 8), (0x40008004, 18), (0x40008010, 40), (0x40008014, 9), (0x40008020, 8),
      (0x40008024, 9)] : List Host.Cell).filter (fun e => e.2 != 0) ++ tableCells hubDescs ++ imgMem 0 }

/-- A word of the bank and update classes on that list: `first` entry and `n` of them. -/
def hubArgs (a : BitVec 32) (first n : BitVec 32) : ArrayArgs := ⟨3, 0, 0, a, first, n⟩

/-- The state after the word has left its queue. -/
def hubTaken (s : State) (opc : BitVec 8) (a : ArrayArgs) : State := (queued s opc a).taken (secsOf a.sec) (ent opc a)

/-- A launch of one program on bank 8, pending, running or over. -/
def launchIn (p : ProgState) : State :=
  { hubState 0 with bnk := { live.bnk with launches := [⟨4, 2, 0, 1, 100, [7], 3, [⟨8, 0, 18, 9, p⟩], false⟩] } }

theorem witness_BankLaunches :
    [((0 : BitVec 32), (0 : BitVec 32), true), (0, 2, true), (2, 1, true), (0, 3, false)].all (fun p =>
      let a := hubArgs 0 p.1 p.2.1
      decide ((queued (hubState 0) 0xA0 a).issuing 0xA0 a = some (ent 0xA0 a))
        && (decide (blaunchFlaw a (hubTaken (hubState 0) 0xA0 a) = none) == p.2.2)) = true
    ∧ [((2 : BitVec 32), true), (0x10, false)].all (fun p =>
      let a := hubArgs p.1 0 0
      decide ((queued (launchIn .running) 0xA1 a).issuing 0xA1 a = some (ent 0xA1 a))
        && (decide (bwaitFlaw a = none) == p.2)) = true
    ∧ (hubState 0).bnk.launches = []
    ∧ ((launchIn .pending).bnk.launches.filter (fun l => l.tag == 2)).getLast?.map (·.done) = some false
    ∧ (let s : State := { launchIn .running with
          bnk := { live.bnk with launches := [⟨4, 2, 0, 1, 100, [7], 3, [], true⟩] } }
      (s.bnk.launches.filter (fun l => l.tag == 2)).getLast?.map (·.done) = some true)
    ∧ (launchIn .running).mayStart 8 = none
    ∧ ((launchIn .pending).mayStart 8).isSome = true ∧ (launchIn .pending).mdv.uncorr = none
    ∧ (launchIn .pending).hasRoom 8 = true ∧ (launchIn .pending).lowerWaits 8 = false
    ∧ ((launchIn .pending).bnk.launches.map Launch.finished) = [false]
    ∧ ((launchIn (.ended (some 1) false {})).bnk.launches.map Launch.finished) = [true]
    ∧ ((launchIn .running).bnk.launches.find? (fun x => x.tag == 2 && !x.done)).isSome = true := by
  and_intros <;> decide +kernel

/-- GFLUSH of one core, or none. -/
def flushArgs (z : BitVec 32) : ArrayArgs := ⟨0, 0, 0, z, 0x00030004, 0x0005FFFF⟩

theorem witness_GradientFlush :
    (let a : ArrayArgs := { flushArgs 2 with sec := 3 };
      (queued (hubState 0) 0xA4 a).issuing 0xA4 a = some (ent 0xA4 a)
        ∧ (gflushChecks a (hubTaken (hubState 0) 0xA4 a)).isSome = true)
    ∧ (flushJob (flushArgs 6) (hubTaken (hubState 0) 0xA4 (flushArgs 6))).zeroWork = true
    ∧ gflushChecks (flushArgs 6) (hubTaken (hubState 0) 0xA4 (flushArgs 6)) = none
    ∧ [(0 : Byte), 127, 255].all (fun code =>
      let a := flushArgs 2
      let s1 := hubTaken (hubState code) 0xA4 a
      let j := flushJob a s1
      let c := s1.coreAt .sheet 0
      let r : ResTile := ⟨j.gb, 0, 0, 0⟩
      let uz := j.zSlot r c
      let ue := j.eSlot r c
      let b := j.block r c
      decide ((queued (hubState code) 0xA4 a).issuing 0xA4 a = some (ent 0xA4 a))
        && decide (gflushChecks a s1 = none) && decide (j.cores s1 = [c]) && decide (j.z.tr = 1 ∧ j.z.tc = 1 ∧ j.z.tp = 1)
        && !j.z.slagm && j.ns.isNone
        && !s1.needFails ⟨scaleAt j.scale c b, 1, false, j.scale.index, false⟩
        && !s1.needFails ⟨scaleAt j.escale c b, 1, false, j.escale.index, false⟩
        && !s1.needFails ⟨uz, j.z.size, true, j.z.index, false⟩ && !s1.needFails ⟨ue, j.e.size, true, j.e.index, false⟩
        && decide (s1.scaleCode j.scale c b = code.toNat) && decide (s1.scaleCode j.escale c b = 0)
        && !(s1.acc c.c j.gb).high && decide (j.e.size = 1024) && decide (uz = 0x20000 ∧ ue = 0x20400)
        && decide (s1.paddr 0x20000 = some 0x40000000) && !s1.readOnlyPage 2
        && !(s1.acc c.c j.gb).f32) = true := by and_intros <;> decide +kernel

/-- The two slots are open, the second also after the first is written, and 1,024 elements are flushed. -/
theorem witness_GradientFlush_slots {s1 : State} (place : s1.paddr 0x20000 = some 0x40000000)
    (ro : s1.readOnlyPage 2 = false) :
    ∃ pz pe, s1.slotOpen 0x20000 1024 pz
      ∧ (∀ bs : List Byte, (s1.putBytes (pz.zip bs)).slotOpen 0x20400 1024 pe)
      ∧ ∀ (c t : Nat) (f : Machine.Num × Byte → FlushElem),
        (((s1.acc c t).flushValues.zip (s1.slotBytes 0x20400 1024)).map f).length = 1024 := by
  refine ⟨runAt 0x40000000 1024, runAt 0x40000400 1024,
    slotOpen_t1 (u := 0x20000) place (by decide) (by decide) (by decide) (by decide) ro, fun bs => ?_, fun c t f => ?_⟩
  · refine slotOpen_same (sameMap_putBytes (fun q m => ?_))
      (slotOpen_t1 (u := 0x20400) place (by decide) (by decide) (by decide) (by decide) ro) (fun q m => ?_)
    · have := mem_runAt (List.of_mem_zip (show (q.1, q.2) ∈ _ from m)).1
      have : t2Base = 1099511627776 := rfl
      omega
    · have := mem_runAt m
      exact low_not_t2 (by unfold t2Base; omega)
  · have l1 : (s1.acc c t).flushValues.length = 1024 := by
      unfold Acc.flushValues
      split
      · exact List.length_replicate
      · rw [values_length, acc_length]
    have l2 : (s1.slotBytes 0x20400 1024).length = 1024 := by
      unfold State.slotBytes
      rw [translRun_t1 (u := 0x20400) place (by decide) (by decide) (by decide), Option.getD_some, List.length_map,
        runAt_length]
    rw [List.length_map, List.length_zip, l1, l2, Nat.min_self]

/-- `hubState` with an ingot of bank 8 at work for a STEPABORT, `left` being what is to do. -/
def abortAt (left : List (Nat × Nat)) : State :=
  let s := hubState 0
  { s with bnk := { s.bnk with work := some ⟨ent 0xA7 (hubArgs 0 0 1), .abort, 2, [⟨8, 0, 0, 18, left, true⟩], {}, 0, 0, 0,
    [], 0⟩ } }

theorem witness_UpdateWords :
    [((0xA5 : BitVec 8), false), (0xA6, false), (0xA7, true)].all (fun p => [(0 : BitVec 32), 1].all (fun ok =>
      let a := hubArgs (if p.2 then 0 else 1) 0 (1 + 2 * (1 - ok))
      due (queued (hubState 0) p.1 a) p.1 a
        && (decide (hubChecks p.2 a (hubTaken (hubState 0) p.1 a) = none) == (ok == 1)))) = true
    ∧ (let a := hubArgs 1 0 1
      (hubJob false a (hubTaken (hubState 0) 0xA5 a)).ingots = [(8, 0), (8, 9)]
        ∧ (hubState 0).windowHit [bankAddr 8 8 0] = none ∧ (hubState 0).windowHit [bankAddr 8 17 0] = none)
    ∧ [((1 : BitVec 32), (0 : BitVec 32)), (1, 1), (3, 1)].all (fun n =>
      let a := hubArgs 0 n.1 n.2
      let h := hubJob true a (hubTaken (hubState 0) 0xA7 a)
      due (queued (hubState 0) 0xA7 a) 0xA7 a && decide (hubChecks true a (hubTaken (hubState 0) 0xA7 a) = none)
        && decide (h.count = n.2.toNat) && (decide (h.ingots = [(40, 0)]) == (n == (1, 1)))
        && (decide (h.ingots = []) != (n == (1, 1)))) = true := by
  and_intros <;> decide +kernel

theorem witness_UpdateWords_abort : [[(0, 0)], [(0, 0), (1, 9)]].all (fun left =>
    let s := abortAt left
    s.bnk.work.all (fun w => w.kind == .abort && w.tasks.all (fun k => k.started && k.left == left && !s.pulling w.ent.seq k.bank))
      && s.pending.isEmpty && s.held.isEmpty && s.mdv.uncorr.isNone && !s.stopped .mdv
      && s.bnk.work.isSome) = true := by decide +kernel

theorem readFor_t1 {s : State} {u n p : Nat} (got : s.lnk.got = []) (place : s.paddr (0x10000 * (u / 0x10000)) = some p)
    (inside : u % 0x10000 + n ≤ 0x10000) (low : t1Base ≤ p) (high : p + 0x10000 ≤ t1End) :
    ∃ bs, s.readFor u n = some bs ∧ bs.length = n := by
  unfold State.readFor State.slotRefused State.readU
  rw [got, translRun_t1 place inside low high]
  exact ⟨_, rfl, by rw [List.length_map, runAt_length]⟩

/-- One byte so read. -/
theorem readFor_one {s : State} {u : Nat} (h : ∃ bs, s.readFor u 1 = some bs ∧ bs.length = 1) :
    ∃ c, s.readFor u 1 = some [c] := by
  obtain ⟨bs, e, l⟩ := h
  match bs, l with
  | [c], _ => exact ⟨c, e⟩

/-- A row of bank 8 lies clear of the tier map of `img`. -/
theorem row_clear {s : State} {c : CastImg} {p : Nat} {l : List Byte} (hc : s.cast = some c) (map : c.tmap = img.tmap)
    (ok : s.mdv.diff = []) (len : p + l.length ≤ t2Base + devSize) : SameMap s (s.putRun p l) :=
  sameMap_of (putRun_onlyBytes l s p) (fun d k i hd hk hi => by
    rw [readByte_clean ok, readByte_clean (putRun_clean l s p ok)]
    refine putRun_other l s p _ ?_
    rw [hc] at hd
    injection hd with hd
    subst hd
    have h1 : c.tmap.addr = 0x103000 := by rw [map]; rfl
    have h2 : c.tmap.count = 64 := by rw [map]; rfl
    have st : (c.tmap.addr + 8 * k + i) / 4096 % 24 = 19 := by omega
    right
    unfold unstripe
    dsimp only
    rw [st]
    omega)

/-- What GDEPOSIT and GHARV read and write of two ingots on bank 8 exists, also after the first has moved. -/
theorem witness_UpdateWords_moves {s1 : State} {c : CastImg} (hc : s1.cast = some c) (map : c.tmap = img.tmap)
    (place : s1.paddr 0x20000 = some 0x40000000) (got : s1.lnk.got = []) (ok : s1.mdv.diff = [])
    (ro : s1.readOnlyPage 2 = false) :
    (∃ bs, s1.readFor 0x22000 4096 = some bs) ∧ (∃ c0, s1.readFor 0x24000 1 = some [c0])
    ∧ (∀ l : List Byte, l.length ≤ 2048 → (∃ bs, (s1.putRun (bankAddr 8 8 0) l).readFor 0x22000 4096 = some bs)
      ∧ ∃ c1, (s1.putRun (bankAddr 8 8 0) l).readFor 0x24000 1 = some [c1])
    ∧ ∃ p0 p1, s1.slotOpen 0x26000 1024 p0 ∧ ∀ l, (s1.putBytes (p0.zip l)).slotOpen (0x26000 + 1024) 1024 p1 := by
  have sum {s : State} (g : s.lnk.got = []) (p : s.paddr 0x20000 = some 0x40000000) : ∃ bs, s.readFor 0x22000 4096 = some bs :=
    (readFor_t1 (u := 0x22000) g p (by decide) (by decide) (by decide)).imp fun _ h => h.1
  have scl {s : State} (g : s.lnk.got = []) (p : s.paddr 0x20000 = some 0x40000000) : ∃ c, s.readFor 0x24000 1 = some [c] :=
    readFor_one (readFor_t1 (u := 0x24000) g p (by decide) (by decide) (by decide))
  refine ⟨sum got place, scl got place, fun l hl => ?_, runAt 0x40006000 1024, runAt 0x40006400 1024,
    slotOpen_t1 (u := 0x26000) place (by decide) (by decide) (by decide) (by decide) ro, fun l => ?_⟩
  · have e : bankAddr 8 8 0 + 2048 ≤ t2Base + devSize := by decide
    have r : SameMap s1 (s1.putRun (bankAddr 8 8 0) l) := row_clear hc map ok (by omega)
    have place := (paddr_same r 0x20000).trans place
    have got : (s1.putRun (bankAddr 8 8 0) l).lnk.got = [] := by rw [sameMap_lnk r, got]
    exact ⟨sum got place, scl got place⟩
  · refine slotOpen_same (sameMap_putBytes (fun q m => ?_))
      (slotOpen_t1 (u := 0x26400) place (by decide) (by decide) (by decide) (by decide) ro) (fun q m => ?_)
    · have := mem_runAt (List.of_mem_zip (show (q.1, q.2) ∈ _ from m)).1
      have : t2Base = 1099511627776 := rfl
      omega
    · have := mem_runAt m
      exact low_not_t2 (by unfold t2Base; omega)

theorem witness_UpdateWords_state (opc : BitVec 8) (h : opc = 0xA5 ∨ opc = 0xA6) :
    (hubTaken (hubState 0) opc (hubArgs 1 0 1)).paddr 0x20000 = some 0x40000000
    ∧ (hubTaken (hubState 0) opc (hubArgs 1 0 1)).lnk.got = []
    ∧ (hubTaken (hubState 0) opc (hubArgs 1 0 1)).mdv.diff = []
    ∧ (hubTaken (hubState 0) opc (hubArgs 1 0 1)).readOnlyPage 2 = false
    ∧ (hubTaken (hubState 0) opc (hubArgs 1 0 1)).cast.map (·.tmap) = some img.tmap := by
  rcases h with e | e <;> subst e <;> and_intros <;> decide +kernel

/-- `live` with one port changed. -/
def withPort (s : State) (p : Nat) (f : Port → Port) : State := s.putPort p (f (s.port p))

/-- A port of `live` in another state. -/
def portIn (p : Nat) (n : BitVec 4) : State := withPort live p (fun q => { q with state := n })

def withLnk (s : State) (f : Lnk → Lnk) : State := { s with lnk := f s.lnk }

theorem witness_PortStates :
    [0, 5, 6, 7].all (fun p => let n := if p < 6 then 8 else if p = 6 then 16 else 4
      decide (widthOf p 0xFFFF = some (n, false))
      && decide (widthOf p ((0xFFFF : BitVec 16) <<< (n / 2)) = some (n / 2, true))
      && decide (widthOf p ((0xFFFF : BitVec 16) >>> (16 - n / 2)) = some (n / 2, true))
      && decide (widthOf p 0xFEEA = none) && !bitAt (0xFEEA : BitVec 16) 0 && !bitAt (0xFEEA : BitVec 16) (n / 2)) = true
    ∧ ((portIn 4 1).port 4).state = 1 ∧ ((portIn 5 1).port 5).state = 1
    ∧ [(2 : BitVec 4), 5].all (fun n => [6, 7].all (fun p => decide (((portIn p n).port p).state = n)
        && decide (((portIn p n).portProt p = true) ↔ p = 6))) = true
    ∧ (portIn 6 2).flash.fabric = [] ∧ (portIn 6 2).port 6 ≠ portUp
    ∧ (let s : State := { portIn 6 5 with flash := { live.flash with fabric := List.replicate 32 1 } }
      s.flash.fabric ≠ [] ∧ (s.port 6).known = true ∧ (s.port 6).neigh ≠ 9 ∧ (s.port 6).state = 5)
    ∧ ((portIn 7 2).port 7).neigh = 7
    ∧ ((withPort (portIn 7 2) 7 (fun q => { q with known := false })).port 7).known = false
    ∧ ((portIn 0 3).port 0).state = 3 ∧ (live.port 7).isUp = true ∧ (live.port 6).isUp = true
    ∧ ((portIn 0 6).port 0).isUp = false ∧ ((portIn 6 7).port 6).isUp = true
    ∧ (live.port 4).state = 4 ∧ fldN live.lnk.set.current.cfg 48 16 = 600
    ∧ [(false, (8 : Nat), (1 : Nat)), (true, 0, 2)].all (fun p =>
      let s := withPort { live with bea := { live.bea with count := BitVec.ofNat 64 (600000000 * p.2.2) } } 4
        (fun q => { q with busy := p.1, quiet := p.2.1 })
      decide (s.bea.count.toNat - (s.port 4).annealed.toNat = 600000000 * p.2.2)
        && decide ((s.port 4).busy = p.1 ∧ (s.port 4).quiet = p.2.1)) = true
    ∧ (let s := withLnk live (fun l => { l with set := Epoched.at { l.set.current with cfg := 0 } })
      fldN s.lnk.set.current.cfg 48 16 = 0)
    ∧ ((portIn 4 7).port 4).state = 7
    ∧ live.lnk.take = true
    ∧ (let s := withLnk live (fun l => { l with take := false })
      s.lnk.take = false ∧ ∀ p, p < 6 → (s.port p).looped = true)
    ∧ (let s := withLnk (withPort live 3 (fun q => { q with looped := false })) (fun l => { l with take := false })
      s.lnk.take = false ∧ (s.port 3).looped = false) := by and_intros <;> decide +kernel

theorem witness_PortStates_host : live.hostMay 2 0x0D0010 := live_may _ _ (by decide)

/-- Module 5; frames to 7 leave on P2, to 4 on P2 behind its dateline, to 6 on P7, to 3 nowhere; P1 down. -/
def wired : State :=
  withLnk (portIn 1 6) (fun l => { l with
    set := Epoched.at { l.set.current with id := 0x50000, rt := [(0, 0x0207012201020101)], exp := [
      (1, 0xC000000000000020 ||| (0x1000000 : Word) <<< 32)] } })

/-- A header of a frame that is next in order. -/
def hdr (dst : BitVec 18) (tag : BitVec 13) : FrameHdr := ⟨false, 0, 0, dst, 7, tag, 0, 8, 0, true⟩

/-- Nothing keeps a data frame on port `p` waiting, and the next SEQ is 0. -/
def clearPort (s : State) (p : Nat) : Bool :=
  (s.port p).isUp && (s.port p).rxSeq == 0 && s.held.isEmpty && s.framesFlow && p != 7 && !(s.port p).prot

theorem clear_inOrder {s : State} {p : Nat} {type : BitVec 4} {h : FrameHdr} (b : clearPort s p = true) (seq : h.seq = 0)
    (len : h.len = 8) : s.inOrder p type h := by
  unfold clearPort at b
  simp only [Bool.and_eq_true, beq_iff_eq, bne_iff_ne, Bool.not_eq_true', List.isEmpty_iff] at b
  obtain ⟨⟨⟨⟨⟨up, rx⟩, held⟩, flow⟩, p7⟩, prot⟩ := b
  refine ⟨⟨up, ?_, by rw [len]; decide⟩, flow, (fun f m => by rw [held] at m; cases m), by rw [State.isProtected, if_neg p7]; exact prot⟩
  rw [seq, State.rxNext, rx, State.heldOn, held]
  rfl

/-- A frame for module 5 so arrives; and in every state whose links stand alike. -/
theorem clear_arrives {s : State} {p : Nat} {type : BitVec 4} {h : FrameHdr} (b : clearPort s p = true) (seq : h.seq = 0)
    (len : h.len = 8) (own : s.isOwn 5 = true) (dst : h.dst = 5) : s.arrives p type h :=
  ⟨clear_inOrder b seq len, by rw [State.consumes, dst, own]; rfl⟩

theorem arrives_as {s g : State} {p : Nat} {type : BitVec 4} {h : FrameHdr} (a : s.arrives p type h) (lnk : g.lnk = s.lnk)
    (fn : g.fn.lnk = s.fn.lnk) (sys : g.sys = s.sys) (held : g.held = s.held) (sec : g.sec = s.sec) : g.arrives p type h := by
  have port : ∀ k, g.port k = s.port k := fun k => by unfold State.port; rw [lnk]
  have flow : g.framesFlow = s.framesFlow := by
    unfold State.framesFlow State.stopped State.fnState FnRegs.get; rw [fn, sys]
  have own : ∀ d, g.isOwn d = s.isOwn d := fun d => by unfold State.isOwn State.ownId; rw [lnk]
  unfold State.arrives State.inOrder State.nextOn State.actsNow State.consumes State.rxNext State.heldOn State.isProtected at *
  rw [port, flow, own, held, sec]
  exact a

theorem wired_clear : clearPort wired 0 = true ∧ clearPort wired 3 = true ∧ clearPort wired 6 = true ∧ wired.isOwn 5 = true := by
  and_intros <;> decide +kernel

theorem wired_inOrder (type : BitVec 4) (dst : BitVec 18) (tag : BitVec 13) :
    wired.inOrder 0 type (hdr dst tag) ∧ wired.inOrder 6 type (hdr dst tag) :=
  ⟨clear_inOrder wired_clear.1 rfl rfl, clear_inOrder wired_clear.2.2.1 rfl rfl⟩

theorem wired_arrives (type : BitVec 4) (tag : BitVec 13) : wired.arrives 0 type (hdr 5 tag) :=
  clear_arrives wired_clear.1 rfl rfl wired_clear.2.2.2 rfl

/-- `wired` with LNK STOPPED, and a frame held on P0. -/
def heldUp (c : Instr) : State :=
  { wired with fn := (withFn .lnk ⟨.stopped, 1, 1, false⟩).fn, held := [⟨0, 1, channelOf 2 false, true, c⟩] }

theorem witness_FramesOnPorts :
    (wired.port 1).isUp = false ∧ (wired.port 0).isUp = true ∧ wired.framesFlow = true ∧ wired.held = []
    ∧ (hdr 5 0).seq = wired.rxNext 0 ∧ wired.rxNext 0 ≠ 1 ∧ (hdr 5 0).len.toNat ≤ 8
    ∧ (let c := Instr.rreq 0 (hdr 7 0) 0 64
      (heldUp c).framesFlow = false ∧ (heldUp c).heldFirst.contains ⟨0, 1, channelOf 2 (hdr 7 0).vch, true, c⟩ = true
        ∧ (dataFrames 0 (hdr 7 0) 0 64 []).any (fun f => f.2.2 == c) = true
        ∧ (heldUp .lnkCtrlTake).rxNext 0 = 1 ∧ ((heldUp .lnkCtrlTake).held.all (fun g => g.cmd != c)) = true)
    ∧ (let c := Instr.rreq 0 (hdr 7 0) 0 64
      let s : State := { heldUp c with fn := wired.fn }
      s.framesFlow = true ∧ s.heldFirst.contains ⟨0, 1, channelOf 2 (hdr 7 0).vch, true, c⟩ = true)
    ∧ (dataFrames 0 (hdr 7 0) 0 64 []).all (fun f => !wired.consumes 0 f.1 (hdr 7 0)) = true
    ∧ wired.consumes 0 2 (hdr 5 0) = true ∧ wired.consumes 6 2 (hdr 7 0) = true ∧ wired.consumes 7 12 (hdr 7 0) = true
    ∧ fldN wired.lnk.set.current.cfg 0 5 = 31 ∧ (hdr 7 0).hops.toNat + 1 ≤ 31
    ∧ wired.wayTo 7 = some 2 ∧ (wired.port 2).joined = true ∧ wired.route 4 = (2, true) ∧ wired.wayTo 6 = some 7
    ∧ wired.wayTo 3 = some 1 ∧ (wired.port 1).joined = false ∧ wired.wayTo 8 = none
    ∧ (let s := withLnk wired (fun l => { l with set := Epoched.at { l.set.current with cfg := 1 } })
      fldN s.lnk.set.current.cfg 0 5 < ({ hdr 7 0 with hops := 1 } : FrameHdr).hops.toNat + 1)
    ∧ (wired.port 7).known = true ∧ (wired.port 0).known = true ∧ (wired.port 0).neigh = 7 ∧ (wired.port 0).out = []
    ∧ wired.isProtected 0 = false ∧ wired.isProtected 7 = true
    ∧ (withPort wired 0 (fun q => { q with prot := true, fails := 7 })).isProtected 0 = true
    ∧ ((withPort wired 0 (fun q => { q with known := false })).port 0).known = false := by
  and_intros <;> decide +kernel

/-- A stamp that does not match: the receiver counts, and P0 is its stamp port. -/
theorem witness_FramesOnPorts_stamp :
    let s : State := { wired with bea := { wired.bea with srcAct := 2, hold := false, started := true, count := 9 } }
    fld (7 : BitVec 18) 12 6 = fld s.ownId 12 6 ∧ s.bea.count ≠ 8 ∧ s.bea.srcAct = 2 ∧ s.bea.hold = false
      ∧ s.bea.started = true ∧ fldN s.bea.ctrl 8 3 = 0 := by and_intros <;> decide +kernel

theorem witness_HopLimit (tag : BitVec 13) :
    ∀ f ∈ dataFrames 0 (hdr 7 tag) 0 64 [], wired.inOrder 0 f.1 (hdr 7 tag) := fun f _ => (wired_inOrder f.1 7 tag).1

/-- Writes of a remote requester that are arriving. -/
def arriving (w : InWrite) : State := withLnk wired (fun l => { l with inWrites := [w] })

/-- `wired` with the banks of `bankAt`, whose working window is rows 100 and 101 of bank 40, and a window on all of T2. -/
def windowed : State :=
  { bankAt 0 id with lnk := { wired.lnk with set := Epoched.at { wired.lnk.set.current with exp := [
      (1, 0xC000000000000020 ||| (0x1000000 : Word) <<< 32), (2, 0xC000000001FFFFFF ||| (0x1000000 : Word) <<< 32)] } } }

theorem windowed_arrives (type : BitVec 4) (tag : BitVec 13) : windowed.arrives 0 type (hdr 5 tag) :=
  clear_arrives (by decide +kernel) rfl rfl (by decide +kernel) rfl

theorem arriving_arrives (w : InWrite) (type : BitVec 4) (tag : BitVec 13) : (arriving w).arrives 0 type (hdr 5 tag) :=
  wired_arrives type tag

theorem witness_RemoteRequests :
    wired.serves 0 true 0x1000000FFC0 64 = true ∧ wired.serves 0 true 0x100001FFFC0 64 = true
    ∧ wired.serves 0 true 0x100001FFFC0 128 = false ∧ wired.serves 0 false 0x40000000 64 = false
    ∧ bitAt (smGet 0 wired.lnk.set.current.exp 1) 61 = false
    ∧ (hdr 5 3).src = 7 ∧ wired.wayTo 7 = some 2 ∧ (wired.port 2).joined = true ∧ (wired.port 6).joined = true
    ∧ wired.isOwn 7 = false
    ∧ (wired.canonRun 0x1000000FFC0 64).isSome = true ∧ (wired.canonRun 0x10000000000 1024).isSome = true
    ∧ wired.remoteWaits .hubRead 0x10000000000 64 = false ∧ wired.remoteWaits .hubWrite 0x10000000000 64 = false
    ∧ ({ wired with fn := (withFn .mdv ⟨.stopped, 1, 1, false⟩).fn } : State).stopped .mdv = true
    ∧ windowed.serves 0 false (bankAddr 40 5 0) 64 = true
    ∧ windowed.bankBusy .hubRead (windowed.remoteRun (bankAddr 40 5 0) 64) = true
    ∧ (((wired.canonRun 0x10000000000 64).getD []).all (fun q => !wired.unsealedAt q)) = true
    ∧ (wired.putUnsealed (rowOf 0x10000000000) true).unsealedAt 0x10000000000 = true
    ∧ (let w : InWrite := ⟨0, 7, 3, 0x10000000000, 128, 0, false⟩
      (arriving w).lnk.inWrites.find? (fun x => x.of 0 (hdr 5 3)) = some w
      ∧ ((arriving w).canonRun 0x10000000000 64).isSome = true
      ∧ (arriving w).remoteWaits .hubWrite (w.addr + 512 * (hdr 5 3).off.toNat) 64 = false ∧ w.got + 64 < w.len ∧ w.len ≤ w.got + 128)
    ∧ (let w : InWrite := ⟨0, 7, 3, 0x10000000000, 64, 0, true⟩
      (arriving w).lnk.inWrites.find? (fun x => x.of 0 (hdr 5 3)) = some w ∧ w.len ≤ w.got + 64)
    ∧ wired.windowHit ((wired.canonRun 0x10000000000 64).getD []) = none
    ∧ windowed.serves 0 true (bankAddr 40 101 1984) 64 = true
    ∧ (windowed.windowHit ((windowed.canonRun (bankAddr 40 101 1984) 64).getD [])).isSome = true
    ∧ wired.lnk.inWrites.find? (fun x => x.of 0 (hdr 5 3)) = none := by and_intros <;> decide +kernel

/-- A remote request for a page in move. -/
theorem witness_RemoteRequests_move :
    let s : State := { running 0 with
      cnd := { (running 0).cnd with adm := .running }
      tmv := { (running 0).tmv with moving := [⟨0, 0, 0x4000000, false, 5⟩] } }
    s.placeMoves [0x10000050000, 0x10000050001] = true := by decide +kernel

/-- Transactions of `windowed`. -/
def pendingOn (l : List Transaction) : State := { windowed with lnk := { windowed.lnk with trans := l } }

/-- A read or a write of 1,024 bytes in aperture 32, with tag 3. -/
def transBy (write : Bool) (got : Nat) (who : Requester) : Transaction :=
  ⟨3, write, 0x120000000000, 1024, got, 0, false, who, 0⟩

/-- That transaction alone. -/
def pendingBy (write : Bool) (got : Nat) (who : Requester) : State := pendingOn [transBy write got who]

theorem pendingBy_arrives (write : Bool) (got : Nat) (who : Requester) (type : BitVec 4) (tag : BitVec 13) :
    (pendingBy write got who).arrives 0 type (hdr 5 tag) := windowed_arrives type tag

theorem pendingBy_trans (write : Bool) (got : Nat) (who : Requester) :
    (pendingBy write got who).transOf 3 = some (transBy write got who) := rfl

/-- The same transaction made in beat 0, at beat 1 or 2, with LNK_CFG.WARN 1 or 0. -/
def stalling (n : Word) (warn : Word) (warned : Bool) : State :=
  { live with
    bea := { live.bea with count := n }
    lnk := { live.lnk with
      set := Epoched.at { live.lnk.set.current with cfg := warn <<< 8 }
      trans := [⟨3, false, 0, 64, 0, 0, warned, .conductor, 0⟩] } }

theorem witness_OwnTransactions :
    0 + 512 < 1024 ∧ 1024 ≤ 512 + 512 ∧ (windowed.port 7).isUp = true ∧ windowed.lnk.stalled = []
    ∧ (pendingBy false 512 (.pull 9 41 7)).windowHit [bankAddr 41 7 0] = none
    ∧ (pendingBy false 512 .conductor).running .cnd = false ∧ (running 0).running .cnd = true
    ∧ windowed.transOf 3 = none ∧ windowed.lnk.abandoned = []
    ∧ (let s : State := { windowed with lnk := { windowed.lnk with abandoned := [3, 3] } }
      s.transOf 3 = none ∧ (3 : BitVec 13).toNat ∈ s.lnk.abandoned)
    ∧ (let x := transBy true 0 (.host 1 0 5 [])
      let y : Transaction := { x with tag := 4, paddr := 0x120000001000 }
      (pendingOn [x, y]).transOf 3 = some x ∧ ofAccess y 5 = true ∧ y.tag ≠ x.tag
      ∧ (pendingOn [x]).lnk.trans.all (fun z => z.tag == x.tag || !ofAccess z 5) = true)
    ∧ (let x : Issued := ⟨5, 0xAA, 1, .transfers [0], []⟩
      ({ pendingBy true 0 (.word 5 .tmv) with sheet := { windowed.sheet with issued := [x] } } : State).sheet.issued = [x])
    ∧ (let s := stalling 2 1 false
      fldN s.lnk.set.current.cfg 8 32 = 1 ∧ (s.lnk.trans.find? (fun y => y.tag == 3)).isSome = true
      ∧ (s.lnk.trans.all (fun y => !y.warned && decide (y.since.toNat + 1 < s.bea.count.toNat))) = true)
    ∧ ¬ (0 : Word).toNat + 1 < (stalling 1 1 false).bea.count.toNat
    ∧ fldN (stalling 2 0 false).lnk.set.current.cfg 8 32 = 0 := by and_intros <;> decide +kernel

/-- Aperture 32 names module 7. -/
def sending : State := withLnk wired (fun l => { l with aps := [(32, 0xC000000000000000 ||| (7 : Word) <<< 42)] })

/-- A read may be sent: no own write overlaps it and a TAG is free; or it waits for the write, or for a TAG. -/
theorem witness_OwnTransactions_send :
    ((∃ n, n < 8192 ∧ ∀ y ∈ sending.lnk.trans, y.tag ≠ n) ∧ sending.lnk.stalled = [])
    ∧ (sending.lnk.trans = [] ∧ sending.apWay 0x120000000000 = some 2 ∧ (sending.port 2).joined = true)
    ∧ ((transBy true 0 .conductor).write = true ∧ 0x120000000000 < (transBy true 0 .conductor).paddr + 1024
        ∧ (transBy true 0 .conductor).paddr < 0x120000000000 + 64)
    ∧ ∀ n, n < 8192 → ∃ y ∈ (List.range 8192).map (fun n => { transBy false 0 .conductor with tag := n }), y.tag = n :=
  ⟨⟨⟨0, by decide, nofun⟩, rfl⟩, ⟨rfl, by decide +kernel, by decide +kernel⟩, by decide,
    fun _ h => ⟨_, List.mem_map.mpr ⟨_, List.mem_range.mpr h, rfl⟩, rfl⟩⟩

/-! ## Collectives -/

/-- An int8 operand, an FP32 and an int8 result of one tile; the int8 ones also of two. -/
def collDescs : List Wide :=
  [mkDesc 0x20000 8 0 0 1, mkDesc 0x21000 0 0 0 1, mkDesc 0x22000 8 0 0 1, mkDesc 0x20000 8 0 0 1 + (1 <<< 64),
   mkDesc 0x23000 8 0 0 1 + (1 <<< 64)].map (· + (1 <<< 224))

/-- Group 0 has one member; group 1 has two, of which this module is member `m` and module 7 the other. -/
def groupTable (m : Word) : SMap Word :=
  [(0, 0x8000000000000009), (1, 1 <<< 39), (2, 1 <<< 39), (3, 1 <<< 39),
   (4, 0x800000000000000A), (5, m <<< 52 ||| 2 <<< 39 ||| 7 <<< 18 ||| 7), (6, 1 <<< 39), (7, 1 <<< 39)]

/-- `wired` in a cast with those descriptors and groups, FOL in RUN, with instances and held frames. -/
def collState (m : Word) (l : List Inst) (f : List HeldFrame) : State :=
  { running 0 with
    cast := some { img with desc := collDescs }
    lnk := wired.lnk
    fn := { (running 0).fn with fol := ⟨.run, 1, 1, false⟩ }
    fol := { Fol.atReset with set := Epoched.at (groupTable m), insts := l, held := f }
    mem := ([(0x40000000, 1), (0x40000001, 255)] : List Host.Cell) ++ tableCells collDescs ++ imgMem 0 }

/-- A word of the collective unit with group, operation, operands and root. -/
def collArgs (g op x z : Nat) (flg : BitVec 8) : ArrayArgs :=
  ⟨3, 0, flg, BitVec.ofNat 32 (g + 2 ^ 16 * op), BitVec.ofNat 32 x, BitVec.ofNat 32 z⟩

/-- The entry of that word, with the summary values that it reads. -/
def collEnt (opc : BitVec 8) (a : ArrayArgs) (srcs : List (BitVec 4 × Option Word)) : QEnt :=
  { ent opc a with srcs := srcs }

/-- That word at the head of the hub queue, with its instance. -/
def collQueued (m : Word) (opc : BitVec 8) (a : ArrayArgs) (srcs : List (BitVec 4 × Option Word)) (l : List Inst) : State :=
  let s := collState m l []
  { s with sheet := { s.sheet with qH := [collEnt opc a srcs] } }

/-- The instance of that word. -/
def instFor (opc : BitVec 8) (a : ArrayArgs) (num : Nat) (k : InstKind) : Inst :=
  Inst.numbered (fldN a.a 0 16) num 5 k (arrayWord opc a)

/-- The word issues, may start, and has that instance. -/
def collGoes (s : State) (opc : BitVec 8) (a : ArrayArgs) (e : QEnt) (i : Inst) : Bool :=
  decide (s.issuing opc a = some e) && s.lnk.aps.isEmpty && s.tmv.moving.isEmpty
    && s.collReady opc (secsOf a.sec) e && decide (s.instOf e.seq = some i)

/-- Such a word goes, whatever its effect. -/
theorem collGoes_goes {s : State} {opc : BitVec 8} {a : ArrayArgs} {e : QEnt} {i : Inst} (h : collGoes s opc a e i = true)
    (effect : QEnt → State → State) : s.goes opc a effect e := by
  unfold collGoes at h
  simp only [Bool.and_eq_true, decide_eq_true_eq] at h
  refine ⟨h.1.1.1.1, ?_⟩
  rw [State.tried, if_pos (Bool.and_eq_true_iff.mpr ⟨h.1.1.1.2, h.1.1.2⟩)]
  rfl

/-- For each collective word: its fields on group `g`. -/
def collFor (opc : BitVec 8) (g : Nat) : ArrayArgs :=
  if opc = 0xB0 then collArgs g 4 3 0 0x80
  else if opc = 0xB1 then collArgs g 0 (if g = 0 then 0 else 3) 1 0
  else if opc = 0xB2 then collArgs g 0 0 (if g = 0 then 2 else 4) 0
  else if opc = 0xB3 then collArgs g 3 0 1 0
  else if opc = 0xB4 then collArgs g 0 0 2 0
  else collArgs g 0 0 0 0

/-- The state with tile word `opc` on group `g` at the head of the queue. -/
def tileAt (m : Word) (opc : BitVec 8) (g : Nat) (k : InstKind) : State :=
  collQueued m opc (collFor opc g) [] [instFor opc (collFor opc g) 2 k]

theorem witness_CollectiveWords :
    [(0xB0 : BitVec 8), 0xC2].all (fun opc => let a := collFor opc 0
      let k : InstKind := if opc = 0xB0 then .scalar 4 else .barrier 0
      let i := instFor opc a 9 k
      let e := collEnt opc a [(3, some 7)]
      collGoes (collQueued 0 opc a e.srcs [i]) opc a e i
      && (let s := collQueued 0 opc a e.srcs [{ i with num := 1, seq := 4, started := true }, i]
        decide (s.issuing opc a = some e) && !s.collReady opc (secsOf a.sec) e)) = true
    ∧ tileWords.all (fun p => let a := collFor p.2.1 0
      let i := instFor p.2.1 a 2 (p.2.2 a)
      let b := { a with b := 0xFF }
      collGoes (tileAt 0 p.2.1 0 (p.2.2 a)) p.2.1 a (collEnt p.2.1 a []) i
      && (let s := collQueued 0 p.2.1 b [] [instFor p.2.1 b 2 (p.2.2 b)]
        (collChecks b (p.2.2 b) (s.taken (secsOf b.sec) (collEnt p.2.1 b []))).isSome
        && collGoes s p.2.1 b (collEnt p.2.1 b []) (instFor p.2.1 b 2 (p.2.2 b)))) = true
    ∧ (let a := collArgs 0 10 3 0 0x80
      let e := collEnt 0xB0 a [(3, some 7)]
      let s := collQueued 0 0xB0 a e.srcs [instFor 0xB0 a 2 (.scalar 10)]
      collGoes s 0xB0 a e (instFor 0xB0 a 2 (.scalar 10)) = true
      ∧ (cscalChecks a (s.taken (secsOf a.sec) e)).isSome = true)
    ∧ (let a := collArgs 0 0 0 0 0
      let s := collQueued 0 0xB5 a [] [{ instFor 0xB0 a 2 (.scalar 1) with seq := 4 }]
      due s 0xB5 a = true ∧ s.collReady 0xB5 (secsOf a.sec) (ent 0xB5 a) = true
      ∧ cwaitChecks a (s.taken (secsOf a.sec) (collEnt 0xB5 a [])) = none
      ∧ s.fol.insts.any (fun x => !x.abandoned && x.grp == 0 && decide (x.seq < 5)) = true)
    ∧ (let a := collArgs 0 0 0 0 0
      let s := collQueued 0 0xB5 a [] [{ instFor 0xB0 a 2 (.scalar 1) with seq := 4, abandoned := true }]
      s.fol.insts.all (fun x => x.abandoned) = true ∧ due s 0xB5 a = true)
    ∧ (let a := collArgs 3 0 0 0 0
      let s := collQueued 0 0xB5 a [] []
      due s 0xB5 a = true ∧ s.collReady 0xB5 (secsOf a.sec) (ent 0xB5 a) = true
      ∧ (cwaitChecks a (s.taken (secsOf a.sec) (collEnt 0xB5 a []))).isSome = true)
    ∧ (let s := collState 0 [] []
      s.issuing 0xB5 (collArgs 0 0 0 0 0) = none ∧ s.reservedDue 0xB5 = none)
    ∧ (let i : Inst := { instFor 0xB0 (collFor 0xB0 0) 2 (.scalar 4) with started := true }
      let i : Inst := { i with ring := { i.ring with done := true } }
      let s := collState 0 [i] []
      s.instOf 5 = some i ∧ i.inFlight = true ∧ i.finished (s.groupAt i.grp) = true ∧ s.running .fol = true)
    ∧ (let i : Inst := { instFor 0xB0 (collFor 0xB0 0) 2 (.scalar 4) with started := true, beat := 3 }
      let s : State := { collState 0 [i] [] with bea := { live.bea with count := 10, bar := 6 <<< 8 } }
      s.instOf 5 = some i ∧ i.inFlight = true ∧ i.warned = false ∧ fldN s.bea.bar 8 32 = 6
      ∧ i.beat.toNat + 6 < s.bea.count.toNat) := by and_intros <;> decide +kernel

/-- The word at the head of the hub queue has no source open, and the same word in a section that is not clear. -/
theorem witness_CollectiveWords_wait :
    (let a := collFor 0xB0 0
      let e := collEnt 0xB0 a [(3, none)]
      let s := collQueued 0 0xB0 a e.srcs [instFor 0xB0 a 2 (.scalar 4)]
      s.issuing 0xB0 a = some e ∧ s.collReady 0xB0 (secsOf a.sec) e = false)
    ∧ tileWords.all (fun p => let a := collFor p.2.1 0
      let s : State := { tileAt 0 p.2.1 0 (p.2.2 a) with fn := live.fn }
      decide (s.issuing p.2.1 a = some (collEnt p.2.1 a [])) && !s.collReady p.2.1 (secsOf a.sec) (collEnt p.2.1 a [])) = true
    := by and_intros <;> decide +kernel

/-- The first instance of group 1 begun by this module's value `v`. -/
def begun (k : InstKind) (v : Word) : Inst :=
  { instFor 0xB0 (collFor 0xB0 1) 2 k with
    started := true, ring := ⟨0, 1, false, (v, false), (v, false), (v, false), [], false⟩ }

/-- A frame of group 1 for its instance 2. -/
def collHdr : FrameHdr := { hdr 5 10 with off := 32 }

theorem collState_arrives (m : Word) (l : List Inst) (f : List HeldFrame) (type : BitVec 4) :
    (collState m l f).arrives 0 type collHdr :=
  arrives_as (clear_arrives wired_clear.1 rfl rfl wired_clear.2.2.2 rfl) rfl rfl rfl rfl rfl

theorem witness_ScalarExchange :
    (∀ k : Bool, let a := collFor 0xB0 (if k then 1 else 0)
      let e := collEnt 0xB0 a [(3, some 7)]
      let i := instFor 0xB0 a 2 (.scalar 4)
      let s := collQueued 0 0xB0 a e.srcs [i]
      collGoes s 0xB0 a e i = true ∧ cscalChecks a (s.taken (secsOf a.sec) e) = none ∧ s.fol.held = []
      ∧ e.srcs = [(3, some 7)] ∧ fldN a.a 16 4 = 4)
    ∧ ((collState 0 [] []).groupAt 0).usable = true ∧ ((collState 0 [] []).groupAt 0).size 0 = 1
    ∧ ((collState 0 [] []).groupAt 0).size 1 = 1 ∧ ((collState 0 [] []).groupAt 0).size 2 = 1
    ∧ (let g := (collState 1 [] []).groupAt 1
      g.usable = true ∧ g.size 0 = 2 ∧ g.size 1 = 1 ∧ g.size 2 = 1 ∧ g.plus 0 = g.minus 0 ∧ g.plus 0 = 7)
    ∧ (collState 0 [] []).wayTo 7 = some 2 ∧ ((collState 0 [] []).port 2).joined = true
    ∧ (collState 0 [] []).isOwn 7 = false
    ∧ [InstKind.scalar 1, .scalar 9, .barrier 77].all (fun k => let i := begun k 6
      let s := collState 0 [i] []
      decide (s.gidGroup collHdr.tag = some i.grp)
      && decide (s.frameInst i.grp collHdr = some i) && i.started && !i.abandoned
      && decide (collHdr.src = (s.groupAt i.grp).plus 0)) = true
    ∧ (let s := collState 0 [] []
      s.gidGroup 11 = none ∧ s.gidGroup 10 = some 1 ∧ s.frameInst 1 collHdr = none)
    ∧ (let i : Inst := { begun (.scalar 4) 6 with abandoned := true }
      (collState 0 [i] []).frameInst 1 collHdr = some i)
    ∧ (let i : Inst := { begun (.scalar 4) 6 with started := false }
      (collState 0 [i] []).frameInst 1 collHdr = some i)
    ∧ (collState 0 [] []).gidGroup 9 = some 0 := by and_intros <;> decide +kernel

/-- U-page 2 lives at 0x40000000 in T1 and is open for writing at `u` up to 4,096 bytes. -/
def pageOpen (s : State) (u : Nat) : Bool :=
  decide (s.paddr 0x20000 = some 0x40000000) && decide (u / 0x10000 = 2) && decide (u % 0x10000 + 0x1000 ≤ 0x10000)
    && !s.readOnlyPage 2 && s.lnk.got.isEmpty && s.tmv.moving.isEmpty

theorem pageOpen_meets {s : State} {u : Nat} (h : pageOpen s u = true) (n : Nat) (hn : 0 < n) (le : n ≤ 0x1000) :
    ∃ ps, s.slotOpen u n ps ∧ (∀ q ∈ ps, isT3 q = false) ∧ s.meetsMove u n = false
      ∧ ∃ bs, s.readFor u n = some bs ∧ bs.length = n := by
  unfold pageOpen at h
  simp only [Bool.and_eq_true, decide_eq_true_eq, Bool.not_eq_true', List.isEmpty_iff] at h
  obtain ⟨⟨⟨⟨⟨place, page⟩, inside⟩, ro⟩, got⟩, still⟩ := h
  have place : s.paddr (0x10000 * (u / 0x10000)) = some 0x40000000 := by rw [page]; exact place
  refine ⟨_, slotOpen_t1 place hn (by omega) (by decide) (by decide) (by rw [page]; exact ro), fun q m => ?_, ?_,
    readFor_t1 got place (by omega) (by decide) (by decide)⟩
  · have := mem_runAt m
    exact t1_not_t3 (by have : t1End = 0x4C000000 := rfl; omega)
  · unfold State.meetsMove
    rw [still]
    rfl

/-- What the collective statements ask of the slots at `u`, `v`: they can be read and written, and lie in T1. -/
def slotsMeet (s1 : State) (u v : Nat) : Prop :=
  (∃ bs, s1.readFor u 1024 = some bs ∧ bs.length = 1024)
    ∧ ∀ n, 0 < n → n ≤ 0x1000 → ∃ pz, s1.slotOpen v n pz ∧ (∀ q ∈ pz, isT3 q = false) ∧ s1.meetsMove v n = false

theorem slotsMeet_of {s : State} {u v : Nat} (hu : pageOpen s u = true) (hv : pageOpen s v = true) : slotsMeet s u v :=
  ⟨(pageOpen_meets hu 1024 (by decide) (by decide)).elim fun _ h => h.2.2.2,
    fun n hn le => (pageOpen_meets hv n hn le).imp fun _ h => ⟨h.1, h.2.1, h.2.2.1⟩⟩

/-- A tile word alone on its group: each of the four runs, reads its X slot and writes its Z slot. -/
theorem witness_TileCollectives :
    tileWords.all (fun p => let a := collFor p.2.1 0
      let e := collEnt p.2.1 a []
      let i := instFor p.2.1 a 2 (p.2.2 a)
      let s := tileAt 0 p.2.1 0 (p.2.2 a)
      let s1 := s.taken (secsOf a.sec) e
      let j := collJob a i.kind s1
      collGoes s p.2.1 a e i && s.fol.held.isEmpty && (collChecks a i.kind s1).isNone && j.g.usable
      && decide (j.g.size 0 = 1 ∧ j.g.size 1 = 1 ∧ j.g.size 2 = 1)
      && decide (j.x.count = 1) && decide (j.z.count = 1) && decide (j.x.foil = 0) && !j.clash
      && decide (j.x.uaddr = 0x20000) && decide (j.x.size = 1024) && pageOpen s1 j.x.uaddr && pageOpen s1 j.z.uaddr) = true
    ∧ [(0 : Word), 1].all (fun m => let a := collFor 0xB2 1
      let e := collEnt 0xB2 a []
      let i := instFor 0xB2 a 2 .gather
      let s := tileAt m 0xB2 1 .gather
      let s1 := s.taken (secsOf a.sec) e
      let j := collJob a i.kind s1
      collGoes s 0xB2 a e i && (collChecks a i.kind s1).isNone && j.g.usable
      && decide (j.g.size 0 = 2 ∧ j.g.size 1 = 1 ∧ j.g.size 2 = 1 ∧ j.g.plus 0 = j.g.minus 0 ∧ j.g.m = m.toNat)
      && decide (j.x.count = 1) && decide (j.z.count = 2) && decide (j.x.foil = 0) && !j.clash
      && decide (j.x.uaddr = 0x20000) && decide (j.x.size = 1024) && pageOpen s1 j.x.uaddr
      && pageOpen s1 (j.z.uaddr + j.z.size * j.g.m) && decide (s.wayTo (j.g.plus 0) = some 2) && (s.port 2).joined && !s.isOwn (j.g.plus 0)) = true
    ∧ [(0 : Word), 1].all (fun m => let a := collFor 0xB1 1
      let e := collEnt 0xB1 a []
      let i := instFor 0xB1 a 2 .reduceScatter
      let s := tileAt m 0xB1 1 .reduceScatter
      let s1 := s.taken (secsOf a.sec) e
      let j := collJob a i.kind s1
      collGoes s 0xB1 a e i && (collChecks a i.kind s1).isNone && decide (j.x.count = 2) && decide (j.z.count = 1)
      && decide (j.x.uaddr = 0x20000) && decide (j.x.size = 1024) && pageOpen s1 j.x.uaddr
      && pageOpen s1 (j.x.uaddr + j.x.size) && decide (s.wayTo (j.g.plus 0) = some 2)
      && decide (j.g.size 0 = 2 ∧ j.g.size 1 = 1 ∧ j.g.size 2 = 1 ∧ j.g.plus 0 = j.g.minus 0) && j.g.usable) = true := by
  and_intros <;> decide +kernel

/-- A reduce-scatter or gather of group 1 under way, with what has come and been written. -/
def flying (k : InstKind) (nx nz : Nat) (part : SMap (List Byte)) (written : SMap Bool) : Inst :=
  { instFor 0xB2 (collFor 0xB2 1) 2 k with
    started := true, zAddr := 0x23000, zSlot := 1024, nx := nx, nz := nz, part := part, written := written
    own := [(0, [1, -1]), (1, [127, -128])] }

/-- Frames for it that come on P3, the first and the last of a block. -/
def partHdr (last : Bool) : FrameHdr := { collHdr with last := last }

theorem partHdr_arrives (m : Word) (l : List Inst) (type : BitVec 4) (last : Bool) :
    (collState m l []).arrives 3 type (partHdr last) :=
  arrives_as (clear_arrives wired_clear.2.1 rfl rfl wired_clear.2.2.2 rfl) rfl rfl rfl rfl rfl

theorem witness_TileCollectives_frames :
    [(0 : Word), 1].all (fun m => let i := flying .gather 1 2 [(6, [1, 2])] [(m.toNat, true)]
      let s := collState m [i] []
      decide (s.gidGroup (partHdr true).tag = some i.grp) && decide (s.frameInst i.grp (partHdr true) = some i)
      && i.started && !i.abandoned && decide (smGet 0 i.recvd 6 = 0) && !i.clash
      && decide ((s.groupAt i.grp).m = m.toNat) && smGet false i.written m.toNat && !smGet false i.written (1 - m.toNat)
      && pageOpen s (i.zAddr + i.zSlot * (1 - m.toNat)) && decide ((partHdr true).src = (s.groupAt i.grp).plus 0)) = true
    ∧ [(0 : Word), 1].all (fun m => let i := flying .reduceScatter 2 1 [] []
      let s := collState m [i] []
      decide (s.gidGroup (partHdr true).tag = some i.grp) && decide (s.frameInst i.grp (partHdr true) = some i)
      && decide (smGet 0 i.recvd 0 = 0) && decide (smGet [] i.own (s.groupAt i.grp).m ≠ [])
      && !smGet false i.written 0 && pageOpen s i.zAddr) = true := by and_intros <;> decide +kernel

/-! ## Twins -/

/-- `live` with the twin unit changed. -/
def withTwn (s : State) (f : Twn → Twn) : State := { s with twn := f s.twn }

/-- A soldered pair, TWN_FN in RUN. -/
def soldered (s : State) : State :=
  { withTwn s (fun w => { w with pair := .soldered, twin := 7 }) with fn := { s.fn with twn := ⟨.run, 1, 1, false⟩ } }

/-- `live` with TWN_FN stopped, SINGLE or another state of the pair, SOLDER received or not. -/
def pairIs (p : Pair) (got : Bool) : State := withTwn live (fun w => { w with pair := p, gotS := got })

theorem live_twinOpen : live.twinOpen ∧ (soldered live).twinOpen ∧ (∀ p g, (pairIs p g).twinOpen)
    ∧ (soldered windowed).twinOpen := 
  ⟨⟨rfl, rfl, rfl, rfl⟩, ⟨rfl, rfl, rfl, rfl⟩, fun _ _ => ⟨rfl, rfl, rfl, rfl⟩, rfl, rfl, rfl, rfl⟩

theorem witness_PairAndDigestEngine :
    (∀ got : Bool, let s := pairIs .single got
      s.twn.pair = .single ∧ (s.port 6).isUp = true ∧ s.loadMap = true ∧ s.stopped .twn = true ∧ s.twn.gotS = got)
    ∧ (soldered live).twn.pair ≠ .single
    ∧ (let s := pairIs .soldered false
      s.twn.pair = .soldered ∧ s.loadMap = true ∧ s.stopped .twn = true ∧ (s.port 6).isUp = true)
    ∧ (pairIs .soldering false).twn.pair = .soldering
    ∧ ((portIn 6 6).port 6).isUp = false
    ∧ live.twn.hold = none ∧ (withTwn live (fun w => { w with hold := some 5 })).twn.hold = some 5
    ∧ (running 0).castRuns = true ∧ live.castRuns = false
    ∧ live.twn.rdBusy = false
    ∧ [((64 : Nat), (0x40 : Nat), true), (128, t2Size - 64, false)].all (fun p =>
      let s := withTwn live (fun w => { w with rdBusy := true, rdAddr := BitVec.ofNat 48 p.2.1, rdLen := BitVec.ofNat 48 p.1 })
      let m : State := { s with lnk := { s.lnk with reading := digestKey } }
      s.twn.rdBusy && !s.castRuns && !s.stopped .mdv && decide (s.twn.rdAddr.toNat / 64 * 64 = p.2.1)
      && (m.readFor p.2.1 64).isSome && decide (s.twn.rdLen.toNat / 64 = (if p.2.2 then 1 else 2))
      && (s.missing digestKey (t3Lines (((List.range (s.twn.rdLen.toNat / 64)).map (fun i => p.2.1 + 64 * i)).filterMap
        s.transl))).isEmpty
      && (decide (m.readFor (p.2.1 + 64) 64 = none) == !p.2.2)) = true
    ∧ (let s := withTwn (withCnd { running 0 with tmv := { (running 0).tmv with map := .held } }
          (fun c => { c with adm := .held })) (fun w => { w with rdBusy := true, rdAddr := 0x10000, rdLen := 64 })
      s.castRuns = false ∧ s.missing digestKey (t3Lines ([0x10000].filterMap s.transl)) ≠ []) := by
  and_intros <;> decide +kernel

theorem witness_PairAndDigestEngine_host : live.hostMay 1 0x0F0010 ∧ live.hostMay 1 0x0F0070
    ∧ (∀ p g, (pairIs p g).hostMay 1 0x0F0010) ∧ (running 0).hostMay 1 0x0F0070 :=
  ⟨live_may _ _ (by decide), live_may _ _ (by decide),
    fun _ _ => ⟨rfl, rfl, (by decide : 1 ≤ (3 : BitVec 2).toNat), rfl, nofun⟩, rfl, rfl, by decide, rfl, nofun⟩

/-- Images of bank 40 at a row, of a bank that is none, and for a window. -/
def imageFor (bank row : BitVec 16) : MirrorImage := ⟨bank, row, 0, []⟩

theorem witness_TwinTransfers :
    (soldered live).running .twn = true ∧ live.running .twn = false
    ∧ imageBank 40 = some 40 ∧ imageBank 1063 = some 679 ∧ imageBank 640 = none ∧ imageBank 0x8000 = none
    ∧ fldN (soldered live).twn.set.current 0 16 = 1440 ∧ 7 + 1440 + 8 ≤ 65535 ∧ 65535 < 64088 + 1440 + 8
    ∧ 64087 + 1440 + 8 ≤ 65535
    ∧ (soldered live).windowHit ((List.range 9).map (fun j => bankAddr 40 (7 + 1440 + j) 0)) = none
    ∧ (soldered live).stopped .mdv = false ∧ (soldered live).bnk.cores = [] ∧ (soldered live).tmv.moving = []
    ∧ (let s := withTwn (soldered windowed) (fun w => { w with set := Epoched.at 92 })
      (s.windowHit ((List.range 9).map (fun j => bankAddr 40 (0 + 92 + j) 0))).isSome = true
      ∧ fldN s.twn.set.current 0 16 = 92)
    ∧ (soldered live).twn.jobs.find? (fun j => j.tags.contains 3) = none
    ∧ [([(3 : Nat)], (0 : Nat)), ([3], 1), ([3, 4], 0)].all (fun l =>
      let s := withTwn (soldered live) (fun w => { w with jobs := [⟨5, l.2, l.1, 0⟩] })
      s.twn.jobs.find? (fun j => j.tags.contains (3 : BitVec 13).toNat) == some ⟨5, l.2, l.1, 0⟩) = true
    ∧ ([3].erase (3 : BitVec 13).toNat = ([] : List Nat)) ∧ [3, 4].erase (3 : BitVec 13).toNat ≠ []
    ∧ (soldered live).twn.digest = none ∧ (soldered live).twn.verify = none
    ∧ (withTwn (soldered live) (fun w => { w with digest := some (5, 1, 2) })).twn.digest = some (5, 1, 2)
    ∧ (let s := withTwn (soldered live) (fun w => { w with verify := some ⟨5, [(1, 2), (3, 4)], 0, 0, 0, none⟩ })
      s.twn.verify.isSome = true ∧ s.twn.verifyIn = [] ∧ [((1 : Word), (2 : Word)), (4, 4)].length = 2
      ∧ (1 : Word) = 1 ∧ (3 : Word) ≠ 4) := by and_intros <;> decide +kernel

/-- A module whose P6 is down, one that is STOPPED, one whose P6 is protected, and one that holds a frame of the twin. -/
theorem witness_TwinTransfers_held :
    ((portIn 6 6).held = [] ∧ ((portIn 6 6).port 6).isUp = false)
    ∧ (let s := withFn .lnk ⟨.stopped, 1, 1, false⟩
      s.held = [] ∧ (s.port 6).isUp = true ∧ s.framesFlow = false)
    ∧ (let s := withPort live 6 (fun q => { q with prot := true })
      s.held = [] ∧ (s.port 6).isUp = true ∧ s.isProtected 6 = true)
    ∧ (∀ c, State.twinOpen { ({ live with held := [⟨6, 1, channelOf 11 false, true, c⟩] } : State) with held := [] })
    ∧ (let s : State := { withFn .lnk ⟨.stopped, 1, 1, false⟩ with held := [⟨6, 1, channelOf 11 false, true, .solderTransfer⟩] }
      s.framesFlow = false) :=
  ⟨by decide +kernel, by decide +kernel, by decide +kernel, fun _ => ⟨rfl, rfl, rfl, rfl⟩, by decide +kernel⟩

/-- The bank list of `hubState`, a record of a snapshot at step 1, one at step 5, a tile with a whole range, and one whose
range leaves the page. -/
def twinDescs : List Wide :=
  [BitVec.ofNat 256 (0x28000 + 2 ^ 96 + 2 ^ 224 * 100), BitVec.ofNat 256 (0x26000 + 2 ^ 64),
   BitVec.ofNat 256 (0x26000 + 2 ^ 64 * 5), mkDesc 0x20000 8 0 0 1 + (1 <<< 224), mkDesc 0x2FFC0 8 0 0 1 + (1 <<< 224)]

/-- A soldered module with that list, bank 40 at the entry of row 0. -/
def twinState : State :=
  let s := hubState 0
  soldered { s with
    cast := some { img with desc := twinDescs }
    lnk := wired.lnk
    mem := ([(0x40008000, 8), (0x40008004, 18), (0x40008010, 40), (0x40008014, 9), (0x40008020, 8),
      (0x40008024, 9)] : List Host.Cell) ++ tableCells twinDescs ++ imgMem 0 }

/-- The fields of a word with a list: the second entry, or none. -/
def twinArgs (opc : BitVec 8) (n : BitVec 32) : ArrayArgs :=
  hubArgs (if opc = 0xD1 then 0x2000 else if opc = 0xD7 then 1 else 0) 1 n

/-- The same module SINGLE, with ALONE set. -/
def aloneState : State := withTwn twinState (fun w => { w with pair := .single, set := Epoched.at 0x105A0 })

theorem witness_TwinWords_lists :
    twinLists.all (fun p => [(0 : BitVec 32), 1].all (fun n => let a := twinArgs p.opc n
      let s := queued twinState p.opc a
      let s1 := s.taken (secsOf a.sec) (ent p.opc a)
      due s p.opc a && decide (twinListChecks p.opc.toNat a s1 = none)
      && decide ((hubJob true a s1).count = n.toNat) && !s.alone
      && (decide ((hubJob true a s1).ingots = [(40, 0)]) == (n == 1)))) = true
    ∧ twinLists.all (fun p => let a : ArrayArgs := { twinArgs p.opc 1 with flg := 1 }
      let s := queued twinState p.opc a
      due s p.opc a && (twinListChecks p.opc.toNat a (s.taken (secsOf a.sec) (ent p.opc a))).isSome) = true
    ∧ [(0xD0 : BitVec 8), 0xD4].all (fun opc => let a := twinArgs opc 1
      let s := queued aloneState opc a
      due s opc a && s.alone && needsTwin opc.toNat a
      && decide (twinListChecks opc.toNat a (s.taken (secsOf a.sec) (ent opc a)) = none)) = true := by
  and_intros <;> decide +kernel

/-- `twinState` with one ingot of bank 40 at work, or none left, for the word `opc`. -/
def twinAt (opc : BitVec 8) (k : HubKind) (left : List (Nat × Nat)) : State :=
  { twinState with
    bnk := { twinState.bnk with
      work := some ⟨ent opc (twinArgs opc 1), k, 1, [⟨40, 1, 0, 9, left, true⟩], {}, 0, 0, 0, [], 0⟩ }
    twn := { twinState.twn with jobs := [⟨5, 1, [], 0⟩] } }

/-- What `State.works` asks. -/
def atWork (s : State) (k : HubKind) (left : List (Nat × Nat)) : Bool :=
  s.pending.isEmpty && s.held.isEmpty && s.mdv.uncorr.isNone && !s.stopped .mdv
    && (match s.bnk.work with
      | some w => decide (w.kind = k) && decide (w.total = 1) && w.ready.isEmpty && decide (w.sent = 0)
        && (match w.tasks with
          | [b] => b.started && decide (b.left = left) && !s.pulling w.ent.seq b.bank
          | _ => false)
      | none => false)

theorem works_of {s : State} {k : HubKind} {left : List (Nat × Nat)} (h : atWork s k left = true) :
    ∃ w b, s.works w b left ∧ w.kind = k ∧ w.total = 1 ∧ w.ready = [] ∧ w.sent = 0 := by
  unfold atWork at h
  split at h
  · rename_i w hw
    split at h
    · rename_i b hb
      simp only [Bool.and_eq_true, Bool.not_eq_true', decide_eq_true_eq, List.isEmpty_iff, Option.isNone_iff_eq_none] at h
      obtain ⟨⟨⟨⟨p, d⟩, u⟩, st⟩, ⟨⟨⟨kd, tot⟩, rd⟩, sn⟩, ⟨go, lf⟩, pl⟩ := h
      exact ⟨w, b, ⟨p, d, hw, hb, go, lf, u, st, pl⟩, kd, tot, rd, sn⟩
    · simp at h
  · simp at h

theorem witness_TwinWords_work :
    [((0xD0 : BitVec 8), HubKind.mirror), (0xD1, .pull 32 1440 0), (0xD2, .digest 1440), (0xD4, .verify 1440),
      (0xD7, .snap 0x26000 1 1)].all (fun p => atWork (twinAt p.1 p.2 [(0, 0)]) p.2 [(0, 0)]) = true
    ∧ atWork (twinAt 0xD1 (.pull 32 1440 0) []) (.pull 32 1440 0) [] = true
    ∧ (twinAt 0xD0 .mirror [(0, 0)]).twn.jobs = [⟨(ent 0xD0 (twinArgs 0xD0 1)).seq, 1, [], 0⟩]
    ∧ 0 + 1440 + 8 ≤ 65535 ∧ (twinAt 0xD4 (.verify 1440) [(0, 0)]).twn.verifyIn = []
    ∧ (twinAt 0xD1 (.pull 32 1440 0) [(0, 0)]).pullClosed 32 1440 (40, 0) = true
    ∧ (let s0 := twinAt 0xD1 (.pull 32 1440 0) [(0, 0)]
      let s : State := { s0 with lnk := { s0.lnk with aps := [(32, 0xC000000000000000)] } }
      s.pullClosed 32 1440 (40, 0) = false ∧ s.lnk.stalled = [])
    ∧ [(1 : Nat), 2].all (fun n => let s := twinAt 0xD7 (.snap 0x26000 n 1) [(0, 0)]
      (s.snapSource n (40, 0)).isSome == (n == 1) && pageOpen s 0x26000) = true := by
  and_intros <;> decide +kernel

/-- The fields of a word without a list. -/
def plainFor (opc : BitVec 8) : ArrayArgs :=
  ⟨3, 0, if opc = 0xD3 ∨ opc = 0xD5 ∨ opc = 0xD6 then 0 else 0x80, if opc = 0xD5 then 3 else 0, 0, 0⟩

theorem witness_TwinWords_plain :
    twinPlains.all (fun p => let a := plainFor p.2.1
      let s := queued twinState p.2.1 a
      let b : ArrayArgs := { a with b := 1 }
      let u := queued twinState p.2.1 b
      due s p.2.1 a && due u p.2.1 b
      && (twinPlainChecks p.2.1.toNat b (u.taken (secsOf b.sec) (ent p.2.1 b))).isSome
      && decide (twinPlainChecks p.2.1.toNat a (s.taken (secsOf a.sec) (ent p.2.1 a)) = none)) = true
    ∧ [some (7 : Word), none].all (fun v => let a := plainFor 0xD3
      let e : QEnt := { ent 0xD3 a with srcs := [(1, some 6), (2, v)] }
      let s : State := { twinState with sheet := { twinState.sheet with qH := [e] } }
      decide (s.issuing 0xD3 a = some e) && decide (twinPlainChecks 0xD3 a (s.taken (secsOf a.sec) e) = none)
      && s.lnk.aps.isEmpty && s.tmv.moving.isEmpty && !s.alone && s.twn.digestIn.isEmpty) = true
    ∧ aloneState.alone = true ∧ (withTwn twinState (fun w => { w with digestIn := [(1, 2)] })).twn.digestIn ≠ []
    ∧ [((3 : BitVec 32), true), (4, false)].all (fun p => let a : ArrayArgs := { plainFor 0xD5 with a := p.1 }
      let s1 := (queued twinState 0xD5 a).taken (secsOf a.sec) (ent 0xD5 a)
      let x := s1.desc (fldN a.a 0 16)
      decide (twinPlainChecks 0xD5 a s1 = none) && decide (x.size * (x.tr * x.tc * x.tp) / 64 = 16)
      && (if p.2 then pageOpen s1 x.uaddr
        else (s1.readFor x.uaddr 64).isSome && decide (s1.readFor (x.uaddr + 64 * 1) 64 = none))) = true
    ∧ [((1 : BitVec 32), false), (0x12, false), (3, true)].all (fun p => let a : ArrayArgs := ⟨3, 0, 0, p.1, 0, 0⟩
      due (queued twinState 0xD8 a) 0xD8 a && (markBad a == p.2)) = true := by
  and_intros <;> decide +kernel

/-! ## Power, sessions, firmware -/

/-- `live` with the power unit changed. -/
def withPwr (f : Pwr → Pwr) : State := { live with pwr := f live.pwr }

theorem witness_TemperSample :
    curveOf live.pwr.set.current.curve = []
    ∧ [(200 : Nat), 0].all (fun w => decide (curveOf (withPwr (fun p => { p with
        set := Epoched.at { p.set.current with curve := [(7, BitVec.ofNat 64 (2 ^ 63 + 2 ^ 8 * 30 + w))] } })).pwr.set.current.curve
        = [(30, 10 * w)])) = true
    ∧ 42 * 5000 = 210000 ∧ (4000 ≤ 4399 ∧ 4399 < 4400) ∧ ¬ 42 * 5000 < live.pwr.cap.toNat * 1000 ∧ 42 * 4700 < live.pwr.cap.toNat * 1000
    ∧ live.pwr.cap.toNat * 10 = 2000 := by and_intros <;> decide +kernel

/-- A held barrier of both sections that arrived in beat 8, and section state, rates and beat given. -/
def swarfState (n : Word) (w : Swarf) (swarf ramp : Nat) : State :=
  { live with
    bea := { live.bea with count := n }
    sheet := { live.sheet with fbars := [⟨5, 3, 1, 10, 7, 8, none, false⟩] }
    pwr := { live.pwr with
      swarf := Vector.replicate 2 w, swarfRate := Vector.replicate 8 swarf, rampRate := Vector.replicate 8 ramp } }

/-- A change of clock is pending; the last droop, the last lowering of the clock. -/
def clockState (n : Word) (droop changed : Option Word) : State :=
  { live with
    bea := { live.bea with count := n }
    pwr := { live.pwr with pending := true, fstep := 40, asked := 6, droopBeat := droop, changed := changed } }

theorem witness_DroopSwarfAndClock :
    bitAt ({ live with rst := { live.rst with active := 4 } } : State).rst.active (2 : BitVec 2).toNat = true
    ∧ bitAt live.rst.active 3 = false
    ∧ (withPwr (fun p => { p with droopHold := Vector.replicate 4 true })).pwr.droopHold[(3 : BitVec 2).toNat] = true
    ∧ (withPwr (fun p => { p with droopRate := Vector.replicate 4 63 })).pwr.droopRate[(0 : BitVec 2).toNat] < 64
    ∧ live.pwr.droopHold[(0 : BitVec 2).toNat] = false ∧ 64 ≤ live.pwr.droopRate[(0 : BitVec 2).toNat]
    ∧ (∀ k : Fin 2, let s := swarfState 248 .holding 0 0
      (s.sheet.fbars.find? (fun b => bitAt b.secs k.val)).isSome = true ∧ s.pwr.swarf[k] = .holding
      ∧ (8 : Word).toNat + fldN s.pwr.set.current.swarf 32 16 ≤ s.bea.count.toNat)
    ∧ (∀ k : Fin 2, let s := swarfState 248 .off 0 64
      s.pwr.swarf[k] ≠ .holding ∧ s.pwr.swarf[k] ≠ .decaying ∧ s.pwr.swarf[k] ≠ .ramping)
    ∧ ¬ (8 : Word).toNat + fldN (swarfState 8 .holding 0 0).pwr.set.current.swarf 32 16
        ≤ (swarfState 8 .holding 0 0).bea.count.toNat
    ∧ (∀ k : Fin 2, (swarfState 8 .decaying 1 0).pwr.swarf[k] = .decaying)
    ∧ [(62 : Nat), 63].all (fun r => let s := swarfState 8 .ramping 0 r
      decide (s.pwr.swarf[(0 : Fin 2)] = .ramping) && (s.pwr.rampRate.toList.all (fun n => decide (63 ≤ n)) == (r == 63)))
    ∧ 40 ≤ fldN (40 : Word) 0 8 ∧ fldN (96 : Word) 0 8 ≤ 96 ∧ 96 < fldN (97 : Word) 0 8 ∧ fldN (39 : Word) 0 8 < 40
    ∧ live.pwr.pending = false ∧ (clockState 9 none (some 6)).pwr.pending = true ∧ 9 < (6 : Word).toNat + 4
    ∧ ¬ 10 < (6 : Word).toNat + 4 ∧ (clockState 10 (some 6) none).bea.count.toNat ≤ (6 : Word).toNat + 4
    ∧ ¬ (clockState 11 (some 6) none).bea.count.toNat ≤ (6 : Word).toNat + 4
    ∧ (let s := clockState 9 none none
      25 * min s.pwr.fstep.toNat s.minFmax ≤ s.pwr.clock ∧ s.pwr.clock ≠ 0)
    ∧ live.stopped .ary = true ∧ live.noCast = true ∧ (running 0).stopped .ary = false
    ∧ (withPwr (fun p => { p with annealing := true })).pwr.annealing = true ∧ live.pwr.annealing = false
    ∧ 863 < live.sizCores ∧ 1 ≤ (1 : BitVec 8).toNat ∧ live.physCore 863 = 863 := by and_intros <;> decide +kernel

theorem witness_DroopSwarfAndClock_host : live.hostMay 2 0x110010 ∧ live.hostMay 2 0x110018
    ∧ (running 0).hostMay 2 0x110018 := ⟨live_may _ _ (by decide), live_may _ _ (by decide), rfl, rfl, by decide, rfl, nofun⟩

/-- A key in slot 4 of USER privilege, and the challenge of a session on a slot. -/
def keyed (c : Option Challenge) (lockout : Bool) : State :=
  { live with
    flash := { live.flash with keys := [(4, ⟨1, List.replicate 32 1⟩)] }
    sec := { live.sec with challenge := c, lockout := lockout } }

/-- A challenge for that slot. -/
def aChallenge (slot : BitVec 4) : Challenge := ⟨slot, List.replicate 32 2, List.replicate 32 3, 9⟩

/-- The proof that it asks for. -/
def aProof : List Byte :=
  hmac384 (List.replicate 32 1) (textBytes "YN-OPEN" ++ (aChallenge 4).nd ++ (aChallenge 4).nh ++ live.serialName ++ [4])

theorem test_sha384_abc : (sha384 (textBytes "abc")).take 8 = [0xCB, 0x00, 0x75, 0x3F, 0x45, 0xA3, 0x5E, 0x8B] := by
  decide +kernel

theorem aProof_length : aProof.length = 48 := by decide +kernel

theorem witness_SessionsAndKeys :
    (live.port 7).isUp = true ∧ live.sec.answers = [] ∧ (keyed none false).sec.answers = [] ∧ 15 < (16 : Word).toNat ∧ (15 : Word).toNat ≤ 15
    ∧ (keyed none true).sec.lockout = true ∧ (keyed none false).sec.lockout = false
    ∧ (keyed none false).sec.challenge = none
    ∧ (aChallenge 5).slot.toNat ≠ (4 : Word).toNat ∧ (aChallenge 4).slot.toNat = (4 : Word).toNat
    ∧ ((keyed (some (aChallenge 4)) false).keySlot 4).priv ≠ 0 ∧ ((keyed (some (aChallenge 6)) false).keySlot 6).priv = 0
    ∧ ((keyed (some (aChallenge 4)) false).keySlot 4).key = List.replicate 32 1
    ∧ live.sec.session.isSome = true ∧ live.priv = 3 ∧ (asPriv 0).priv.toNat < 1 ∧ (asPriv 2).priv.toNat < 3
    ∧ State.reset.sec.session = none ∧ ((portIn 7 6).port 7).isUp = false
    ∧ (∀ owned : Bool, let s : State := { State.reset with
        sys := { State.reset.sys with standby := true }, flash := { State.reset.flash with owned := owned } }
      s.sys.standby = true ∧ s.flash.owned = owned) := by and_intros <;> decide +kernel

/-- The proof passes for its challenge; its bytes changed do not. -/
theorem witness_SessionsAndKeys_proof :
    (let s := keyed (some (aChallenge 4)) false
    aProof = hmac384 (s.keySlot (4 : Word).toNat).key (textBytes "YN-OPEN" ++ (aChallenge 4).nd ++ (aChallenge 4).nh
      ++ s.serialName ++ [(aChallenge 4).slot.setWidth 8])) ∧ aProof.map (· + 1) ≠ aProof
    ∧ (aProof.map (· + 1)).length = 48 := by
  have all : ∀ b : Byte, b + 1 ≠ b := by decide
  refine ⟨rfl, fun h => ?_, by rw [List.length_map, aProof_length]⟩
  have l := aProof_length
  cases e : aProof with
  | nil => rw [e] at l; cases l
  | cons b t =>
    rw [e] at h
    exact all b (List.cons.inj h).1

theorem witness_SessionsAndKeys_host : live.hostMay 1 0x120010 ∧ live.hostMay 3 0x120010 :=
  ⟨live_may _ _ (by decide), live_may _ _ (by decide)⟩

/-- An image with no body of this type and SVN. -/
def imageOf (kind svn : Byte) : List Byte :=
  leBytes 8 0x4D494657524E5947 ++ [kind, svn] ++ List.replicate 6 0 ++ leBytes 8 0 ++ sha384 [] ++ List.replicate 17048 0

/-- The Assay unit verifies this image; the fuses of every type stand at `fuse`. -/
def verifying (m : List Byte) (fuse : BitVec 8) : State :=
  { live with
    flash := { live.flash with fuse := Vector.replicate 5 fuse }
    sec := { live.sec with verifying := some m.length, staged := m.zipIdx.map (fun p => (p.2, p.1)) } }

/-- Images of every type whose form is in order; whether one is signed, `Config.imageSigned`, the spec leaves to keys that
it does not give (log entry 10), so what a signed one does is stated for any that is. -/
theorem witness_FirmwareAttestationAttention_images :
    [(1 : Byte), 5].all (fun kind => let m := imageOf kind 3
      decide (leNat (m.take 8) = 0x4D494657524E5947 ∧ m.length = 17120 + leNat ((m.drop 16).take 8)
        ∧ leNat ((m.drop 9).take 1) = 3 ∧ leNat ((m.drop 8).take 1) = kind.toNat
        ∧ sha384 (m.drop 17120) = (m.drop 24).take 48)) = true := by decide +kernel

theorem witness_FirmwareAttestationAttention :
    (live.port 7).isUp = true ∧ live.sec.answers = [] ∧ live.priv = 3 ∧ live.sec.verifying = none ∧ (verifying [1, 2] 0).sec.verifying = some 2
    ∧ smGetRun 0 (verifying [1, 2] 0).sec.staged 0 2 = [1, 2] ∧ imageSound [1, 2] = false
    ∧ ((verifying [1, 2] 4).flash.fuse.toList.getD 4 0).toNat = 4
    ∧ live.sec.attest = none
    ∧ ({ live with sec := { live.sec with attest := some (List.replicate 32 1) } } : State).sec.attest.isSome = true
    ∧ (let s : State := { live with atn := { live.atn with owed := true } }
      s.sec.session.isSome = true ∧ (s.port 7).isUp = true ∧ s.atn.frame = true ∧ s.atn.owed = true)
    ∧ (List.replicate 32 (1 : Byte)).length = 32 ∧ (List.replicate 448 (1 : Byte)).length ≤ 448 := by
  and_intros <;> decide +kernel

theorem witness_FirmwareAttestationAttention_host : live.hostMay 1 0x130010 := live_may _ _ (by decide)

/-! ## Resets, power states, self-test -/

/-- What a power-up meets: every unit trained, or one of the faults of R393. -/
def powerUp (hang : Option (BitVec 4)) (lanes : BitVec 5) (trained : BitVec 24) : PowerUp := 
  ⟨hang, lanes, 7, false, 5, trained, 7, []⟩

/-- A state whose fuses of type `k` lie above the shipped image's. -/
def fused (k : Nat) : State :=
  { live with flash := { live.flash with fuse := Vector.ofFn (fun (i : Fin 5) => if i.val + 1 = k then 1 else 0) } }

theorem witness_ColdAndWarmResets_boots : (∀ k, 1 ≤ k → k ≤ 5 → live.boots k)
    ∧ ∀ k, 1 ≤ k → k ≤ 5 → ∀ i, 1 ≤ i → i ≤ 5 → ((fused k).boots i ↔ i ≠ k) := by
  refine ⟨fun k h1 h2 => ⟨false, ?_⟩, fun k h1 h2 i i1 i2 => ⟨fun h e => ?_, fun h => ⟨false, ?_⟩⟩⟩
  · have : k = 1 ∨ k = 2 ∨ k = 3 ∨ k = 4 ∨ k = 5 := by omega
    rcases this with e | e | e | e | e <;> subst e <;> rfl
  · obtain ⟨b, hb⟩ := h
    subst e
    have : i = 1 ∨ i = 2 ∨ i = 3 ∨ i = 4 ∨ i = 5 := by omega
    revert hb
    rcases this with e | e | e | e | e <;> subst e <;> cases b <;> decide
  · have : k = 1 ∨ k = 2 ∨ k = 3 ∨ k = 4 ∨ k = 5 := by omega
    have : i = 1 ∨ i = 2 ∨ i = 3 ∨ i = 4 ∨ i = 5 := by omega
    rcases ‹k = 1 ∨ _› with e | e | e | e | e <;> rcases this with e' | e' | e' | e' | e' <;> subst e <;> subst e' <;>
      first | rfl | exact absurd rfl h

theorem witness_ColdAndWarmResets :
    (powerUp none 15 0xFFFFFF).hang = none ∧ (powerUp none 15 0xFFFFFF).trained = 0xFFFFFF
    ∧ (widthOf 7 ((powerUp none 15 0xFFFFFF).p7Lanes.setWidth 16)).isSome = true
    ∧ widthOf 7 ((powerUp none 0 0xFFFFFF).p7Lanes.setWidth 16) = none
    ∧ (powerUp none 15 0x7FFFFF).trained ≠ 0xFFFFFF
    ∧ [(1 : BitVec 4), 4, 6].all (fun n => decide ((powerUp (some n) 15 0xFFFFFF).hang = some n ∧ 1 ≤ n.toNat ∧ n.toNat ≤ 6)) = true
    ∧ (let s : State := { State.reset with mgt := ⟨0, 6, 0⟩ }
      s.sys.ready = false ∧ s.sys.fail = false ∧ 1 ≤ s.mgt.phase.toNat ∧ s.mgt.phase.toNat ≤ 6)
    ∧ live.mainOn = true ∧ live.sys.pwrLow = false ∧ live.sys.ready = true ∧ live.mdv.busy = false ∧ live.bst.busy = false
    ∧ State.reset.rst.last = 1 ∧ State.reset.sys.ready = false ∧ State.reset.sys.fail = false
    ∧ (let s : State := { State.reset with sys := { Sys.atReset with fail := true }, mgt := ⟨0, 6, 6⟩ }
      s.mainOn = true ∧ s.rst.last = 1 ∧ s.sys.fail = true ∧ 4 ≤ s.mgt.phase.toNat)
    ∧ live.sec.answers = [] ∧ (live.port 7).out = [] ∧ (live.port 7).state = 4
    ∧ ((withPort live 7 (fun q => { q with credits := List.replicate 8 1 })).port 7).credited hostChannel = true
    ∧ ({ live with bst := { live.bst with busy := true } } : State).bst.busy = true := by and_intros <;> decide +kernel

theorem witness_ColdAndWarmResets_host : live.hostMay 3 0x000020 := live_may _ _ (by decide)

/-- `live` in a power state, entering another or leaving it. -/
def inPs (ps : BitVec 3) (entering : Option (BitVec 3)) (exiting : Bool) : State :=
  { live with sys := { live.sys with ps := ps, entering := entering, exiting := exiting } }

/-- `live` with PWR_EN low. -/
def enLow : State := { live with sys := { live.sys with pwrLow := true } }


theorem witness_PowerStatesAndSupplies :
    live.sys.entering = none ∧ live.sys.exiting = false ∧ live.bst.busy = false ∧ live.stopped .ary = true
    ∧ live.noCast = true ∧ live.loadMap = true ∧ (running 0).noCast = false ∧ (running 0).stopped .ary = false
    ∧ 4 < fldN (5 : Word) 0 3 ∧ fldN (4 : Word) 0 3 ≤ 4 ∧ (inPs 2 none false).sys.ps.toNat = 2
    ∧ [(1 : BitVec 3), 2, 3, 4].all (fun n => decide ((inPs 0 (some n) false).sys.entering = some n)) = true
    ∧ (inPs 3 none true).sys.exiting = true ∧ (inPs 3 none true).sys.ps ≠ 0 ∧ (inPs 3 none true).sys.ps ≠ 4
    ∧ (inPs 4 none true).mainOn = false ∧ live.mainOn = true
    ∧ live.sec.session.isSome = true ∧ live.lnk.take = true ∧ live.sys.pwrLow = false ∧ enLow.sys.pwrLow = true
    ∧ (inPs 4 none false).sys.pwrLow = false
    ∧ (let s : State := { State.reset with sys := { State.reset.sys with standby := true } }
      s.sec.session = none ∧ s.sys.standby = true ∧ s.mainOn = true)
    ∧ (let s : State := { State.reset with sys := { State.reset.sys with standby := false } }
      s.sys.standby = false) := by and_intros <;> decide +kernel

theorem witness_PowerStatesAndSupplies_host : live.hostMay 2 0x000018 ∧ (inPs 1 none false).hostMay 2 0x000018
    ∧ live.hostMay 1 0x160010 :=
  ⟨live_may _ _ (by decide), ⟨rfl, rfl, by decide, rfl, nofun⟩, live_may _ _ (by decide)⟩

/-- `live` with a quarter fenced and one to be fenced, and the self-test register. -/
def fencing (active next : BitVec 4) : State :=
  { live with rst := { live.rst with active := active }, flash := { live.flash with fence := next } }

/-- A self-test under way. -/
def testing (ctrl : Word) : State := { live with bst := { live.bst with busy := true, ctrl := ctrl } }

theorem witness_ArrayPortFenceAndTest :
    live.bst.busy = false ∧ (testing 0x100).bst.busy = true ∧ live.rst.arrayBusy = false ∧ live.rst.arrayPend = false
    ∧ live.inSequence = false ∧ State.reset.inSequence = true
    ∧ ({ live with rst := { live.rst with arrayBusy := true } } : State).rst.arrayBusy = true
    ∧ bitAt (0x81 : BitVec 8) 7 = true ∧ 2 ≤ (live.port 7).state.toNat ∧ live.lnk.take = true
    ∧ (let s : State := { live with sec := Sec.atReset, sys := { live.sys with standby := true } }
      s.sec.session = none ∧ s.sys.standby = true ∧ s.mainOn = true ∧ s.rst.arrayPend = false ∧ s.inSequence = false)
    ∧ [((0 : BitVec 4), (0 : BitVec 4), (0 : BitVec 2), false, false), (8, 0, 3, false, true), (8, 8, 0, true, false),
        (0, 4, 2, false, true), (0, 4, 3, true, false)].all (fun p =>
      let s := fencing p.1 p.2.1
      let held := s.rst.active ||| s.flash.fence
      ((List.range 4).any (fun k => k != p.2.2.1.toNat && bitAt held k) == p.2.2.2.1)
        && (bitAt held p.2.2.1.toNat == p.2.2.2.2)) = true
    ∧ [(0x100 : Word), 0x103, 0x200, 0x300, 0x317].all (fun v =>
      let w := bstFields live.bst.ctrl v
      let i := fldN w 0 5
      decide (live.sys.ps = 0) && live.stopped .ary && live.noCast && live.loadMap && live.running .mdv
      && decide ((fldN w 8 4 = 1 ∧ i < 4) ∨ (fldN w 8 4 = 2 ∧ i = 0) ∨ (fldN w 8 4 = 3 ∧ i < 24))
      && live.bnk.launches.all (·.done)) = true
    ∧ [(0x104 : Word), 0x201, 0x318].all (fun v =>
      let w := bstFields live.bst.ctrl v
      let i := fldN w 0 5
      decide (¬ ((fldN w 8 4 = 1 ∧ i < 4) ∨ (fldN w 8 4 = 2 ∧ i = 0) ∨ (fldN w 8 4 = 3 ∧ i < 24)))) = true
    ∧ fldN (testing 0x317).bst.ctrl 8 4 = 3 ∧ fldN (testing 0x317).bst.ctrl 0 5 < 24 := by
  and_intros <;> decide +kernel

theorem witness_ArrayPortFenceAndTest_host : live.hostMay 2 0x140010 ∧ live.hostMay 2 0x140018 ∧ live.hostMay 2 0x150008
    ∧ live.hostMay 1 0x160010 :=
  ⟨live_may _ _ (by decide), live_may _ _ (by decide), live_may _ _ (by decide), live_may _ _ (by decide)⟩

/-! ## The queue, the memory and the whole machine -/

theorem witness_WaitBeats :
    [(0 : Body), 1, 0x3FFFFFF].all (fun b => let s := atBeat 7 (cword 0x12 b) id
      atPc s (cword 0x12 b) && decide (s.bea.count.toNat + b.toNat < 2 ^ 64)) = true := by decide +kernel

theorem witness_TierMapPages :
    (running 0).cast = some img ∧ (running 0).tmv.map = .running ∧ 3 < img.tmap.count
    ∧ bitAt ((running 0).imageWord (img.tmap.addr + 8 * 2)) 0 = true
    ∧ bitAt ((running 0).imageWord (img.tmap.addr + 8 * 3)) 0 = false
    ∧ (running 0).paddr 0x2FFFF = some 0x4000FFFF ∧ (running 0).paddr 0x30000 = none := by
  and_intros <;> decide +kernel

theorem witness_MemoryLaws : Memory.wf State.reset.mem = true ∧ Memory.wf (State.reset.putByte 5 1).mem = true
    ∧ (State.reset.putByte 5 1).mem ≠ State.reset.mem := by and_intros <;> decide

/-- A beat edge brings an array reset asked for, while a cast runs, has been admitted, or is being admitted. -/
theorem witness_ArrayPortFenceAndTest_edge : [Admit.running, .admitted, .admitting].all (fun adm =>
    let s0 := withCnd (running 0) (fun c => { c with adm := adm })
    let s : State := { s0 with rst := { s0.rst with arrayPend := true }, staged := some img }
    s.mainOn && !s.discards none && s.rst.arrayPend && s.sheet.switch.isNone
      && decide (s.castRuns = true ↔ adm = .running) && decide (s.staged = some img)) = true := by decide +kernel

/-- `InvariantKept` and `QueueFirstInFirstOut` speak of a state with a command in its queue. -/
theorem witness_InvariantKept_QueueFirstInFirstOut :
    let s : State := { live with pending := [.sclose, .castStart] }
    s.Inv ∧ (match step s with | .next t => t.pending | _ => []) = [.castStart] :=
  ⟨⟨by decide +kernel, by decide +kernel, by decide, by decide, by decide, by decide, nofun,
    fun i j _ _ h _ => by revert h; rw [show live.rst.active ||| live.flash.fence = 0 from rfl]; simp [bitAt]⟩, by decide +kernel⟩

/-- `QueueFirstInFirstOut` and `StepRunsFront` speak of a state with none. -/
theorem witness_QueueFirstInFirstOut_idle : live.pending = [] ∧ live.held = [] ∧ live.bnk.work = none := ⟨rfl, rfl, rfl⟩

theorem witness_ResetRegisters : resetColumn.all (fun e => decide (e.first ≤ e.last)) = true := by decide +kernel

/-! ## Worked values of the spec -/

/-- R17, R20: with Q2 fenced core c128 lies at row 19, column 20, in Q3, and c365 at row 4, column 5, in Q0. -/
theorem test_fenced_places : physPlace 4 (128 / 36) (128 % 36) = (19, 20) ∧ quarterAt (19, 20) = 3
    ∧ physPlace 4 (365 / 36) (365 % 36) = (4, 5) ∧ quarterAt (4, 5) = 0 := by and_intros <;> decide

/-- The Size Table with Q2 fenced: SIZ_ROWS 18, SIZ_BSTART 6, SIZ_CORES 648. -/
theorem test_fenced_sizes : [(0x010008 : BitVec 24), 0x010070, 0x010020].map (fencing 4 0).readReg = [18, 6, 648] := by
  decide +kernel

/-- R208: the stripe at 0x04A4_3898_7000 lies in bank 21 of die 13 of device 7, row 22,400, column 0. -/
theorem test_stripe_address : t2Place (unstripe (0x04A438987000 - stripeBase)) = (640 * 7 + 32 * 13 + 21, 22400, 0) := by
  decide +kernel

/-- R208: the P-address 0x018C_0931_2840 lies in the same bank, row 101, column word 2. -/
theorem test_linear_address : t2Place 0x018C09312840 = (640 * 7 + 32 * 13 + 21, 101, 64) := by decide +kernel

/-- R294: node 2,398 has its route entry in the register at 0x0D_1958, bits [55:48]. -/
theorem test_route_register : 0x0D0000 + 0x1000 + 8 * (2398 / 8) = 0x0D1958
    ∧ (withLnk live (fun l => { l with set := Epoched.at { l.set.current with
        id := 0, rt := [(299, 0x0F030F0F0F0F0F0F)] } })).route 2398 = (3, false)
    ∧ (withLnk live (fun l => { l with set := Epoched.at { l.set.current with
        id := 0, rt := [(299, 0x0F030F0F0F0F0F0F)] } })).readReg 0x0D1958 = 0x0F030F0F0F0F0F0F := by
  and_intros <;> decide +kernel

/-- R351: one step of the cap loop for a sample of `p` W under a cap of 1,600 W, MARGIN 20 W, FLOOR 4. -/
def capAfter (p : BitVec 16) (rate : Nat) : Option Nat :=
  match exec (.temperSample ⟨p, 5000, 0, 0, 0, 0, 0, 0, 50, 50, 50, 50, 50, 30, 40⟩)
      (withPwr (fun q => { q with cap := 160, capRate := rate })) with
  | .next t => t.pwr.capNext
  | _ => none

/-- The samples of the example: 64 to 57, 57 to 55, then held. -/
theorem test_cap_loop : [((1780 : BitVec 16), 64), (1646, 57), (1593, 55), (1589, 55)].map (fun p => capAfter p.1 p.2)
    = [some 57, some 55, some 55, some 55] := by decide +kernel

/-- R236: `ldw w5, [b6+8], b15+0` is 0x40AD_F000 and `ldw.h w2, [b8+2], b14+64` is 0x4051_C501. -/
theorem test_ldw_words :
    (fld (0x40ADF000 : BitVec 32) 26 6 = 0x10 ∧ let b : Body := fld (0x40ADF000 : BitVec 32) 0 26
      xW b = 5 ∧ xB b = 6 ∧ fldN b 9 4 = 8 ∧ fldN b 13 4 = 15 ∧ fldN b 2 7 = 0 ∧ fldN b 0 2 = 0)
    ∧ (fld (0x4051C501 : BitVec 32) 26 6 = 0x10 ∧ let b : Body := fld (0x4051C501 : BitVec 32) 0 26
      xW b = 2 ∧ xB b = 8 ∧ fldN b 9 4 = 2 ∧ fldN b 13 4 = 14 ∧ fldN b 2 7 = 64 ∧ fldN b 0 2 = 1) := by
  and_intros <;> decide

/-- The four products of the example under R122, from BF16 words. -/
def fourProducts : List Machine.Num :=
  [((0x3FC0 : Nat), (0x3F80 : Nat)), (0xBEC0, 0x3C00), (0x3FC0, 0x4286), (0xC1D8, 0x3FB0)].map
    (fun p => (bf16Val p.1).mul (bf16Val p.2))

/-- R117, R122: at AE −8 they sum to 16,607 with LOSS, in both orders; in BF16 that is 0x4282 (R123). -/
theorem test_four_products : [fourProducts, fourProducts.reverse].map (Cell.addAll (-8) ⟨0, false, false⟩)
      = [⟨16607, false, true⟩, ⟨16607, false, true⟩]
    ∧ (convertTo .bf16 none (Machine.Num.ofInt 16607 (-8))).bits = 0x4282 := by and_intros <;> decide +kernel

/-- R129: 2^25, 1, −2^25 and 1 sum to 1 in FP32 in this order; the parts of the split to 0 and 2. -/
theorem test_fp32_order :
    (let n (i : Int) := Machine.Num.ofInt i 0
    [[n 33554432, n 1, n (-33554432), n 1], [n 33554432, n (-33554432)], [n 1, n 1]].map
      (fun l => (l.foldl (fun c p => Cell.addFp32 c [p]) ⟨0, false, false⟩).i)) = [0x3F800000, 0, 0x40000000] := by
  decide +kernel

/-- R265: the element of the example gives q 44 and the error term 21, and its tile proposes 0x6A (R266). -/
theorem test_flush_element : (let f := flushElem 0x6A 0x69 (Machine.Num.ofInt 45373 (-31)) 219
    (f.q, f.e, f.gsat, f.esat)) = (44, 21, false, false) ∧ proposal 1 [Machine.Num.ofInt 61000 (-31)] = 0x6A := by
  and_intros <;> decide +kernel

/-! ## Ill-formed commands -/

def anHdr (len : BitVec 4) : FrameHdr := { hdr 5 0 with len := len }

/-- A bank that is none of the 15,360, for each command that names one. -/
theorem test_wf_banks :
    [Instr.refresh 15360 false, .bankBoundaryService 15360 [], .bankProgramStart 15360, .chainWordArrival 15360,
      .uncorrectableError ⟨.sheet, false, 15360, 0, 0, 0, none⟩, .bankAdd 15360 0, .bankAddi 15360 0, .bankBeq 15360 0,
      .bankWbc 15360 0, .bankLdw 15360 0, .bankChput 15360 0, .bankFadd 15360 0, .bankFdiv 15360 0, .bankIadd 15360 0,
      .bankWmov 15360 0, .bankKadd 15360 0].all (fun c => !c.wf) = true
    ∧ (Instr.bankAdd 15359 0).wf = true := by and_intros <;> decide

/-- A device, a channel, a row, a pair of ports, an offset that is not a multiple of 8. -/
theorem test_wf_ranges :
    [Instr.interfaceTracking 24 0, .interfaceTracking 0 4, .scrubRead (15360 * 65536), .loopTrainingDone 3 0,
      .memoryDieTemperatureCrossing 24 0, .crd 4, .cwr 12 0, .smbusRead 4, .smbusWrite 4 0, .lnkConfigWrite 4 0,
      .causeW1cWrite 4 0, .rcRegisterRead 4, .registerWrite 4 0].all (fun c => !c.wf) = true
    ∧ [Instr.interfaceTracking 23 3, .scrubRead (15360 * 65536 - 1), .loopTrainingDone 2 0, .crd 8].all (·.wf) = true := by
  and_intros <;> decide

/-- A port beyond P7, a payload that is not LEN units of 64 bytes, a range of no line or beyond 64 KiB. -/
theorem test_wf_frames :
    [Instr.frameCrcFail 8 .crc, .portLinkLoss 8, .linkAnneal 8, .delayMeasured 8 0, .wack 8 (anHdr 0),
      .neighbourTrainingDone 8 0 0 false (List.replicate 16 0), .rdata 0 (anHdr 1) [], .wdata 0 (anHdr 9) (List.replicate 576 0),
      .redFrame 0 (anHdr 0) [1], .rreq 0 (anHdr 1) 0 0, .rreq 0 (anHdr 1) 32 64, .wreq 0 (anHdr 1) 0 65600,
      .ctrlFrame 0 ⟨none, none, true, [], 0, false, 0⟩].all (fun c => !c.wf) = true
    ∧ [Instr.rdata 0 (anHdr 1) (List.replicate 64 0), .rreq 7 (anHdr 1) 64 65536,
      .ctrlFrame 0 ⟨none, none, true, List.replicate 8 0, 0, false, 0⟩].all (·.wf) = true := by and_intros <;> decide +kernel

/-- A mirror image that is not nine rows, and too many digest pairs. -/
theorem test_wf_transfers :
    [Instr.mirrorImage 0 ⟨0, 0, 0, []⟩, .mirrorImage 0 ⟨0, 0, 0, List.replicate 9 []⟩,
      .verifyTransfer (List.replicate 32 (0, 0))].all (fun c => !c.wf) = true
    ∧ (Instr.verifyTransfer (List.replicate 31 (0, 0))).wf = true := by and_intros <;> decide +kernel

end Sys2Proof.Tests
end

section
/-! The wait of WAITB (R70): what the Conductor may do after it goes on and while it waits, what WAITB and the end of its
wait do, and the statement `WaitBeats`. -/

namespace Sys2Proof.Machine

/-! ## Going on and waiting -/

/-- A Conductor that goes on waits for nothing, so it may execute exactly while it is in RUN (R57). -/
@[simp] theorem mayExecute_advance (s : State) : s.advance.mayExecute = s.running .cnd := Bool.and_true _

/-- A Conductor that waits for a beat executes nothing (R70). -/
theorem mayExecute_of_waitB {s : State} {till : Word} (h : s.cnd.wait = .waitB till) : s.mayExecute = false := by
  unfold State.mayExecute
  rw [h]
  exact Bool.and_false _

/-- A Conductor that may execute is in RUN (R57). -/
theorem running_of_mayExecute {s : State} (h : s.mayExecute = true) : s.running .cnd = true :=
  (Bool.and_eq_true_iff.mp h).1

/-- A Conductor with a word at its PC is in RUN (R57). -/
theorem running_of_atWord {s : State} {w : BitVec 32} (h : s.atWord w) : s.running .cnd = true := by
  obtain ⟨_, _, hmay, _⟩ := h
  exact running_of_mayExecute hmay

/-! ## WAITB and the end of its wait -/

/-- The beat until which a WAITB with BEATS `body` holds the Conductor (R70). -/
def State.waitbEnd (s : State) (body : Body) : Word := s.bea.count + body.setWidth 64

/-- Short of 2^64 the end of the wait is the sum of the beat count and BEATS (R70, log entry 88). -/
theorem waitbEnd_toNat {s : State} {body : Body} (h : s.bea.count.toNat + body.toNat < 2 ^ 64) :
    (s.waitbEnd body).toNat = s.bea.count.toNat + body.toNat := by
  unfold State.waitbEnd
  rw [BitVec.toNat_add, BitVec.toNat_setWidth, Nat.add_mod_mod, Nat.mod_eq_of_lt h]

/-- What WAITB does at its own instruction: with BEATS zero it goes on, otherwise it waits there (R70). -/
theorem exec_waitb {s : State} {body : Body} (h : s.atWord (cword 0x12 body)) :
    exec (.waitb body) s = .next (if body = 0 then s.advance else s.await (.waitB (s.waitbEnd body))) := by
  have hx : exec (.waitb body) s = execWaitb body s := rfl
  rw [hx]
  unfold execWaitb
  rw [conduct_at _ h rfl, State.waitbEnd]

/-- The end of a WAITB's wait comes for a Conductor in RUN once the beat has come: it goes on (R70). -/
theorem exec_waitbExpire_reached {s : State} {till : Word} (hw : s.cnd.wait = .waitB till) (hr : s.running .cnd = true)
    (h : till.toNat ≤ s.bea.count.toNat) : exec .waitbExpire s = .next s.advance := by
  have hx : exec .waitbExpire s = execWaitbExpire s := rfl
  rw [hx]
  unfold execWaitbExpire
  rw [hw]
  exact whenB_true (by simp [hr, h])

/-- Before its beat the end of a WAITB's wait changes nothing (R70). -/
theorem exec_waitbExpire_before {s : State} {till : Word} (hw : s.cnd.wait = .waitB till)
    (h : s.bea.count.toNat < till.toNat) : exec .waitbExpire s = .next s := by
  have hx : exec .waitbExpire s = execWaitbExpire s := rfl
  rw [hx]
  unfold execWaitbExpire
  rw [hw]
  exact whenB_false (by simp [h])

/-! ## The statement -/

/-- Settles O56: a nonzero BEATS leaves the Conductor waiting for the beat `waitbEnd`, whose number is the sum of the beat
count and BEATS; before that beat the end of the wait changes nothing, from it on the Conductor goes on. -/
theorem waitBeats : Obligations.WaitBeats := by
  intro s body hat hlt
  have hrun : s.running .cnd = true := running_of_atWord hat
  have hexec := exec_waitb hat
  refine ⟨?zero, ?nonzero⟩
  case zero =>
    intro hb
    rw [if_pos hb] at hexec
    exact ⟨s.advance, hexec, passStep_advance s, (mayExecute_advance s).trans hrun⟩
  case nonzero =>
    intro hb
    rw [if_neg hb] at hexec
    refine ⟨_, hexec, rfl, mayExecute_of_waitB rfl, fun n => ?_⟩
    intro u
    have hwait : u.cnd.wait = .waitB (s.waitbEnd body) := rfl
    have hrunU : u.running .cnd = true := hrun
    rw [← waitbEnd_toNat hlt]
    refine ⟨?before, ?reached⟩
    case before =>
      intro hn
      exact ⟨exec_waitbExpire_before hwait hn, mayExecute_of_waitB hwait⟩
    case reached =>
      intro hn
      exact ⟨u.advance, exec_waitbExpire_reached hwait hrunU hn, passStep_advance u,
        (mayExecute_advance u).trans hrunU⟩

end Sys2Proof.Machine
end

section
/-! The U-range and its tier map (R184): the addresses of a U-page, the entry that a cast's TMAP segment gives it, what
that entry says of an address, and the statement `TierMapPages`. -/

namespace Sys2Proof.Machine

/-! ## U-pages -/

/-- U-page `k` covers the 0x1_0000 addresses from `k` × 0x1_0000 (R184). -/
theorem upage_eq_iff (u k : Nat) : u / 0x10000 = k ↔ k * 0x10000 ≤ u ∧ u ≤ k * 0x10000 + 0xFFFF := by omega

/-- The U-pages of the U-range are those below 2^28 (R184). -/
theorem upage_lt {u : Nat} (h : u ≤ 0x0FFFFFFFFFFF) : u / 0x10000 < 2 ^ 28 := by omega

/-! ## The entry of a U-page -/

/-- While a cast runs or is held, its TMAP segment is the tier map, and a page at or beyond COUNT has the zero entry. -/
theorem mapEntry_of_cast {s : State} {c : CastImg} (hc : s.cast = some c) (hm : s.tmv.map = .running ∨ s.tmv.map = .held)
    (k : Nat) : s.mapEntry k = if k < c.tmap.count then s.imageWord (c.tmap.addr + 8 * k) else 0 := by
  unfold State.mapEntry
  rcases hm with hrun | hheld
  · rw [hrun, hc]
  · rw [hheld, hc]

/-- Under the map of a cast a page has V = 0 at or beyond COUNT, and where its entry in the segment has V = 0 (R184). -/
theorem mapEntry_invalid {s : State} {c : CastImg} {k : Nat} (hc : s.cast = some c)
    (hm : s.tmv.map = .running ∨ s.tmv.map = .held)
    (h : c.tmap.count ≤ k ∨ bitAt (s.imageWord (c.tmap.addr + 8 * k)) 0 = false) : bitAt (s.mapEntry k) 0 = false := by
  rw [mapEntry_of_cast hc hm]
  split
  next hlt => exact h.resolve_left (Nat.not_le.mpr hlt)
  next => rfl

/-! ## The translation of an address -/

/-- An address of the U-range whose page has V = 1 goes to the same offset of the page in LIVE (R184, R185). -/
theorem paddr_of_valid {s : State} {u : Nat} (hu : u ≤ 0x0FFFFFFFFFFF) (hv : bitAt (s.mapEntry (u / 0x10000)) 0 = true) :
    s.paddr u = some (fldN (s.mapEntry (u / 0x10000)) 6 29 * 0x10000 + u % 0x10000) := by
  unfold State.paddr
  rw [if_pos (Nat.lt_succ_of_le hu), if_pos hv, Nat.mul_comm]

/-- An address whose page has V = 0 is not mapped (R184). -/
theorem paddr_of_invalid {s : State} {u : Nat} (hv : bitAt (s.mapEntry (u / 0x10000)) 0 = false) : s.paddr u = none := by
  simp [State.paddr, hv]

/-- An address beyond the U-range is not mapped (R184). -/
theorem paddr_of_beyond {s : State} {u : Nat} (hu : 0x0FFFFFFFFFFF < u) : s.paddr u = none :=
  if_neg (Nat.not_lt.mpr hu)

/-! ## The statement -/

/-- Settles O57: under the map of a cast the entry of a U-page is the one its TMAP segment gives, or zero at or beyond
COUNT, and an address is mapped exactly where it lies in the U-range and that entry has V = 1. -/
theorem tierMapPages : Obligations.TierMapPages := by
  refine ⟨fun u k hu => ⟨upage_eq_iff u k, upage_lt hu⟩, ?_⟩
  intro s c u hc hm k entry
  refine ⟨?mapped, ?unmapped, ?outside⟩
  case mapped =>
    intro hu hk hv
    have hentry : s.mapEntry k = entry := (mapEntry_of_cast hc hm k).trans (if_pos hk)
    rw [← hentry] at hv ⊢
    exact paddr_of_valid hu hv
  case unmapped => exact fun _ h => paddr_of_invalid (mapEntry_invalid hc hm h)
  case outside => exact paddr_of_beyond

end Sys2Proof.Machine
end

section
/-! What is handed to the ports (R285, R288): the frames sent and the frames queued, what the updates of a port leave of
them, and that sending what may leave a port hands nothing over anew. -/

namespace Sys2Proof.Machine

/-! ## Ports -/

/-- Beyond P7 there is no port, which reads as one that is off. -/
theorem port_of_ge (s : State) {p : Nat} (h : 8 ≤ p) : s.port p = Port.off := by
  simp [State.port, List.getD_eq_getElem?_getD, h]

/-- A port that has frames queued is one of the eight. -/
theorem port_lt_of_out {s : State} {p : Nat} (h : (s.port p).out ≠ []) : p < 8 :=
  Nat.lt_of_not_le fun hp => h (congrArg Port.out (port_of_ge s hp))

/-- A port that carries slots is one of the eight. -/
theorem port_lt_of_isUp {s : State} {p : Nat} (h : (s.port p).isUp = true) : p < 8 := by
  refine Nat.lt_of_not_le fun hp => ?_
  rw [port_of_ge s hp] at h
  cases h

/-- Any port after a write of one of the eight. -/
theorem port_putPort_eq (s : State) (p q : Nat) (v : Port) :
    (s.putPort p v).port q = if q = p ∧ p < 8 then v else s.port q := by
  by_cases hp : p < 8
  · by_cases hq : q = p
    · rw [if_pos ⟨hq, hp⟩, hq]
      exact port_putPort s p v hp
    · rw [if_neg (fun e => hq e.1)]
      simp [State.port, State.putPort, List.getD_eq_getElem?_getD, Ne.symm hq]
  · rw [if_neg (fun e => hp e.2)]
    simp [State.port, State.putPort, Vector.set!_eq_setIfInBounds, Vector.setIfInBounds, Array.setIfInBounds, hp]

/-- What a write of one port keeps of that port, its queue for one, it keeps of every port. -/
theorem port_putPort_keeps {α : Type} (g : Port → α) {s : State} {p : Nat} {v : Port} (h : g v = g (s.port p)) (q : Nat) :
    g ((s.putPort p v).port q) = g (s.port q) := by
  rw [port_putPort_eq]
  split
  next hq => rw [h, hq.1]
  next => rfl

/-! ## Frames sent and frames queued -/

/-- The data frames of channel `c` among what was sent on port `p`. -/
def sentTo (p c : Nat) (l : List Emit) : List OutFrame :=
  l.filterMap (fun e => match e with
    | .frame q type h b => if q = p ∧ channelOf type h.vch = c then some (OutFrame.unsent ⟨type, h, b⟩) else none
    | _ => none)

/-- The frames of channel `c` in a queue. -/
def queued (c : Nat) (l : List OutFrame) : List OutFrame :=
  (l.filter (fun f => channelOf f.type f.h.vch == c)).map OutFrame.unsent

/-- The frame alone, where it is of channel `c`. -/
def onChannel (c : Nat) (f : OutFrame) : List OutFrame := if channelOf f.type f.h.vch = c then [f.unsent] else []

/-- The frames handed to a port are those sent on it, then those queued to it. -/
theorem made_eq (s : State) (p c : Nat) : s.made p c = sentTo p c s.sent ++ queued c (s.port p).out := rfl

/-- What is handed to the ports depends on what was sent and on the queues alone. -/
theorem made_congr {s t : State} (hsent : t.sent = s.sent) (hout : ∀ q, (t.port q).out = (s.port q).out) (q c : Nat) :
    t.made q c = s.made q c := by rw [made_eq, made_eq, hsent, hout]

@[simp] theorem queued_nil (c : Nat) : queued c [] = [] := rfl

theorem queued_cons (c : Nat) (f : OutFrame) (l : List OutFrame) : queued c (f :: l) = onChannel c f ++ queued c l := by
  unfold queued onChannel
  by_cases h : channelOf f.type f.h.vch = c <;> simp [h]

theorem queued_append (c : Nat) (l m : List OutFrame) : queued c (l ++ m) = queued c l ++ queued c m := by
  simp [queued]

theorem sentTo_append (p c : Nat) (l m : List Emit) : sentTo p c (l ++ m) = sentTo p c l ++ sentTo p c m :=
  List.filterMap_append

/-- A data frame that is sent on port `p`, with whatever SEQ and ACK. -/
theorem sentTo_frame (p q c : Nat) (f : OutFrame) (seq ack : BitVec 11) :
    sentTo q c [.frame p f.type { f.h with seq := seq, ack := ack } f.payload] = if q = p then onChannel c f else [] := by
  by_cases hq : q = p
  · by_cases hc : channelOf f.type f.h.vch = c <;> simp [sentTo, onChannel, hq, hc, OutFrame.unsent]
  · simp [sentTo, hq, Ne.symm hq]

@[simp] theorem sentTo_ctrl (p q c : Nat) (b : List Byte) : sentTo q c [.ctrl p b] = [] := rfl

/-! ## What leaves a port -/

@[simp] theorem sendCtrl_cause (s : State) (p : Nat) (st : Option (Word × BitVec 32 × Nat)) :
    (s.sendCtrl p st).cause = s.cause := rfl

/-- A control slot is no data frame. -/
theorem sendCtrl_sentTo (s : State) (p : Nat) (st : Option (Word × BitVec 32 × Nat)) (q c : Nat) :
    sentTo q c (s.sendCtrl p st).sent = sentTo q c s.sent :=
  (sentTo_append ..).trans (List.append_nil _)

/-- A control slot leaves the queues. -/
theorem sendCtrl_out (s : State) (p : Nat) (st : Option (Word × BitVec 32 × Nat)) (q : Nat) :
    ((s.sendCtrl p st).port q).out = (s.port q).out :=
  port_putPort_keeps Port.out (v := { s.port p with group := [], ctrls := (s.port p).ctrls + 1 }) rfl q

@[simp] theorem transmit_cause (s : State) (p : Nat) (f : OutFrame) : (s.transmit p f).cause = s.cause := by
  unfold State.transmit
  dsimp only
  split <;> rfl

/-- A frame that leaves a port is sent on it. -/
theorem transmit_sentTo (s : State) (p : Nat) (f : OutFrame) (q c : Nat) :
    sentTo q c (s.transmit p f).sent = sentTo q c s.sent ++ if q = p then onChannel c f else [] := by
  unfold State.transmit
  dsimp only
  rw [← sentTo_frame p q c f, ← sentTo_append]
  split
  · exact sendCtrl_sentTo ..
  · rfl

/-- A frame that leaves a port leaves the queues as they are. -/
theorem transmit_out (s : State) (p : Nat) (f : OutFrame) (q : Nat) :
    ((s.transmit p f).port q).out = (s.port q).out := by
  unfold State.transmit
  dsimp only
  split
  · rw [sendCtrl_out]
    exact port_putPort_keeps Port.out (by rfl) q
  · exact port_putPort_keeps Port.out (by rfl) q

/-- The frame that may leave next is the first of its channel, which is not stuck: every channel keeps its order. -/
theorem nextOut_queued {s : State} {p : Nat} {l rest : List OutFrame} {f : OutFrame} {stuck : List Nat}
    (h : s.nextOut p stuck l = some (f, rest)) :
    channelOf f.type f.h.vch ∉ stuck ∧ ∀ c, queued c l = onChannel c f ++ queued c rest := by
  induction l generalizing stuck rest with
  | nil => cases h
  | cons g t ih =>
    unfold State.nextOut at h
    dsimp only at h
    split at h
    next hmay =>
      cases h
      refine ⟨?_, fun c => queued_cons c _ _⟩
      simpa using (Bool.and_eq_true_iff.mp hmay).1
    next =>
      obtain ⟨⟨f, r⟩, hnext, heq⟩ := Option.map_eq_some_iff.mp h
      cases heq
      obtain ⟨hstuck, hqueued⟩ := ih hnext
      obtain ⟨hne, hnot⟩ := not_or.mp (mt List.mem_cons.mpr hstuck)
      refine ⟨hnot, fun c => ?_⟩
      rw [queued_cons, queued_cons, hqueued]
      by_cases hc : channelOf f.type f.h.vch = c
      · have hg : onChannel c g = [] := if_neg (fun e => hne (hc.trans e.symm))
        rw [hg, List.nil_append, List.nil_append]
      · have hf : onChannel c f = [] := if_neg hc
        rw [hf, List.nil_append, List.nil_append]

/-- One frame goes from the queue of a port to what was sent on it. -/
theorem transmit_made {s : State} {p : Nat} {f : OutFrame} {rest : List OutFrame} {stuck : List Nat}
    (h : s.nextOut p stuck (s.port p).out = some (f, rest)) (q c : Nat) :
    ((s.putPort p { s.port p with out := rest }).transmit p f).made q c = s.made q c := by
  have hp : p < 8 := port_lt_of_out (fun e => by rw [e] at h; cases h)
  rw [made_eq, made_eq, transmit_sentTo, transmit_out, State.putPort_sent, port_putPort_eq]
  by_cases hq : q = p
  · subst hq
    rw [if_pos rfl, if_pos ⟨rfl, hp⟩, List.append_assoc, (nextOut_queued h).2 c]
  · rw [if_neg hq, if_neg (fun e => hq e.1), List.append_nil]

/-- Sending what may leave a port hands nothing to a port. -/
theorem drainN_made (s : State) (p n q c : Nat) : (s.drainN p n).made q c = s.made q c := by
  induction n generalizing s with
  | zero => rfl
  | succ n ih =>
    unfold State.drainN
    split
    next hnext => rw [ih, transmit_made hnext]
    next => rfl

@[simp] theorem drainN_cause (s : State) (p n : Nat) : (s.drainN p n).cause = s.cause := by
  induction n generalizing s with
  | zero => rfl
  | succ n ih =>
    unfold State.drainN
    split
    · rw [ih, transmit_cause, State.putPort_cause]
    · rfl

@[simp] theorem sendOn_cause (s : State) (p : Nat) (type : BitVec 4) (h : FrameHdr) (b : List Byte) :
    (s.sendOn p type h b).cause = s.cause := drainN_cause ..

/-- Queueing a frame to a port hands over that frame, whether or not it leaves at once. -/
theorem sendOn_made (s : State) {p : Nat} (hp : p < 8) (type : BitVec 4) (h : FrameHdr) (b : List Byte) (q c : Nat) :
    (s.sendOn p type h b).made q c = s.made q c ++ if q = p then onChannel c ⟨type, h, b⟩ else [] := by
  unfold State.sendOn State.drain
  dsimp only
  rw [drainN_made, made_eq, made_eq, State.putPort_sent, port_putPort_eq]
  by_cases hq : q = p
  · subst hq
    rw [if_pos ⟨rfl, hp⟩, if_pos rfl, queued_append, queued_cons, queued_nil, List.append_nil, List.append_assoc]
  · rw [if_neg (fun e => hq e.1), if_neg hq, List.append_nil]

/-- Queueing a frame to a port hands over the frame with SEQ and ACK blank. -/
theorem sendOn_handed (s : State) {p : Nat} (hp : p < 8) (type : BitVec 4) (h : FrameHdr) (b : List Byte) :
    s.handed (s.sendOn p type h b) p [OutFrame.unsent ⟨type, h, b⟩] := by
  intro q c
  rw [sendOn_made s hp]
  by_cases hc : channelOf type h.vch = c <;> simp [onChannel, OutFrame.unsent, hc]

/-- Where what was sent and the queues stand, nothing is handed over. -/
theorem handed_nil_of_same {s t : State} (hsent : t.sent = s.sent) (hout : ∀ q, (t.port q).out = (s.port q).out) (p : Nat) :
    s.handed t p [] := by
  intro q c
  rw [made_congr hsent hout]
  simp

/-- What is handed over after a state with the same frames sent and queued. -/
theorem handed_of_same {s s' t : State} {p : Nat} {l : List OutFrame} (h : s'.handed t p l) (hsent : s'.sent = s.sent)
    (hout : ∀ q, (s'.port q).out = (s.port q).out) : s.handed t p l := by
  intro q c
  rw [h q c, made_congr hsent hout]

end Sys2Proof.Machine
end

section
/-! The hops of a forwarded frame (R296): a data frame in order is acted on at once, and one that the module does not
consume is forwarded with one hop more, or dropped where that would exceed LNK_CFG.MAXHOPS; the statement `HopLimit`. -/

namespace Sys2Proof.Machine

/-! ## The count of drops -/

/-- The bits of a mask are those of its field. -/
theorem getLsbD_maskAt (lo w : Nat) {i : Nat} (h : lo + i < 64) : (maskAt lo w).getLsbD (lo + i) = decide (i < w) := by
  unfold maskAt
  rw [BitVec.getLsbD_shiftLeft, BitVec.getLsbD_ofNat, Nat.testBit_two_pow_sub_one]
  simp [h, show i < 64 by omega]

/-- The bits of a number placed in a field. -/
theorem getLsbD_putAt (lo w x : Nat) {i : Nat} (hi : i < w) (h : lo + i < 64) :
    (putAt lo w x).getLsbD (lo + i) = x.testBit i := by
  unfold putAt
  rw [BitVec.getLsbD_shiftLeft, BitVec.getLsbD_ofNat, Nat.testBit_mod_two_pow]
  simp [h, hi, show i < 64 by omega]

/-- A field that has been set reads back, where it lies in the word. -/
theorem fld_setFld (v : Word) {lo w : Nat} (x : Nat) (hw : lo + w ≤ 64) : fld (setFld v lo w x) lo w = BitVec.ofNat w x := by
  refine BitVec.eq_of_getLsbD_eq fun i hi => ?_
  have hbit : lo + i < 64 := by omega
  unfold fld setFld
  rw [BitVec.getLsbD_extractLsb', BitVec.getLsbD_or, BitVec.getLsbD_and, BitVec.getLsbD_not, getLsbD_maskAt lo w hbit,
    getLsbD_putAt lo w x hi hbit, BitVec.getLsbD_ofNat]
  simp [hi]

/-- The field of LNK_DROP that counts goes up to its greatest value. -/
theorem fldN_addDrop (s : State) {lo : Nat} (n : Nat) (h : lo + 16 ≤ 64) :
    fldN (s.addDrop lo n).lnk.drop lo 16 = min (fldN s.lnk.drop lo 16 + n) 0xFFFF :=
  (congrArg BitVec.toNat (fld_setFld _ _ h)).trans (Nat.mod_eq_of_lt (by omega))

/-- A cause that has been raised is set. -/
theorem bitAt_raise (s : State) (b : Blk) {n : Nat} (h : n < 64) : bitAt ((s.raise b n).causeOf b) n = true := by
  rw [causeOf_raise, if_pos rfl, bitAt_or]
  simp [bitAt, h]

/-! ## A data frame in order -/

/-- Taking frames leaves the queues. -/
theorem takeFrames_out (s : State) (p n c q : Nat) : ((s.takeFrames p n c).port q).out = (s.port q).out :=
  port_putPort_keeps Port.out (by rfl) q

/-- Taking frames leaves which ports frames are queued to. -/
theorem takeFrames_joined (s : State) (p n c q : Nat) : ((s.takeFrames p n c).port q).joined = (s.port q).joined :=
  port_putPort_keeps Port.joined (by rfl) q

/-- What may be acted on next is held. -/
theorem firstHeld_subset (seen : List (Nat × Nat)) (l : List HeldIn) : firstHeld seen l ⊆ l := by
  induction l generalizing seen with
  | nil => exact List.Subset.refl _
  | cons f t ih =>
    unfold firstHeld
    dsimp only
    split
    · exact List.cons_subset_cons f (ih _)
    · exact List.subset_cons_of_subset f (ih _)

/-- Of a channel with nothing held nothing is to be acted on before what arrives. -/
theorem not_heldFirst {s : State} {p : Nat} {type : BitVec 4} {h : FrameHdr} (hacts : s.actsNow p type h) (cmd : Instr) :
    s.heldFirst.contains ⟨p, 1, channelOf type h.vch, true, cmd⟩ = false := by
  obtain ⟨-, hheld, -⟩ := hacts
  rw [← Bool.not_eq_true, List.contains_iff_mem]
  exact fun hmem => hheld _ (firstHeld_subset _ _ hmem) rfl rfl

/-- What arrives in order, where nothing keeps it waiting, is taken and acted on at once. -/
theorem arrive_inOrder {s : State} {p : Nat} {type : BitVec 4} {h : FrameHdr} (hin : s.inOrder p type h) (cmd : Instr)
    (act : State → State) :
    s.arrive p 1 (channelOf type h.vch) cmd false act = act (s.takeFrames p 1 (channelOf type h.vch)) := by
  obtain ⟨⟨hup, -, -⟩, hacts⟩ := hin
  have hfirst := not_heldFirst hacts cmd
  obtain ⟨hflow, hheld, hprot⟩ := hacts
  have hnone : s.held.any (fun x => x.port == p && x.chan == channelOf type h.vch) = false := by
    simpa using hheld
  unfold State.arrive
  dsimp only
  rw [hfirst, hup, hflow, hnone, hprot]
  rfl

/-- A data frame in order that the module does not consume is forwarded at once (R294). -/
theorem receiveFrame_forwards {s : State} {p : Nat} {type : BitVec 4} {h : FrameHdr} (hin : s.inOrder p type h)
    (hpass : s.consumes p type h = false) (b : List Byte) (cmd : Instr) (waits : Bool) (act : State → State) :
    s.receiveFrame p type h b cmd waits act = (s.takeFrames p 1 (channelOf type h.vch)).forward p type h b := by
  obtain ⟨hup, hseq, hlen⟩ := hin.1
  have hp : p ≠ 8 := Nat.ne_of_lt (port_lt_of_isUp hup)
  have hgood : ¬ (h.seq ≠ s.rxNext p ∨ 8 < h.len) := by
    rintro (hne | hlong)
    · exact hne hseq
    · exact Nat.not_lt.mpr hlen hlong
  unfold State.receiveFrame
  dsimp only
  rw [if_neg hp, if_neg (fun e => hgood e.2.2), hpass, Bool.false_and, arrive_inOrder hin]
  rfl

/-- The command that brings a data frame answers what receiving it gives. -/
theorem exec_dataFrame {p : Nat} {h : FrameHdr} {addr len : Nat} {bs : List Byte} {f : BitVec 4 × List Byte × Instr}
    (hf : f ∈ dataFrames p h addr len bs) (s : State) :
    ∃ waits act, exec f.2.2 s = .next (s.receiveFrame p f.1 h f.2.1 f.2.2 waits act) := by
  revert f
  simp only [dataFrames, List.forall_mem_cons]
  exact ⟨⟨_, _, rfl⟩, ⟨_, _, rfl⟩, ⟨_, _, rfl⟩, ⟨_, _, rfl⟩, ⟨_, _, rfl⟩, ⟨_, _, rfl⟩, ⟨_, _, rfl⟩, ⟨_, _, rfl⟩,
    ⟨_, _, rfl⟩, List.forall_mem_nil _⟩

/-- What the command of a data frame does that is in order and is not consumed. -/
theorem exec_forwards {s : State} {p : Nat} {h : FrameHdr} {addr len : Nat} {bs : List Byte}
    {f : BitVec 4 × List Byte × Instr} (hf : f ∈ dataFrames p h addr len bs) (hin : s.inOrder p f.1 h)
    (hpass : s.consumes p f.1 h = false) :
    exec f.2.2 s = .next ((s.takeFrames p 1 (channelOf f.1 h.vch)).forward p f.1 h f.2.1) := by
  obtain ⟨waits, act, hexec⟩ := exec_dataFrame hf s
  rw [hexec, receiveFrame_forwards hin hpass]

/-! ## Forwarding -/

/-- A frame whose HOPS would exceed MAXHOPS is dropped (R296). -/
theorem forward_beyond {s : State} {h : FrameHdr} (hhops : s.maxHops < h.hops.toNat + 1) (p : Nat) (type : BitVec 4)
    (b : List Byte) : s.forward p type h b = (s.addDrop 48 1).raise .lnk 4 := if_pos hhops

/-- Within MAXHOPS a frame whose way is a port that is neither off nor down is queued to it with one hop more; its
VCH may change (R295). -/
theorem forward_within {s : State} {h : FrameHdr} {o : Nat} (hhops : h.hops.toNat + 1 ≤ s.maxHops)
    (hway : s.wayTo h.dst = some o) (hjoined : (s.port o).joined = true) (p : Nat) (type : BitVec 4) (b : List Byte) :
    o < 8 ∧ ∃ vch, s.forward p type h b = s.sendOn o type { h with hops := h.hops + 1, vch := vch } b := by
  unfold State.wayTo at hway
  dsimp only at hway
  split at hway
  next hport =>
    cases hway
    refine ⟨by omega, ?_⟩
    unfold State.forward State.sendPort
    dsimp only
    rw [if_neg (Nat.not_lt.mpr hhops), if_pos hport, if_pos hjoined]
    exact ⟨_, rfl⟩
  next => cases hway

/-- HOPS goes up by one where the sum stays within MAXHOPS, a field of five bits. -/
theorem hops_succ {s : State} {h : FrameHdr} (hhops : h.hops.toNat + 1 ≤ s.maxHops) :
    (h.hops + 1).toNat = h.hops.toNat + 1 := by
  have hmax : s.maxHops < 2 ^ 5 := BitVec.isLt _
  rw [BitVec.toNat_add]
  exact Nat.mod_eq_of_lt (Nat.lt_of_le_of_lt hhops hmax)

/-! ## The statement -/

/-- Settles O58: a data frame in order that is not consumed is taken and forwarded; `forward` queues it with one hop more
to the port of the tables, and beyond MAXHOPS counts it, raises the cause and sends nothing. -/
theorem hopLimit : Obligations.HopLimit := by
  intro s p h addr len bs f hf hin hpass maxHops
  have hexec := exec_forwards hf hin hpass
  have hsent : (s.takeFrames p 1 (channelOf f.1 h.vch)).sent = s.sent := rfl
  have hout := takeFrames_out s p 1 (channelOf f.1 h.vch)
  refine ⟨?within, ?beyond⟩
  case within =>
    intro hhops o hway hjoined
    have hjoined' := (takeFrames_joined s p 1 (channelOf f.1 h.vch) o).trans hjoined
    obtain ⟨ho, vch, hforward⟩ := forward_within (s := s.takeFrames p 1 (channelOf f.1 h.vch)) hhops hway hjoined' p f.1 f.2.1
    rw [hforward] at hexec
    exact ⟨_, _, hexec, handed_of_same (sendOn_handed _ ho _ _ _) hsent hout, hops_succ (s := s) hhops, rfl, rfl, rfl, rfl,
      rfl, rfl, sendOn_cause ..⟩
  case beyond =>
    intro hhops
    rw [forward_beyond (s := s.takeFrames p 1 (channelOf f.1 h.vch)) hhops] at hexec
    exact ⟨_, hexec, handed_nil_of_same hsent hout p, fldN_addDrop _ 1 (by decide), bitAt_raise _ .lnk (by decide)⟩

end Sys2Proof.Machine
end
